-- ==== Sys2Proof/Word.lean ====
section
/-! DEFINITION. The word types of the machine (R17, R42, R205) and nothing else. -/

namespace Sys2Proof

/-- A scalar register or address: 64 bits (R17). -/
abbrev Word := BitVec 64

/-- A vector lane or an instruction word: 32 bits (R17, R42). -/
abbrev W32 := BitVec 32

/-- One byte of memory. -/
abbrev Byte := BitVec 8

/-- A 16-byte sector's data, byte `k` in bits `8k+7 … 8k` (R205). -/
abbrev SectorData := BitVec 128

end Sys2Proof
end

