-- ==== Sys2Proof/Config.lean ====
section
/-! DEFINITION. What an implementation fixes, and the FREE VALUES of the model: opaque constants with no body, of which no
proof can learn anything. -/

namespace Sys2Proof

/-- DESIGN CHOICE (log 1): which of several enabled turns comes next where State names none; the manual leaves the
interleaving of the agents open. -/
opaque Config.freeTurn : Nat → Nat

/-- DESIGN CHOICE (log 3): the energy attributed to a crew for one issued unit, in nJ; the manual fixes ENERGY only within
5% of activity counters it does not give (R321). -/
opaque Config.freeEnergy : Nat → Word

/-- DESIGN CHOICE (log 3): a byte of a die's own memory read under a key it was not written with (R338): memory-key epoch
and physical address. -/
opaque Config.ciphertext : Nat → Nat → Byte

/-- DESIGN CHOICE (log 3): which entry of a contiguous group that breaks R295 translates an access; the manual allows any
entry of the group whose C bit is set. -/
opaque Config.freeGroupEntry : Nat → Nat

/-- DESIGN CHOICE (log 3): a 64-bit export handle (R331 fixes no value for it). -/
opaque Config.freeHandle : Nat → Word

/-- DESIGN CHOICE (log 3): a physical frame the service OS takes for a page table, a ring or a replica (R286, R331, R338: where the
service OS places its tables is not in the manual). -/
opaque Config.freeFrame : Nat → Nat

/-- DESIGN CHOICE (log 3): what the base dies and stacks drew in a window, in nJ (R322 measures it; the manual gives no number). -/
opaque Config.freePower : Nat → Nat

/-- DESIGN CHOICE (log 3): how many bytes of a COPY are performed when its extent is revoked: some prefix (R336). -/
opaque Config.freePrefix : Nat → Nat

/-- The PCI vendor of every function, and the device IDs of a die's function and of the management function (R330). -/
def Config.pciVendor : Nat := 0x1FC7
def Config.pciDie : Nat := 0x7681
def Config.pciMgmt : Nat := 0x7680

/-- Entries of a die's control queue, virtqueue 0, and at most of each submission queue, virtqueues 1 to 64 (R330). -/
def Config.controlQueueEntries : Nat := 256
def Config.submissionQueueEntries : Nat := 4096

/-- Entries of the management function's control queue (R330). -/
def Config.mgmtControlEntries : Nat := 64

/-- Entries of a die's event queue, virtqueue 65 (R330). -/
def Config.eventQueueEntries : Nat := 1024

/-- Entries of the management function's event queue (R330). -/
def Config.mgmtEventEntries : Nat := 256

end Sys2Proof
end

