-- ==== Sys2Proof/Syntax.lean ====
section
/-! DEFINITION. The syntax: every row of the opcode table is a constructor of `Instr`. The first 226 are strand instructions
(two of them prefixes), the next 14 are sequencer instructions, and the last 108 are the EVENTS of the table, which have no
word: what an event needs to be told from outside (which die, which message) is its argument. -/

namespace Sys2Proof

/-- Scalar register number, s0 to s63 (R17). -/
abbrev SReg := BitVec 6
/-- Vector register number, v0 to v127 (R17). -/
abbrev VReg := BitVec 7
/-- Predicate register number, p0 to p7 (R17). -/
abbrev PReg := BitVec 3

/-- MODE.TYPE (R19), in the order of its codes. -/
inductive Ty where
  | i32 | n32 | i64 | n64 | i16 | n16 | i8 | n8 | f32 | f64 | f16 | bf16 | f8a | f8b | f4 | l32
  deriving DecidableEq, Repr

/-- The conditions of `vcmp` (R105). -/
inductive Cmp where
  | eq | ne | lt | le | gt | ge | ltu | leu | gtu | geu
  deriving DecidableEq, Repr

/-- The conditions of `vfcmp` (R106). -/
inductive FCmp where
  | eq | ne | lt | le | gt | ge | un | ord
  deriving DecidableEq, Repr

/-- The operators of `vred` and `vscan` (R121). -/
inductive RedOp where
  | add | min | max | and | or | xor
  deriving DecidableEq, Repr

/-- The atomic operations (R229). -/
inductive AOp where
  | add | fadd | min | max | minu | maxu | and | or | xor | xchg | cas | inc | dec
  deriving DecidableEq, Repr

/-- Memory orders (R51). -/
inductive Order where
  | rlx | acq | rel | ar
  deriving DecidableEq, Repr

/-- A compute die, D0 to D7 (R1). -/
abbrev DieId := Fin 8
/-- A launch queue of a die (R315). -/
abbrev QueueId := Fin 64
/-- A core of a die (R3). -/
abbrev CoreId := Fin 20
/-- A quarter of a core (R3). -/
abbrev QuarterId := Fin 4
/-- A grid slot of a die (R318). -/
abbrev GridSlot := Fin 32
/-- A host link (R205). -/
abbrev LinkId := Fin 4
/-- A scale-up port of the package (R277). -/
abbrev PortId := Fin 64
/-- A Keyway context of a die (R261). -/
abbrev CtxId := Fin 64

/-- A home (R205): the memory controller of a stack, or the host agent of a link. -/
inductive Home where
  | stack (base : Fin 4) (s : Fin 3)
  | agent (k : LinkId)
  deriving DecidableEq, Repr

/-- A token holder (R205). -/
inductive Holder where
  | die (d : DieId)
  | agent (k : LinkId)
  | home (h : Home)
  deriving DecidableEq, Repr

/-- A PCIe function: a die's, or the management function (R330). -/
inductive FuncId where
  | die (d : DieId)
  | mgmt
  deriving DecidableEq, Repr

/-- A request for sectors of a line: GETS, GETX and PREQ (R209). -/
structure ReqMsg where
  src  : Holder
  line : Nat
  mask : BitVec 8
  deriving DecidableEq, Repr

/-- The sectors of a line that a RECALL asks for (R209, R219). -/
structure RecallMsg where
  line : Nat
  mask : BitVec 8
  deriving DecidableEq, Repr

/-- A token message (R209). -/
structure TokMsg where
  src    : Holder
  sec    : Nat
  count  : Nat
  own    : Bool
  dirty  : Bool
  serial : BitVec 8
  data   : Option SectorData
  deriving DecidableEq, Repr

/-- The activation of a persistent request (R209, R212). -/
structure ActMsg where
  home  : Home
  line  : Nat
  mask  : BitVec 8
  req   : Holder
  epoch : BitVec 8
  deriving DecidableEq, Repr

/-- The answer to RECREATE (R209): owner-token bitmap with the data of each set bit; `held` says that the holder dropped any
token of the line (R217). -/
structure RecAck where
  src    : Holder
  line   : Nat
  serial : BitVec 8
  owner  : List (Nat × SectorData)
  held   : Bool
  deriving DecidableEq, Repr

/-- Header of a Keyway message (R263). -/
structure KHdr where
  jobkey : BitVec 32
  spkg   : BitVec 16
  sdie   : DieId
  dpkg   : BitVec 16
  ddie   : DieId
  ctx    : BitVec 8
  pull   : Bool
  tag    : BitVec 40
  length : BitVec 32
  seq    : BitVec 32
  deriving DecidableEq, Repr

/-- Operands of an atomic that travels (R209, R276). -/
structure AtomArgs where
  op  : AOp
  w64 : Bool
  x   : Word
  y   : Word
  ret : Bool
  deriving DecidableEq, Repr

/-- A fabric packet (R276). -/
structure Packet where
  key     : BitVec 32
  dpkg    : BitVec 16
  ddie    : DieId
  kind    : BitVec 8
  spkg    : BitVec 16
  sdie    : DieId
  status  : BitVec 8
  nbytes  : BitVec 16
  txn     : BitVec 16
  addr    : Word
  frag    : BitVec 32
  khdr    : Option KHdr
  atom    : Option AtomArgs
  payload : List Byte
  deriving DecidableEq, Repr

/-- Who asked a home for an access (R220, R221): a die cache, on behalf of a strand's element, or a fabric port, on behalf of
a remote packet. -/
inductive Requester where
  | die (d : DieId) (txn : Nat)
  | port (p : PortId) (req : Packet)
  deriving DecidableEq, Repr

/-- ATOM (R209). -/
structure AtomMsg where
  src  : Requester
  sec  : Nat
  off  : Nat
  args : AtomArgs
  deriving DecidableEq, Repr

/-- HLD (R209). -/
structure HldMsg where
  src  : Requester
  sec  : Nat
  mask : BitVec 16
  deriving DecidableEq, Repr

/-- HST (R209). -/
structure HstMsg where
  src  : Requester
  sec  : Nat
  mask : BitVec 16
  data : SectorData
  deriving DecidableEq, Repr

/-- ATOMR, HLDR and HSTR (R209). -/
structure RepMsg where
  dst    : Requester
  data   : SectorData
  status : Byte
  deriving DecidableEq, Repr

/-- A Keyway message arriving at a die, through a port or over the package network (R265, R273). -/
structure KMsg where
  die     : DieId
  via     : Option PortId
  hdr     : KHdr
  send    : Nat
  payload : List Byte
  deriving DecidableEq, Repr

/-- A pull request arriving at the sender's die (R264, R276). -/
structure PullReq where
  die  : DieId
  via  : Option PortId
  hdr  : KHdr
  send : Nat
  txn  : Nat
  len  : Nat
  deriving DecidableEq, Repr

/-- The answer to a send: the send, and the port it arrives at with its packet's job key, if it comes from another package (R265, R277). -/
structure KReply where
  send : Nat
  via  : Option (PortId × BitVec 32)
  deriving DecidableEq, Repr

/-- Pull data arriving at the receiver's die, under its job key (R264, R276, R277); `fail` is the sender's fault code and subcode (R273). -/
structure PullData where
  die   : DieId
  via   : Option PortId
  key   : BitVec 32
  txn   : Nat
  off   : Nat
  bytes : List Byte
  fail  : Option (Byte × Byte)
  deriving DecidableEq, Repr

/-- Writes of the service OS to control-block registers that have no event of their own in the opcode table (R334), and the
disabling of a die for its peers (R284). -/
inductive CtlWrite where
  | trapRing (d : DieId) (base : Word) (log : Byte)
  | faultRing (d : DieId) (base : Word) (log : Byte)
  | dqcfg (d : DieId) (q : QueueId) (base : Word) (n : Word) (head : Word)
  | stkpool (d : DieId) (q : QueueId) (base len : Word)
  | keytab (d : DieId) (i : Byte) (v : BitVec 32)
  | mcgrp (d : DieId) (g : Byte) (m : BitVec 6) (v : Word)
  | partition (d : DieId) (v : Byte)
  | portmemb (p : PortId) (e : BitVec 4) (v : Word)
  | fabwin (w : BitVec 16) (v : Word)
  | dieEnable (d : DieId) (on : Bool)
  deriving DecidableEq, Repr

/-- How a scale-up port trained (R341). -/
structure PortTrain where
  width   : BitVec 2
  slow    : Bool
  partner : BitVec 16
  deriving DecidableEq, Repr

/-- What bring-up finds (R334, R340, R341): whether the image verifies, which units come up, the die-to-die and package-network links
marked failed, the package's ID, and the range of device memory that it carves out for the service OS of each base die. -/
structure BringUp where
  imageOk   : Bool
  dies      : BitVec 8
  stackBits    : BitVec 12
  hostLinks : BitVec 4
  cxl       : BitVec 4
  ports     : List PortTrain
  pkgId     : BitVec 16
  fwVersion : Word
  badLinks  : List Nat
  carve     : List (Nat × Nat)
  deriving DecidableEq, Repr

/-- The four values of a response record (R85). -/
structure Resp4 where
  v1 : Word
  v2 : Word
  v3 : Word
  v4 : Word
  deriving DecidableEq, Repr

/-- The instructions and events of the opcode table, in the table's order. -/
inductive Instr where
  /-- NOP (R78): No operation; the all-zero word. -/
  | nop (e : Bool)
  /-- EXIT (R76): Retires the strand, or enters EJECT-WAIT while remnants are outstanding. -/
  | exit
  /-- YIELD (R78): Ends the run and places the strand last among READY strands of its class. -/
  | yield
  /-- EBREAK (R79): Traps DEBUG subcode 1 when a debugger is attached, otherwise acts as nop. -/
  | ebreak (e : Bool)
  /-- PAUSE (R78): Parks the strand for a bounded number of arithmetic-clock cycles. -/
  | pause (ra : SReg)
  /-- ACQUIRE (R80): Takes the strand's full register allotment, parking until the quarter grants it. -/
  | acquire
  /-- WAITC (R240): Parks until a global 8-byte word differs from a comparand, or until a 10 us timeout. -/
  | waitc (rd : SReg) (ra : SReg) (rb : SReg)
  /-- GETSR (R81): Reads a special register into a scalar register. -/
  | getsr (e : Bool) (rd : SReg) (n : BitVec 6)
  /-- SETSR (R81): Writes a scalar register into a writable special register. -/
  | setsr (e : Bool) (ra : SReg) (n : BitVec 6)
  /-- GETM (R82): Reads MODE zero-extended into a scalar register. -/
  | getm (e : Bool) (rd : SReg)
  /-- SETMR (R82): Writes MODE from a scalar register. -/
  | setmr (e : Bool) (ra : SReg)
  /-- JOIN (R76): Waits for the join count to reach zero and takes back returned lanes, or retires a remnant into its parent. -/
  | join
  /-- TRAP (R83): Writes a call record into the trap ring and parks the strand for the service OS response. -/
  | trap (n : BitVec 19)
  /-- SETM (R82): Writes MODE from an immediate. -/
  | setm (e : Bool) (imm : BitVec 13)
  /-- ADD (R68): Scalar 64-bit addition. -/
  | add (e : Bool) (rd : SReg) (ra : SReg) (rb : SReg)
  /-- SUB (R68): Scalar 64-bit subtraction. -/
  | sub (e : Bool) (rd : SReg) (ra : SReg) (rb : SReg)
  /-- MUL (R68): Low 64 bits of a scalar product. -/
  | mul (e : Bool) (rd : SReg) (ra : SReg) (rb : SReg)
  /-- MULH (R68): High 64 bits of a signed scalar product. -/
  | mulh (e : Bool) (rd : SReg) (ra : SReg) (rb : SReg)
  /-- MULHU (R68): High 64 bits of an unsigned scalar product. -/
  | mulhu (e : Bool) (rd : SReg) (ra : SReg) (rb : SReg)
  /-- DIV (R69): Signed scalar division that never traps. -/
  | div (e : Bool) (rd : SReg) (ra : SReg) (rb : SReg)
  /-- DIVU (R69): Unsigned scalar division that never traps. -/
  | divu (e : Bool) (rd : SReg) (ra : SReg) (rb : SReg)
  /-- REM (R69): Signed scalar remainder. -/
  | rem (e : Bool) (rd : SReg) (ra : SReg) (rb : SReg)
  /-- REMU (R69): Unsigned scalar remainder. -/
  | remu (e : Bool) (rd : SReg) (ra : SReg) (rb : SReg)
  /-- AND (R68): Scalar bitwise AND. -/
  | and (e : Bool) (rd : SReg) (ra : SReg) (rb : SReg)
  /-- OR (R68): Scalar bitwise OR. -/
  | or (e : Bool) (rd : SReg) (ra : SReg) (rb : SReg)
  /-- XOR (R68): Scalar bitwise XOR. -/
  | xor (e : Bool) (rd : SReg) (ra : SReg) (rb : SReg)
  /-- ANDN (R68): Scalar AND with the complement of the second operand. -/
  | andn (e : Bool) (rd : SReg) (ra : SReg) (rb : SReg)
  /-- SHL (R68): Scalar shift left by the low six bits of the second operand. -/
  | shl (e : Bool) (rd : SReg) (ra : SReg) (rb : SReg)
  /-- SHR (R68): Scalar logical shift right. -/
  | shr (e : Bool) (rd : SReg) (ra : SReg) (rb : SReg)
  /-- SRA (R68): Scalar arithmetic shift right. -/
  | sra (e : Bool) (rd : SReg) (ra : SReg) (rb : SReg)
  /-- MIN (R68): Signed scalar minimum. -/
  | min (e : Bool) (rd : SReg) (ra : SReg) (rb : SReg)
  /-- MAX (R68): Signed scalar maximum. -/
  | max (e : Bool) (rd : SReg) (ra : SReg) (rb : SReg)
  /-- MINU (R68): Unsigned scalar minimum. -/
  | minu (e : Bool) (rd : SReg) (ra : SReg) (rb : SReg)
  /-- MAXU (R68): Unsigned scalar maximum. -/
  | maxu (e : Bool) (rd : SReg) (ra : SReg) (rb : SReg)
  /-- SLT (R68): Sets 1 when the first operand is less than the second, signed. -/
  | slt (e : Bool) (rd : SReg) (ra : SReg) (rb : SReg)
  /-- SLTU (R68): Sets 1 when the first operand is less than the second, unsigned. -/
  | sltu (e : Bool) (rd : SReg) (ra : SReg) (rb : SReg)
  /-- SEQ (R68): Sets 1 when the operands are equal. -/
  | seq (e : Bool) (rd : SReg) (ra : SReg) (rb : SReg)
  /-- SNE (R68): Sets 1 when the operands differ. -/
  | sne (e : Bool) (rd : SReg) (ra : SReg) (rb : SReg)
  /-- POPC (R68): Counts the set bits of a scalar register. -/
  | popc (e : Bool) (rd : SReg) (ra : SReg)
  /-- CLZ (R68): Counts leading zero bits of a scalar register. -/
  | clz (e : Bool) (rd : SReg) (ra : SReg)
  /-- CTZ (R68): Counts trailing zero bits of a scalar register. -/
  | ctz (e : Bool) (rd : SReg) (ra : SReg)
  /-- BREV (R68): Reverses the bits of a scalar register. -/
  | brev (e : Bool) (rd : SReg) (ra : SReg)
  /-- BFX (R68): Extracts a bit field at a position and length taken from the second operand. -/
  | bfx (e : Bool) (rd : SReg) (ra : SReg) (rb : SReg)
  /-- ADDI (R70): Adds a sign-extended 13-bit immediate. -/
  | addi (e : Bool) (rd : SReg) (ra : SReg) (imm : BitVec 13)
  /-- ANDI (R70): ANDs with a sign-extended immediate. -/
  | andi (e : Bool) (rd : SReg) (ra : SReg) (imm : BitVec 13)
  /-- ORI (R70): ORs with a sign-extended immediate. -/
  | ori (e : Bool) (rd : SReg) (ra : SReg) (imm : BitVec 13)
  /-- XORI (R70): XORs with a sign-extended immediate. -/
  | xori (e : Bool) (rd : SReg) (ra : SReg) (imm : BitVec 13)
  /-- SHLI (R70): Shifts left by an immediate from 0 to 63. -/
  | shli (e : Bool) (rd : SReg) (ra : SReg) (imm : BitVec 13)
  /-- SHRI (R70): Shifts right with zero fill by an immediate. -/
  | shri (e : Bool) (rd : SReg) (ra : SReg) (imm : BitVec 13)
  /-- SRAI (R70): Shifts right with sign fill by an immediate. -/
  | srai (e : Bool) (rd : SReg) (ra : SReg) (imm : BitVec 13)
  /-- SLTI (R70): Signed compare against an immediate. -/
  | slti (e : Bool) (rd : SReg) (ra : SReg) (imm : BitVec 13)
  /-- SLTIU (R70): Unsigned compare against a sign-extended immediate. -/
  | sltiu (e : Bool) (rd : SReg) (ra : SReg) (imm : BitVec 13)
  /-- LI (R71): Loads a sign-extended 19-bit immediate. -/
  | li (e : Bool) (rd : SReg) (imm : BitVec 19)
  /-- LUI (R71): Loads a sign-extended immediate shifted left by 19. -/
  | lui (e : Bool) (rd : SReg) (imm : BitVec 19)
  /-- LSI (R71): Shifts the destination left by 19 and ORs in 19 immediate bits. -/
  | lsi (e : Bool) (rd : SReg) (imm : BitVec 19)
  /-- BZ (R72): Branches when the scalar register is zero. -/
  | bz (ra : SReg) (disp : BitVec 16)
  /-- BNZ (R72): Branches when the scalar register is nonzero. -/
  | bnz (ra : SReg) (disp : BitVec 16)
  /-- BLTZ (R72): Branches when the scalar register is negative. -/
  | bltz (ra : SReg) (disp : BitVec 16)
  /-- BGEZ (R72): Branches when the scalar register is not negative. -/
  | bgez (ra : SReg) (disp : BitVec 16)
  /-- BGTZ (R72): Branches when the scalar register is positive. -/
  | bgtz (ra : SReg) (disp : BitVec 16)
  /-- BLEZ (R72): Branches when the scalar register is not positive. -/
  | blez (ra : SReg) (disp : BitVec 16)
  /-- JMP (R73): Jumps by a 25-bit word displacement. -/
  | jmp (disp : BitVec 25)
  /-- CALL (R73): Jumps by a word displacement and writes the return address to s62. -/
  | call (disp : BitVec 25)
  /-- JR (R74): Jumps to the address in a scalar register. -/
  | jr (ra : SReg)
  /-- CALLI (R74): Calls the address in a scalar register, writing s62. -/
  | calli (ra : SReg)
  /-- RET (R74): Jumps to the address in s62. -/
  | ret
  /-- EJECT (R20): Hands the predicated lanes to a new remnant, branches, or does nothing, by case. -/
  | eject (rd : SReg) (p : PReg) (disp : BitVec 16)
  /-- VADD (R95): Vector integer addition, wrapping or saturating. -/
  | vadd (e : Bool) (vd : VReg) (va : VReg) (vb : VReg)
  /-- VSUB (R95): Vector integer subtraction. -/
  | vsub (e : Bool) (vd : VReg) (va : VReg) (vb : VReg)
  /-- VMUL (R95): Vector integer multiply, low bits. -/
  | vmul (e : Bool) (vd : VReg) (va : VReg) (vb : VReg)
  /-- VMULH (R95): Vector signed multiply, high bits. -/
  | vmulh (e : Bool) (vd : VReg) (va : VReg) (vb : VReg)
  /-- VMULHU (R95): Vector unsigned multiply, high bits. -/
  | vmulhu (e : Bool) (vd : VReg) (va : VReg) (vb : VReg)
  /-- VAND (R95): Vector bitwise AND. -/
  | vand (e : Bool) (vd : VReg) (va : VReg) (vb : VReg)
  /-- VOR (R95): Vector bitwise OR. -/
  | vor (e : Bool) (vd : VReg) (va : VReg) (vb : VReg)
  /-- VXOR (R95): Vector bitwise XOR. -/
  | vxor (e : Bool) (vd : VReg) (va : VReg) (vb : VReg)
  /-- VSHL (R95): Vector shift left. -/
  | vshl (e : Bool) (vd : VReg) (va : VReg) (vb : VReg)
  /-- VSHR (R95): Vector logical shift right. -/
  | vshr (e : Bool) (vd : VReg) (va : VReg) (vb : VReg)
  /-- VSRA (R95): Vector arithmetic shift right. -/
  | vsra (e : Bool) (vd : VReg) (va : VReg) (vb : VReg)
  /-- VMIN (R95): Vector signed minimum. -/
  | vmin (e : Bool) (vd : VReg) (va : VReg) (vb : VReg)
  /-- VMAX (R95): Vector signed maximum. -/
  | vmax (e : Bool) (vd : VReg) (va : VReg) (vb : VReg)
  /-- VMINU (R95): Vector unsigned minimum. -/
  | vminu (e : Bool) (vd : VReg) (va : VReg) (vb : VReg)
  /-- VMAXU (R95): Vector unsigned maximum. -/
  | vmaxu (e : Bool) (vd : VReg) (va : VReg) (vb : VReg)
  /-- VABSD (R95): Vector absolute difference. -/
  | vabsd (e : Bool) (vd : VReg) (va : VReg) (vb : VReg)
  /-- VADD_VS (R95): Vector integer addition with a scalar operand. -/
  | vaddS (e : Bool) (vd : VReg) (va : VReg) (sb : SReg)
  /-- VSUB_VS (R95): Vector integer subtraction with a scalar operand. -/
  | vsubS (e : Bool) (vd : VReg) (va : VReg) (sb : SReg)
  /-- VMUL_VS (R95): Vector multiply by a scalar, low bits. -/
  | vmulS (e : Bool) (vd : VReg) (va : VReg) (sb : SReg)
  /-- VMULH_VS (R95): Vector signed multiply by a scalar, high bits. -/
  | vmulhS (e : Bool) (vd : VReg) (va : VReg) (sb : SReg)
  /-- VMULHU_VS (R95): Vector unsigned multiply by a scalar, high bits. -/
  | vmulhuS (e : Bool) (vd : VReg) (va : VReg) (sb : SReg)
  /-- VAND_VS (R95): Vector AND with a scalar. -/
  | vandS (e : Bool) (vd : VReg) (va : VReg) (sb : SReg)
  /-- VOR_VS (R95): Vector OR with a scalar. -/
  | vorS (e : Bool) (vd : VReg) (va : VReg) (sb : SReg)
  /-- VXOR_VS (R95): Vector XOR with a scalar. -/
  | vxorS (e : Bool) (vd : VReg) (va : VReg) (sb : SReg)
  /-- VSHL_VS (R95): Vector shift left by a scalar. -/
  | vshlS (e : Bool) (vd : VReg) (va : VReg) (sb : SReg)
  /-- VSHR_VS (R95): Vector logical shift right by a scalar. -/
  | vshrS (e : Bool) (vd : VReg) (va : VReg) (sb : SReg)
  /-- VSRA_VS (R95): Vector arithmetic shift right by a scalar. -/
  | vsraS (e : Bool) (vd : VReg) (va : VReg) (sb : SReg)
  /-- VMIN_VS (R95): Vector signed minimum with a scalar. -/
  | vminS (e : Bool) (vd : VReg) (va : VReg) (sb : SReg)
  /-- VMAX_VS (R95): Vector signed maximum with a scalar. -/
  | vmaxS (e : Bool) (vd : VReg) (va : VReg) (sb : SReg)
  /-- VMINU_VS (R95): Vector unsigned minimum with a scalar. -/
  | vminuS (e : Bool) (vd : VReg) (va : VReg) (sb : SReg)
  /-- VMAXU_VS (R95): Vector unsigned maximum with a scalar. -/
  | vmaxuS (e : Bool) (vd : VReg) (va : VReg) (sb : SReg)
  /-- VABSD_VS (R95): Vector absolute difference with a scalar. -/
  | vabsdS (e : Bool) (vd : VReg) (va : VReg) (sb : SReg)
  /-- VNEG (R96): Vector integer negation. -/
  | vneg (e : Bool) (vd : VReg) (va : VReg)
  /-- VABS (R96): Vector integer absolute value. -/
  | vabs (e : Bool) (vd : VReg) (va : VReg)
  /-- VNOT (R96): Vector bitwise NOT. -/
  | vnot (e : Bool) (vd : VReg) (va : VReg)
  /-- VPOPC (R96): Vector population count. -/
  | vpopc (e : Bool) (vd : VReg) (va : VReg)
  /-- VCLZ (R96): Vector count of leading zeros. -/
  | vclz (e : Bool) (vd : VReg) (va : VReg)
  /-- VCTZ (R96): Vector count of trailing zeros. -/
  | vctz (e : Bool) (vd : VReg) (va : VReg)
  /-- VBREV (R96): Vector bit reversal. -/
  | vbrev (e : Bool) (vd : VReg) (va : VReg)
  /-- VMOV (R96): Vector register move. -/
  | vmov (e : Bool) (vd : VReg) (va : VReg)
  /-- VSEL (R96): Writes every live lane from one source inside the guard and the other outside it. -/
  | vsel (e : Bool) (vd : VReg) (va : VReg) (vb : VReg)
  /-- VMAD (R96): Vector integer multiply-add into the destination. -/
  | vmad (e : Bool) (vd : VReg) (va : VReg) (vb : VReg)
  /-- VADDI (R97): Adds a sign-extended 11-bit immediate to every guarded lane. -/
  | vaddi (e : Bool) (vd : VReg) (va : VReg) (imm : BitVec 11)
  /-- VLI (R98): Writes a sign-extended 18-bit pattern into every guarded lane. -/
  | vli (e : Bool) (vd : VReg) (imm : BitVec 18)
  /-- VFADD (R99): Vector floating-point addition. -/
  | vfadd (e : Bool) (vd : VReg) (va : VReg) (vb : VReg)
  /-- VFSUB (R99): Vector floating-point subtraction. -/
  | vfsub (e : Bool) (vd : VReg) (va : VReg) (vb : VReg)
  /-- VFMUL (R99): Vector floating-point multiplication. -/
  | vfmul (e : Bool) (vd : VReg) (va : VReg) (vb : VReg)
  /-- VFDIV (R99): Vector floating-point division. -/
  | vfdiv (e : Bool) (vd : VReg) (va : VReg) (vb : VReg)
  /-- VFMIN (R99): Vector floating-point minimumNumber. -/
  | vfmin (e : Bool) (vd : VReg) (va : VReg) (vb : VReg)
  /-- VFMAX (R99): Vector floating-point maximumNumber. -/
  | vfmax (e : Bool) (vd : VReg) (va : VReg) (vb : VReg)
  /-- VFSQRT (R99): Vector floating-point square root. -/
  | vfsqrt (e : Bool) (vd : VReg) (va : VReg)
  /-- VFABS (R99): Clears the sign bit of each guarded lane. -/
  | vfabs (e : Bool) (vd : VReg) (va : VReg)
  /-- VFNEG (R99): Inverts the sign bit of each guarded lane. -/
  | vfneg (e : Bool) (vd : VReg) (va : VReg)
  /-- VFSGN (R99): Copies the sign of the second operand onto the first. -/
  | vfsgn (e : Bool) (vd : VReg) (va : VReg) (vb : VReg)
  /-- VFRINT (R99): Rounds to an integral value in the same format. -/
  | vfrint (e : Bool) (vd : VReg) (va : VReg)
  /-- VFCLASS (R99): Writes the class mask of each guarded lane. -/
  | vfclass (e : Bool) (vd : VReg) (va : VReg)
  /-- VFADD_VS (R100): Vector floating-point addition with a scalar operand. -/
  | vfaddS (e : Bool) (vd : VReg) (va : VReg) (sb : SReg)
  /-- VFSUB_VS (R100): Vector floating-point subtraction of a scalar. -/
  | vfsubS (e : Bool) (vd : VReg) (va : VReg) (sb : SReg)
  /-- VFMUL_VS (R100): Vector floating-point multiplication by a scalar. -/
  | vfmulS (e : Bool) (vd : VReg) (va : VReg) (sb : SReg)
  /-- VFDIV_VS (R100): Vector floating-point division by a scalar. -/
  | vfdivS (e : Bool) (vd : VReg) (va : VReg) (sb : SReg)
  /-- VFMIN_VS (R100): Vector floating-point minimum with a scalar. -/
  | vfminS (e : Bool) (vd : VReg) (va : VReg) (sb : SReg)
  /-- VFMAX_VS (R100): Vector floating-point maximum with a scalar. -/
  | vfmaxS (e : Bool) (vd : VReg) (va : VReg) (sb : SReg)
  /-- VFMA (R101): Fused a times b plus the destination. -/
  | vfma (e : Bool) (vd : VReg) (va : VReg) (vb : VReg)
  /-- VFMS (R101): Fused a times b minus the destination. -/
  | vfms (e : Bool) (vd : VReg) (va : VReg) (vb : VReg)
  /-- VFNMA (R101): Fused negated product minus the destination. -/
  | vfnma (e : Bool) (vd : VReg) (va : VReg) (vb : VReg)
  /-- VFNMS (R101): Fused negated product plus the destination. -/
  | vfnms (e : Bool) (vd : VReg) (va : VReg) (vb : VReg)
  /-- VCVT (R102): Converts each guarded lane from a source type to MODE.TYPE. -/
  | vcvt (e : Bool) (src : Ty) (vd : VReg) (va : VReg)
  /-- VTOLOG (R154): Converts F32 lanes to L32. -/
  | vtolog (e : Bool) (vd : VReg) (va : VReg)
  /-- VFROMLOG (R155): Converts L32 lanes to F32. -/
  | vfromlog (e : Bool) (vd : VReg) (va : VReg)
  /-- VLMUL (R103): Log-domain multiplication by adding logarithms. -/
  | vlmul (e : Bool) (vd : VReg) (va : VReg) (vb : VReg)
  /-- VLDIV (R103): Log-domain division by subtracting logarithms. -/
  | vldiv (e : Bool) (vd : VReg) (va : VReg) (vb : VReg)
  /-- VLSQRT (R103): Log-domain square root. -/
  | vlsqrt (e : Bool) (vd : VReg) (va : VReg)
  /-- VLPOW (R103): Log-domain power by a Q8.8 factor. -/
  | vlpow (e : Bool) (vd : VReg) (va : VReg) (vb : VReg)
  /-- VEXP2 (R103): Makes an L32 value whose logarithm is the F32 input. -/
  | vexp2 (e : Bool) (vd : VReg) (va : VReg)
  /-- VLOG2 (R103): Writes the F32 value of an L32 logarithm. -/
  | vlog2 (e : Bool) (vd : VReg) (va : VReg)
  /-- VCMP (R105): Integer compare of two vectors into a predicate. -/
  | vcmp (e : Bool) (c : Cmp) (pd : PReg) (va : VReg) (vb : VReg)
  /-- VFCMP (R106): Floating-point compare of two vectors into a predicate. -/
  | vfcmp (e : Bool) (c : FCmp) (pd : PReg) (va : VReg) (vb : VReg)
  /-- PAND (R107): Predicate AND. -/
  | pand (e : Bool) (pd : PReg) (pa : PReg) (pb : PReg)
  /-- POR (R107): Predicate OR. -/
  | por (e : Bool) (pd : PReg) (pa : PReg) (pb : PReg)
  /-- PXOR (R107): Predicate XOR. -/
  | pxor (e : Bool) (pd : PReg) (pa : PReg) (pb : PReg)
  /-- PANDN (R107): Predicate AND with complement. -/
  | pandn (e : Bool) (pd : PReg) (pa : PReg) (pb : PReg)
  /-- PNOT (R107): Predicate complement. -/
  | pnot (e : Bool) (pd : PReg) (pa : PReg)
  /-- PMOV (R107): Predicate move. -/
  | pmov (e : Bool) (pd : PReg) (pa : PReg)
  /-- PFIRST (R107): Keeps only the lowest live set bit of a predicate. -/
  | pfirst (e : Bool) (pd : PReg) (pa : PReg)
  /-- PFROMS (R107): Copies the low LANES bits of a scalar register into a predicate. -/
  | pfroms (e : Bool) (pd : PReg) (ra : SReg)
  /-- VRED (R121): Folds the guarded lanes by an operator into a scalar register. -/
  | vred (e : Bool) (op : RedOp) (rd : SReg) (va : VReg)
  /-- VSCAN (R121): Inclusive scan of the guarded lanes by an operator. -/
  | vscan (e : Bool) (op : RedOp) (vd : VReg) (va : VReg)
  /-- VBALLOT (R122): Copies a live-masked predicate into a scalar register. -/
  | vballot (e : Bool) (rd : SReg) (pa : PReg)
  /-- VPCNT (R122): Counts the live set bits of a predicate. -/
  | vpcnt (e : Bool) (rd : SReg) (pa : PReg)
  /-- VANY (R122): Writes 1 when any live bit of a predicate is set. -/
  | vany (e : Bool) (rd : SReg) (pa : PReg)
  /-- VALL (R122): Writes 1 when every live bit of a predicate is set. -/
  | vall (e : Bool) (rd : SReg) (pa : PReg)
  /-- VCOMPRESS (R123): Packs the selected lanes of a vector to the bottom of the destination. -/
  | vcompress (e : Bool) (vd : VReg) (va : VReg) (p : PReg)
  /-- VEXPAND (R123): Spreads the low elements of a vector to the selected lanes. -/
  | vexpand (e : Bool) (vd : VReg) (va : VReg) (p : PReg)
  /-- VLANEID (R124): Writes each guarded lane's own number. -/
  | vlaneid (e : Bool) (vd : VReg)
  /-- VFILL (R124): Broadcasts a scalar into every guarded lane. -/
  | vfill (e : Bool) (vd : VReg) (ra : SReg)
  /-- VINS (R124): Inserts a scalar into the lowest selected guarded lane. -/
  | vins (e : Bool) (vd : VReg) (ra : SReg) (p : PReg)
  /-- VEXT (R124): Extracts the lowest selected live lane into a scalar register. -/
  | vext (e : Bool) (rd : SReg) (va : VReg) (p : PReg)
  /-- VRDX (R108): Reads the vector register whose number is a scalar plus an immediate. -/
  | vrdx (e : Bool) (v : VReg) (sb : SReg) (imm : BitVec 11)
  /-- VWRX (R108): Writes the vector register whose number is a scalar plus an immediate. -/
  | vwrx (e : Bool) (v : VReg) (sb : SReg) (imm : BitVec 11)
  /-- ROUTE (R114): Prefix carrying route codes for the vector sources of the next instruction. -/
  | route (a : BitVec 8) (b : BitVec 8) (c : BitVec 8) (seg : Bool)
  /-- QUAL (R51): Prefix giving the next memory access its scope, order and cache hint. -/
  | qual (scope : BitVec 3) (order : Order) (cache : BitVec 2)
  /-- VLD (R109): Unit-stride vector load, checked whole before any part takes effect. -/
  | vld (e : Bool) (vd : VReg) (sb : SReg) (imm : BitVec 9)
  /-- VLD_UNI (R109): Uniform vector load of one element into every guarded lane. -/
  | vldUni (e : Bool) (vd : VReg) (sb : SReg) (imm : BitVec 9)
  /-- VST (R109): Unit-stride vector store, performed whole or not at all. -/
  | vst (e : Bool) (vd : VReg) (sb : SReg) (imm : BitVec 9)
  /-- VLDX (R135): Gather load with per-lane offsets. -/
  | vldx (e : Bool) (vd : VReg) (sb : SReg) (vo : VReg) (sc : BitVec 2)
  /-- VSTX (R135): Scatter store with per-lane offsets, performing lanes below a fault. -/
  | vstx (e : Bool) (vd : VReg) (sb : SReg) (vo : VReg) (sc : BitVec 2)
  /-- VSTC (R137): Compress-store of the guarded lanes, resumable through PROGRESS. -/
  | vstc (e : Bool) (vd : VReg) (sb : SReg) (imm : BitVec 9)
  /-- VLDS (R138): Unit-stride scratchpad load with swizzle. -/
  | vlds (e : Bool) (swz : BitVec 3) (vd : VReg) (sb : SReg) (imm : BitVec 9)
  /-- VSTS (R138): Unit-stride scratchpad store with swizzle. -/
  | vsts (e : Bool) (swz : BitVec 3) (vd : VReg) (sb : SReg) (imm : BitVec 9)
  /-- VLDSX (R138): Scratchpad gather with per-lane offsets. -/
  | vldsx (e : Bool) (swz : BitVec 3) (vd : VReg) (sb : SReg) (vo : VReg) (sc : BitVec 2)
  /-- VSTSX (R138): Scratchpad scatter with per-lane offsets. -/
  | vstsx (e : Bool) (swz : BitVec 3) (vd : VReg) (sb : SReg) (vo : VReg) (sc : BitVec 2)
  /-- SLD (R86): Scalar load from global memory or scratchpad. -/
  | sld (e : Bool) (size : BitVec 2) (sign : Bool) (sp : Bool) (rd : SReg) (sb : SReg) (imm : BitVec 9)
  /-- SST (R86): Scalar store to global memory or scratchpad. -/
  | sst (e : Bool) (size : BitVec 2) (sp : Bool) (rd : SReg) (sb : SReg) (imm : BitVec 9)
  /-- VATOM (R231): Per-lane global atomics, checked whole and performed in ascending lane order. -/
  | vatom (e : Bool) (op : AOp) (ret : Bool) (vd : VReg) (sb : SReg) (vo : VReg)
  /-- VATOMS (R232): Per-lane scratchpad atomics. -/
  | vatoms (e : Bool) (op : AOp) (ret : Bool) (vd : VReg) (sb : SReg) (vo : VReg)
  /-- SATOM (R233): One scalar atomic of 32 or 64 bits in global memory. -/
  | satom (e : Bool) (op : AOp) (ret : Bool) (w : Bool) (rd : SReg) (ra : SReg) (rb : SReg)
  /-- FENCE (R234): Orders the strand's own accesses at a scope, parking until a release condition holds. -/
  | fence (e : Bool) (scope : BitVec 3) (order : Order)
  /-- BAR (R237): Arrives at a crew barrier and waits for the phase. -/
  | bar (id : BitVec 4)
  /-- BAR_ARRIVE (R237): Arrives at a crew barrier without waiting. -/
  | barArrive (e : Bool) (id : BitVec 4)
  /-- BAR_WAIT (R237): Waits for the phase of the strand's last arrival. -/
  | barWait (id : BitVec 4)
  /-- GBAR (R239): Grid barrier across every crew of a COOP grid. -/
  | gbar
  /-- LTINIT (R186): Initialises a Latch word. -/
  | ltinit (e : Bool) (ra : SReg) (rb : SReg)
  /-- LTARM (R186): Adds a signed byte count to a Latch's pending count. -/
  | ltarm (e : Bool) (ra : SReg) (rb : SReg)
  /-- LTARRIVE (R186): Decrements a Latch and returns its phase before the update. -/
  | ltarrive (e : Bool) (rd : SReg) (ra : SReg)
  /-- LTWAIT (R186): Parks until a Latch's phase differs from the operand. -/
  | ltwait (ra : SReg) (rb : SReg)
  /-- LTTEST (R186): Tests whether a Latch's phase differs from the operand. -/
  | lttest (e : Bool) (rd : SReg) (ra : SReg) (rb : SReg)
  /-- HGARRIVE (R166): Adds 1 to the strand's arrival count at a Hinge. -/
  | hgarrive (e : Bool) (h : BitVec 4)
  /-- HGWAIT (R166): Parks until the sequencer has released the Hinge in the current phase. -/
  | hgwait (h : BitVec 4)
  /-- CPY (R189): Copies a global tensor into scratchpad, completing on a token register. -/
  | cpy (e : Bool) (rd : SReg) (ra : SReg)
  /-- CPY_LT (R189): Copies a global tensor into scratchpad, completing on a Latch. -/
  | cpyLt (e : Bool) (ra : SReg) (rb : SReg)
  /-- CPYW (R189): Copies a scratchpad tensor to global memory, token form. -/
  | cpyw (e : Bool) (rd : SReg) (ra : SReg)
  /-- CPYW_LT (R189): Copies a scratchpad tensor to global memory, latch form. -/
  | cpywLt (e : Bool) (ra : SReg) (rb : SReg)
  /-- CPYO (R189): Copies a global tensor into operand slots, token form. -/
  | cpyo (e : Bool) (rd : SReg) (ra : SReg)
  /-- CPYO_LT (R189): Copies a global tensor into operand slots, latch form. -/
  | cpyoLt (e : Bool) (ra : SReg) (rb : SReg)
  /-- CPYG (R189): Index-gathered copy from global memory into scratchpad, token form. -/
  | cpyg (e : Bool) (rd : SReg) (ra : SReg)
  /-- CPYG_LT (R189): Index-gathered copy from global memory into scratchpad, latch form. -/
  | cpygLt (e : Bool) (ra : SReg) (rb : SReg)
  /-- CPYQ (R195): Returns the number of the crew's outstanding copy operations. -/
  | cpyq (e : Bool) (rd : SReg)
  /-- SDESC (R197): Reads a stream descriptor and takes a stream handle. -/
  | sdesc (e : Bool) (rd : SReg) (ra : SReg)
  /-- SGO (R197): Starts or restarts a stream at element 0. -/
  | sgo (e : Bool) (ra : SReg)
  /-- SSTOP (R197): Stops a stream and frees its handle. -/
  | sstop (e : Bool) (ra : SReg)
  /-- MCLAIM (R162): Claims operand slots all or none, parking only when the crew holds none. -/
  | mclaim (e : Bool) (rd : SReg) (ra : SReg)
  /-- MREL (R162): Releases the crew's highest-named operand slots. -/
  | mrel (e : Bool) (ra : SReg)
  /-- MGO (R164): Loads q0-q7 from a parameter block and starts a stopped sequencer context. -/
  | mgo (e : Bool) (rd : SReg) (ra : SReg)
  /-- MSTAT (R165): Returns a q register or the sequencer status word. -/
  | mstat (e : Bool) (rd : SReg) (ra : SReg)
  /-- DLAUNCH (R242): Writes a launch record into a device queue ring slot. -/
  | dlaunch (e : Bool) (rd : SReg) (ra : SReg) (rb : SReg)
  /-- QNOTIFY (R243): Raises a device queue's tail to the maximum value sent. -/
  | qnotify (e : Bool) (ra : SReg) (rb : SReg)
  /-- KCTX (R262): Binds a configured Keyway context to the crew. -/
  | kctx (e : Bool) (rd : SReg) (ra : SReg)
  /-- KPOST (R272): Takes a matching unexpected message or posts a receive, token form. -/
  | kpost (e : Bool) (rd : SReg) (ra : SReg)
  /-- KPOST_LT (R272): Takes a matching unexpected message or posts a receive, latch form. -/
  | kpostLt (e : Bool) (ra : SReg) (rb : SReg)
  /-- KSEND (R273): Sends a Keyway message with a sys-scope release, token form. -/
  | ksend (e : Bool) (rd : SReg) (ra : SReg)
  /-- KSEND_LT (R273): Sends a Keyway message with a sys-scope release, latch form. -/
  | ksendLt (e : Bool) (ra : SReg) (rb : SReg)
  /-- KCANCEL (R274): Removes the earliest unmatched posted receive with a given status record offset. -/
  | kcancel (e : Bool) (rd : SReg) (ra : SReg) (rb : SReg)
  /-- KPROBE (R274): Reports whether a matching message waits in the unexpected ring, taking nothing. -/
  | kprobe (e : Bool) (rd : SReg) (ra : SReg)
  /-- KPULL (R272): Takes a matching unexpected message or completes NOMATCH, token form. -/
  | kpull (e : Bool) (rd : SReg) (ra : SReg)
  /-- KPULL_LT (R272): Takes a matching unexpected message or completes NOMATCH, latch form. -/
  | kpullLt (e : Bool) (ra : SReg) (rb : SReg)
  /-- BINIT (R258): Sets the bin count, clears the counts and discards held sends. -/
  | binit (e : Bool) (rd : SReg) (ra : SReg)
  /-- BCOUNT (R258): Counts each lane into its bin and writes its exclusive offset to scratchpad. -/
  | bcount (e : Bool) (rd : SReg) (ra : SReg) (vb : VReg)
  /-- BPATCH (R259): Sets the length of every held send from its bin count. -/
  | bpatch (e : Bool) (rd : SReg) (ra : SReg)
  /-- BREL (R259): Hands every held send of the crew to the Keyway in holding order. -/
  | brel (e : Bool) (rd : SReg)
  /-- MNOP (R173): Sequencer no operation. -/
  | mnop
  /-- MEND (R173): Stops the sequencer context. -/
  | mend
  /-- MLOOP (R173): Decrements a q register and branches while it is nonzero. -/
  | mloop (q : BitVec 3) (disp : BitVec 16)
  /-- MHARR (R174): Sequencer release of a Hinge toward the strands. -/
  | mharr (h : BitVec 4)
  /-- MHWAIT (R174): Sequencer waits for every participant's arrival at a Hinge. -/
  | mhwait (h : BitVec 4)
  /-- MLDO (R176): Loads a slot's payload, and optionally its side area, from scratchpad. -/
  | mldo (slot : BitVec 6) (q : BitVec 3) (side : Bool) (imm : BitVec 12)
  /-- MDEQ (R177): Dequantises 64 G4Q blocks into a BF16 slot pair. -/
  | mdeq (slot : BitVec 6) (q : BitVec 3) (blk : BitVec 8) (ftz : Bool)
  /-- MHAD (R178): Applies a block Hadamard transform to every row of a slot. -/
  | mhad (n : BitVec 2) (slot : BitVec 6) (fmt : BitVec 3) (ftz : Bool)
  /-- MQNT (R179): Quantises BF16 slots to F8A or GB4. -/
  | mqnt (dst : BitVec 6) (src : BitVec 6) (gb4 : Bool) (ftz : Bool)
  /-- MMLA (R180): One matrix multiply-accumulate step into an accumulator tile. -/
  | mmla (acc : BitVec 4) (sa : BitVec 6) (sb : BitVec 6) (fa : BitVec 3) (fb : BitVec 3) (ftz : Bool)
  /-- MZERO (R175): Clears an accumulator tile to +0. -/
  | mzero (acc : BitVec 4)
  /-- MSTO (R181): Stores an accumulator tile to scratchpad, optionally with row scales. -/
  | msto (q : BitVec 3) (acc : BitVec 4) (out : BitVec 2) (rs : Bool) (slot : BitVec 6) (ftz : Bool)
  /-- MQADD (R173): Adds a sign-extended immediate to a q register. -/
  | mqadd (q : BitVec 3) (imm : BitVec 24)
  /-- MSET (R173): Sets a q register to a sign-extended immediate. -/
  | mset (q : BitVec 3) (imm : BitVec 24)
  /-- DEVICE_SLOT_CONSUME (R241): The queue port consumes the next filled device ring slot in index order. -/
  | deviceSlotConsume (d : DieId) (q : QueueId)
  /-- SLOT_FILL (R327): The quarter arbiter fills a free issue slot with a READY strand by class and pass count. -/
  | slotFill (d : DieId) (core : CoreId) (qt : QuarterId)
  /-- TILE_OP_START (R168): The free array takes the next ready tile operation from the contexts round-robin. -/
  | tileOpStart (d : DieId) (core : CoreId)
  /-- TILE_OP_COMPLETE (R168): A tile operation finishes and writes its results. -/
  | tileOpComplete (d : DieId) (core : CoreId)
  /-- PAUSE_EXPIRY (R78): A paused strand's cycle count elapses and it becomes READY. -/
  | pauseExpiry (u : Nat)
  /-- WAITC_WAKE (R240): A wake event makes a parked waitc reread its word. -/
  | waitcWake (u : Nat)
  /-- WAITC_REREAD (R240): The fixed-interval reread of a waitc word without wake events. -/
  | waitcReread (u : Nat)
  /-- WAITC_TIMEOUT (R240): A waitc reaches 10 us and completes with 0. -/
  | waitcTimeout (u : Nat)
  /-- TRAP_RING_WRITE (R83): A deferred call record is written when a trap ring entry frees. -/
  | trapRingWrite (d : DieId)
  /-- FAULT_RING_WRITE (R302): A deferred fault record is written when a fault ring entry frees. -/
  | faultRingWrite (d : DieId)
  /-- STRAND_RESUME (R113): The service OS resumes a strand parked by a resumable fault at the faulting unit. -/
  | strandResume (u : Nat)
  /-- CREW_END (R9): The service OS ends a crew after a fault, performing its stores at sys scope. -/
  | crewEnd (c : Nat)
  /-- CREW_COMPLETE (R77): A crew whose strands and operations have all finished releases its resources. -/
  | crewComplete (c : Nat)
  /-- LAUNCH_EVENT (R333): The device writes a launch's event, waiting while the event queue is full. -/
  | launchEvent (d : DieId) (n : Nat)
  /-- WAIT_MET (R316): The port reads a launch wait counter and finds it met, with acquire at sys scope. -/
  | waitMet (d : DieId) (q : QueueId)
  /-- CREW_ADMISSION (R319): The port admits the next crew of a ready head to the best core that fits. -/
  | crewAdmission (d : DieId)
  /-- PRIORITY_AGING (R317): Each full 100 us a ready head waits raises its effective priority one level. -/
  | priorityAging (d : DieId) (q : QueueId)
  /-- PASSOVER_TIMEOUT (R323): A head passed over for 100 us reserves the port for its next crew. -/
  | passoverTimeout (d : DieId) (q : QueueId)
  /-- ENERGY_WINDOW (R322): At each 100 us window the package controller sets every die's budget and clocks. -/
  | energyWindow (basePower : Nat)
  /-- PREEMPT (R306): The service OS stops a crew at run boundaries and saves its context image. -/
  | preempt (c : Nat) (image : Nat)
  /-- CREW_RESUME (R310): A pre-empted crew is restored on a core of the same die. -/
  | crewResume (c : Nat) (core : CoreId)
  /-- TLB_INVALIDATE (R289): A requested TLB invalidation completes once old translations are drained. -/
  | tlbInvalidate (d : DieId) (va : Nat) (len : Nat)
  /-- COPY_ACCEPT (R187): A parked copy instruction is accepted when the engine has room. -/
  | copyAccept (d : DieId) (core : CoreId)
  /-- COPY_COMPLETE (R193): A copy operation ends and writes its token status or moves its Latch. -/
  | copyComplete (c : Nat) (op : Nat)
  /-- COPY_RESUME (R192): The service OS resumes a copy stopped by NOTPRESENT at the faulting element. -/
  | copyResume (c : Nat) (op : Nat)
  /-- BINNING_COMPLETE (R258): A binning operation finishes and writes its status. -/
  | binningComplete (c : Nat)
  /-- STREAM_LINE_REQUEST (R198): A running stream requests its next line within its run-ahead. -/
  | streamLineRequest (c : Nat) (handle : Nat)
  /-- GETS (R199): A holder receives a shared transient request for a sector and answers. -/
  | gets (to_ : Holder) (m : ReqMsg)
  /-- GETX (R199): A holder receives an exclusive transient request and sends its tokens. -/
  | getx (to_ : Holder) (m : ReqMsg)
  /-- TOK (R207): A holder receives tokens, possibly completing a request or a pending store. -/
  | tok (to_ : Holder) (m : TokMsg)
  /-- TRANSIENT_TIMEOUT (R201): An incomplete transient request is resent to every holder after 300 ns. -/
  | transientTimeout (who : Holder) (sec : Nat)
  /-- PERSISTENT_TIMEOUT (R201): A still incomplete request becomes a persistent request to the home. -/
  | persistentTimeout (who : Holder) (sec : Nat)
  /-- PREQ (R202): The home's Hasp table receives a persistent request. -/
  | preq (m : ReqMsg)
  /-- PACT (R202): A holder receives an activation and forwards its tokens to the active requester. -/
  | pact (to_ : Holder) (m : ActMsg)
  /-- PDONE (R212): The home receives a deactivation and activates the next entry. -/
  | pdone (h : Home) (epoch : BitVec 8)
  /-- PDEACT (R212): A holder receives a deactivation newer than its recorded epoch. -/
  | pdeact (to_ : Holder) (h : Home) (epoch : BitVec 8)
  /-- RECOVERY_TIMEOUT (R215): A persistent request active for 20 us starts recovery of its line. -/
  | recoveryTimeout (h : Home)
  /-- RECREATE (R215): A holder receives RECREATE, returns owner data and drops its tokens. -/
  | recreate (to_ : Holder) (line : Nat) (serial : BitVec 8)
  /-- RECACK (R215): The home receives a recovery acknowledgement with owner data. -/
  | recack (m : RecAck)
  /-- LOSS_CHECK (R217): Four microseconds after RECREATE the home checks each sector. -/
  | lossCheck (line : Nat)
  /-- FLIT_GIVE_UP (R215): The link layer gives up a flit undelivered 10 us after sending. -/
  | flitGiveUp (n : Nat)
  /-- RECALL (R219): A holder receives the home's recall and sends its tokens to the home. -/
  | recallTokens (to_ : Holder) (m : RecallMsg)
  /-- RECALL_TIMEOUT (R219): A recall that gathered too few tokens after 900 ns sets the home's Hasp entry. -/
  | recallTimeout (sec : Nat)
  /-- ATOM (R219): The home receives a far atomic and queues it for execution. -/
  | atom (m : AtomMsg)
  /-- HLD (R220): The home performs a load at the stack. -/
  | hld (m : HldMsg)
  /-- HST (R220): The home performs a store at the stack at pkg scope. -/
  | hst (m : HstMsg)
  /-- ATOMR (R219): A requester receives an atomic's old value. -/
  | atomr (m : RepMsg)
  /-- HLDR (R220): A requester receives a home load's data. -/
  | hldr (m : RepMsg)
  /-- HSTR (R220): A requester receives a home store's completion. -/
  | hstr (m : RepMsg)
  /-- CXL_MEMRD (R224): A host read of device memory makes the host agent request the sectors. -/
  | cxlMemrd (k : LinkId) (line : Nat)
  /-- CXL_MEMWR (R224): A host write or ownership read makes the host agent gather all tokens. -/
  | cxlMemwr (k : LinkId) (line : Nat) (data : Option (BitVec 512))
  /-- CXL_SNOOP (R224): A host snoop on host memory makes the host agent gather the tokens. -/
  | cxlSnoop (k : LinkId) (line : Nat) (inv : Bool)
  /-- BISNP_RESPONSE (R224): The host answers a back-invalidate snoop and the held tokens move. -/
  | bisnpResponse (k : LinkId) (sec : Nat) (data : Option (BitVec 128))
  /-- CXL_HOST_DATA (R224): The host completes RdShared or RdOwn for a die cache request. -/
  | cxlHostData (k : LinkId) (sec : Nat) (own : Bool) (data : BitVec 128)
  /-- FAB_READ (R278): A target port receives a remote read and checks its window page. -/
  | fabRead (port : PortId) (pk : Packet)
  /-- FAB_READ_REPLY (R279): A remote load reply arrives and fills the destination. -/
  | fabReadReply (port : PortId) (pk : Packet)
  /-- FAB_WRITE (R278): A target port receives a remote write. -/
  | fabWrite (port : PortId) (pk : Packet)
  /-- FAB_WRITE_ACK (R279): A remote store acknowledgement arrives. -/
  | fabWriteAck (port : PortId) (pk : Packet)
  /-- FAB_ATOMIC (R221): A target port receives a remote atomic and issues it to the home. -/
  | fabAtomic (port : PortId) (pk : Packet)
  /-- FAB_ATOMIC_REPLY (R279): A remote atomic reply arrives. -/
  | fabAtomicReply (port : PortId) (pk : Packet)
  /-- MULTICAST_WRITE (R282): A member receives a multicast store and performs it independently. -/
  | multicastWrite (port : PortId) (pk : Packet)
  /-- REMOTE_TIMEOUT (R280): No reply or acknowledgement within 1 ms raises a deferred FABKEY fault. -/
  | remoteTimeout (u : Nat) (txn : Nat)
  /-- MCAST_ACK_TIMEOUT (R283): A multicast member that does not acknowledge within 1 ms is recorded as failed. -/
  | mcastAckTimeout (u : Nat) (txn : Nat)
  /-- KEYWAY_MESSAGE (R265): A receiving context takes an arriving message: reject, NACK, land or store. -/
  | keywayMessage (m : KMsg)
  /-- KEYWAY_ACK (R273): The sender receives acceptance, which may complete the send locally. -/
  | keywayAck (d : DieId) (send : KReply)
  /-- KEYWAY_NACK (R265): The sender receives a NACK and schedules a retry. -/
  | keywayNack (d : DieId) (send : KReply)
  /-- KEYWAY_REJECT (R265): The sender receives a REJECT; the send faults and its channel breaks. -/
  | keywayReject (d : DieId) (send : KReply)
  /-- KEYWAY_RETRY (R265): The backoff timer expires and a NACKed message is sent again. -/
  | keywayRetry (d : DieId) (send : Nat)
  /-- KEYWAY_ACK_TIMEOUT (R273): No acknowledgement within 1 ms completes a send with FABKEY subcode 2. -/
  | keywayAckTimeout (d : DieId) (send : Nat)
  /-- PULL_REQUEST (R264): A sender receives a pull request and reads its source bytes. -/
  | pullRequest (m : PullReq)
  /-- PULL_DATA (R268): Pulled payload arrives and lands, completing the receive when whole. -/
  | pullData (m : PullData)
  /-- MACHINE (R304): An uncorrectable storage or link error discards all work on the die. -/
  | machine (d : DieId) (sub : BitVec 8) (addr : BitVec 64)
  /-- LAUNCH (R331): A virtio LAUNCH request queues a launch with up to four waits. -/
  | launch (d : DieId) (q : QueueId) (tag : BitVec 32) (record : List Byte) (waits : List (BitVec 64 × BitVec 64))
  /-- COPY (R331): A virtio COPY request moves bytes with the die's copy engines. -/
  | copy (d : DieId) (q : QueueId) (tag : BitVec 32) (src : BitVec 64) (dst : BitVec 64) (len : BitVec 64) (ext : BitVec 32) (flags : BitVec 32)
  /-- MAP (R331): A virtio MAP request writes leaf entries and invalidates. -/
  | map (d : DieId) (tag : BitVec 32) (va : BitVec 64) (frame : BitVec 64) (bits : BitVec 64) (count : BitVec 32) (size : BitVec 32)
  /-- UNMAP (R331): A virtio UNMAP request clears leaf entries and invalidates. -/
  | unmap (d : DieId) (tag : BitVec 32) (va : BitVec 64) (count : BitVec 32) (size : BitVec 32)
  /-- EXPORT (R331): A virtio EXPORT request returns a handle for a mapped range. -/
  | exportReq (d : DieId) (tag : BitVec 32) (va : BitVec 64) (len : BitVec 64) (flags : BitVec 32)
  /-- IMPORT (R331): A virtio IMPORT request maps an exported range as peer or replica. -/
  | importReq (d : DieId) (tag : BitVec 32) (handle : BitVec 64) (va : BitVec 64)
  /-- SIGNAL (R331): A virtio SIGNAL request stores or adds to a counter at sys scope. -/
  | signal (d : DieId) (q : QueueId) (tag : BitVec 32) (ctr : BitVec 64) (operand : BitVec 64) (op : BitVec 32)
  /-- QUERY (R332): A virtio QUERY request returns the 512-byte record. -/
  | query (f : FuncId) (tag : BitVec 32)
  /-- RESET (R331): A virtio RESET request drops a launch queue's unadmitted entries. -/
  | reset (d : DieId) (tag : BitVec 32) (queue : BitVec 32)
  /-- FILEGRANT (R336): Grants or revokes a file extent for COPY requests. -/
  | filegrant (d : DieId) (tag : BitVec 32) (ext : BitVec 32) (access : BitVec 32) (base : BitVec 64) (len : BitVec 64)
  /-- FWUPDATE (R340): Writes a firmware image taking effect at the next package reset. -/
  | fwupdate (f : FuncId) (tag : BitVec 32) (addr : BitVec 64) (len : BitVec 64)
  /-- DEBUGSET (R311): Sets the DEBUG word of a launch. -/
  | debugset (f : FuncId) (tag : BitVec 32) (die : BitVec 8) (queue : BitVec 8) (ltag : BitVec 32) (word : BitVec 64)
  /-- BRKSET (R313): Writes one of a die's four breakpoints. -/
  | brkset (f : FuncId) (tag : BitVec 32) (die : BitVec 8) (brk : BitVec 8) (kind : BitVec 8) (mask : BitVec 8) (addr : BitVec 64)
  /-- TRAPRESP (R85): The service OS response record resumes a trapping strand or ends its crew. -/
  | trapresp (d : DieId) (idx : BitVec 32) (status : BitVec 32) (vals : Resp4)
  /-- TRAPHEAD_WRITE (R334): The service OS advances the trap ring head, freeing records. -/
  | trapheadWrite (d : DieId) (v : BitVec 32)
  /-- FLTHEAD_WRITE (R334): The service OS advances the fault ring head, freeing records. -/
  | fltheadWrite (d : DieId) (v : BitVec 32)
  /-- KCTX_WRITE (R261): Configures a Keyway context and resets its channels. -/
  | kctxWrite (d : DieId) (c : CtxId) (w0 : BitVec 64) (ring : BitVec 64) (plist : BitVec 64)
  /-- KCHRESET (R265): Resets one Keyway channel's counter or expected number. -/
  | kchreset (d : DieId) (v : BitVec 64)
  /-- CLKMODE_WRITE (R328): Sets the die's clock policy and cap from the next window. -/
  | clkmodeWrite (d : DieId) (v : BitVec 64)
  /-- COHMODE_WRITE (R329): Sets the die cache's broadcast mode and transient timeouts. -/
  | cohmodeWrite (d : DieId) (v : BitVec 64)
  /-- ROOT_WRITE (R291): Sets or refuses the die's page-table root. -/
  | rootWrite (d : DieId) (v : BitVec 64)
  /-- REGISTER_WRITE (R334): A service OS write to a control-block register without behaviour of its own. -/
  | registerWrite (r : CtlWrite)
  /-- TDISP_STOP (R337): STOP_INTERFACE_REQUEST returns a function in ERROR to CONFIG_UNLOCKED. -/
  | tdispStop (f : FuncId)
  /-- FUNCTION_LEVEL_RESET (R338): Resets one compute die, discarding its work and returning its tokens. -/
  | functionLevelReset (d : DieId)
  /-- BRING_UP (R341): Package reset: firmware verification and training of links, stacks, clocks and ports. -/
  | bringUp (b : BringUp)
  /-- CLOCK_STEP_DOWN (R322): A die whose measured power would exceed its budget within a window lowers its clock by 50 MHz. -/
  | clockStepDown (d : DieId)
  /-- RECREATE_FILTER_EXPIRY (R216): A recreate filter entry drops out 50 us after its RECREATE. -/
  | recreateFilterExpiry (who : Holder) (line : Nat)
  /-- RECOVERY_RATE_WINDOW (R216): A home whose recovery waited for the 64-per-50-us limit starts it once the window allows. -/
  | recoveryRateWindow (h : Home)
  /-- RESET_TOKEN_ACK (R218): A home acknowledges tokens that a resetting die returned, and the last acknowledgement completes the reset. -/
  | resetTokenAck (d : DieId) (h : Home)
  /-- LOCK_INTERFACE_REQUEST (R337): The TDISP lock request moves a function from CONFIG_UNLOCKED to CONFIG_LOCKED. -/
  | lockInterfaceRequest (f : FuncId)
  /-- START_INTERFACE_REQUEST (R337): The TDISP start request moves a function from CONFIG_LOCKED to RUN. -/
  | startInterfaceRequest (f : FuncId)
  /-- EVENT_QUEUE_ENTRY_FREE (R333): The host makes an event-queue buffer available, letting a held launch event and its grid slot go. -/
  | eventQueueEntryFree (f : FuncId)
  /-- COPY_REQUEST_COMPLETE (R331): A virtio COPY finishes its last byte at sys scope, or ends EXTENT_REVOKED, and writes its response. -/
  | copyRequestComplete (d : DieId) (id : Nat)
  /-- COPY_FAULT_DECLINE (R192): The service OS declines a copy stopped by NOTPRESENT, ending the operation with RESULT FAULT. -/
  | copyFaultDecline (c : Nat) (op : Nat)
  /-- PAGE_TABLE_STORE (R294): A service core stores to page-table entries, as in fault handling and the collapse of R290. -/
  | pageTableStore (pa : Nat) (v : BitVec 64)
  /-- UNKNOWN_PACKET_TYPE (R276): A port receives a packet whose type is not defined, drops it and counts it. -/
  | unknownPacketType (port : PortId) (pk : Packet)
  deriving DecidableEq, Repr

end Sys2Proof
end

