-- ==== Sys2Proof/WellFormed.lean ====
section
/-! DEFINITION. Well-formed instructions: every field value is one the manual gives a meaning without looking at the state
(R15, R36, R51, R55, R70, R102, R120, R181, R230, R233, R234). What the meanings check beside it depends on MODE, on the kernel
header or on the state. -/

namespace Sys2Proof

/-- The special registers of R36. -/
def srListed (n : BitVec 6) : Bool := n.toNat ≤ 21

/-- The special registers `setsr` may write: LFAULT, FFLAGS, PROGRESS and MCERR (R36, R81). -/
def srWritable (n : BitVec 6) : Bool := n == 14 || n == 15 || n == 16 || n == 17

/-- A shift immediate lies in 0 to 63 (R70). -/
def shiftImmOk (imm : BitVec 13) : Bool := imm.toNat < 64

/-- Scopes 6 and 7 are no scopes (R51). -/
def scopeOk (scope : BitVec 3) : Bool := scope.toNat ≤ 5

/-- Row length K of a transform format, 0 where `mhad` does not accept the code (R157, R178). -/
def hadamardRow (fmt : BitVec 3) : Nat :=
  match fmt.toNat with
  | 0 => 32
  | 1 => 32
  | 2 => 64
  | 3 => 64
  | 6 => 16
  | _ => 0

/-- `mhad`'s operands lie in range (R178): a block fits a row, or spreads over the pair of an even slot. -/
def hadamardOk (n : BitVec 2) (slot : BitVec 6) (fmt : BitVec 3) : Bool :=
  let k := hadamardRow fmt
  let pts := 16 * 2 ^ n.toNat
  n != 3 && (pts ≤ k || (k != 0 && pts == 2 * k && slot.toNat % 2 == 0))

/-- The checks of a term that need no state. -/
def Instr.wf : Instr → Bool
  | .getsr _ _ n => srListed n
  | .setsr _ _ n => srWritable n
  | .shli _ _ _ imm => shiftImmOk imm
  | .shri _ _ _ imm => shiftImmOk imm
  | .srai _ _ _ imm => shiftImmOk imm
  | .vcvt _ src _ _ => src != .l32
  | .vcmp _ _ pd _ _ => pd != 0
  | .vfcmp _ _ pd _ _ => pd != 0
  | .pand _ pd _ _ => pd != 0
  | .por _ pd _ _ => pd != 0
  | .pxor _ pd _ _ => pd != 0
  | .pandn _ pd _ _ => pd != 0
  | .pnot _ pd _ => pd != 0
  | .pmov _ pd _ => pd != 0
  | .pfirst _ pd _ => pd != 0
  | .pfroms _ pd _ => pd != 0
  | .qual scope _ _ => scopeOk scope
  | .sld _ size sign _ _ _ _ => !(sign && size == 3)
  | .satom _ op _ w rd _ _ => !(op == .fadd && w) && !(op == .cas && rd == 63)
  | .fence _ scope order => scopeOk scope && order != .rlx
  | .mdeq slot _ blk _ => slot.toNat % 2 == 0 && blk.toNat ≤ 192
  | .mhad n slot fmt _ => hadamardOk n slot fmt
  | .mqnt _ src gb4 _ => if gb4 then src.toNat % 4 == 0 else src.toNat % 2 == 0
  | .mmla acc _ _ fa fb _ =>
    (fa.toNat ≤ 1 && fb.toNat ≤ 1) || (fa.toNat / 2 == 1 && fb.toNat / 2 == 1) || (fa.toNat / 2 == 2 && fb.toNat / 2 == 2)
      || (fa == 6 && fb == 6) || (fa == 7 && fb == 7 && acc.toNat % 2 == 0)
  | .msto _ acc out rs slot _ => out != 3 && (rs || slot == 0) && (out != 2 || acc.toNat % 2 == 0)
  | _ => true

end Sys2Proof
end

