-- ==== Sys2Proof/Decode.lean ====
section
/-! DEFINITION. Decoding of the two instruction streams, total on every 32-bit word, and the encoder (R42, R48, R49, R53, R54,
R55, R57). A word is split into the fields of its format, high field first; the encoder packs the same lists. -/

namespace Sys2Proof

/-- Why a word is no instruction: R44 with E = 0, a prefix with E = 1 (R52), or ILLEGAL (SEQILLEGAL in the sequencer stream)
with its subcode (R55, R169). -/
inductive DecErr where
  | runEnd
  | prefixE
  | illegal (sub : Nat)
  deriving DecidableEq, Repr

/-- Total width of a list of fields. -/
def bitsOf : List Nat → Nat
  | [] => 0
  | w :: t => w + bitsOf t

/-- Total width of a list of fields with values. -/
def bitsOfFields : List (Nat × Nat) → Nat
  | [] => 0
  | f :: t => f.1 + bitsOfFields t

/-- The number whose bits are the fields, high field first, as (width, value) (R48). -/
def pack : List (Nat × Nat) → Nat
  | [] => 0
  | f :: t => f.2 * 2 ^ bitsOfFields t + pack t

/-- The values of the fields of the given widths, high field first, that stand in the low bits of `x` (R48). -/
def split : List Nat → Nat → List Nat
  | [], _ => []
  | w :: t, x => x / 2 ^ bitsOf t % 2 ^ w :: split t x

/-- A strand word: E, the major opcode and the fields of its format (R42, R48). -/
def word (e major : Nat) (fs : List (Nat × Nat)) : W32 :=
  BitVec.ofNat 32 (pack ((1, e) :: (6, major) :: fs))

/-- A sequencer word: op5 and the fields of its layout (R57). -/
def seqWord (op : Nat) (fs : List (Nat × Nat)) : W32 :=
  BitVec.ofNat 32 (pack ((5, op) :: fs))

/-- An instruction with nothing left to check. -/
def Decode.ok (i : Instr) : Except DecErr Instr := .ok i

/-- An instruction whose must-be-zero fields are `zs` (R55, subcode 3). -/
def Decode.zero (zs : List Nat) (i : Instr) : Except DecErr Instr :=
  if zs.all (· == 0) then .ok i else .error (.illegal 3)

/-- A word that is wrong by `err` unless a must-be-zero field of it is not zero, which is the lower subcode (R56). -/
def Decode.zeroOr (zs : List Nat) (err : DecErr) : Except DecErr Instr :=
  if zs.all (· == 0) then .error err else .error (.illegal 3)

/-- An instruction of R44, which traps RUNEND with E = 0 before it can trap ILLEGAL (R56). -/
def Decode.atEnd (e : Bool) (r : Except DecErr Instr) : Except DecErr Instr :=
  if e then r else .error .runEnd

/-- The code of a `Ty` in a word. -/
def Ty.code : Ty → Nat
  | .i32 => 0
  | .n32 => 1
  | .i64 => 2
  | .n64 => 3
  | .i16 => 4
  | .n16 => 5
  | .i8 => 6
  | .n8 => 7
  | .f32 => 8
  | .f64 => 9
  | .f16 => 10
  | .bf16 => 11
  | .f8a => 12
  | .f8b => 13
  | .f4 => 14
  | .l32 => 15

/-- The `Ty` of a code. -/
def Ty.ofCode : Nat → Ty
  | 0 => .i32
  | 1 => .n32
  | 2 => .i64
  | 3 => .n64
  | 4 => .i16
  | 5 => .n16
  | 6 => .i8
  | 7 => .n8
  | 8 => .f32
  | 9 => .f64
  | 10 => .f16
  | 11 => .bf16
  | 12 => .f8a
  | 13 => .f8b
  | 14 => .f4
  | _ => .l32

/-- The code of a `Cmp` in a word. -/
def Cmp.code : Cmp → Nat
  | .eq => 0
  | .ne => 1
  | .lt => 2
  | .le => 3
  | .gt => 4
  | .ge => 5
  | .ltu => 6
  | .leu => 7
  | .gtu => 8
  | .geu => 9

/-- The `Cmp` of a code. -/
def Cmp.ofCode : Nat → Cmp
  | 0 => .eq
  | 1 => .ne
  | 2 => .lt
  | 3 => .le
  | 4 => .gt
  | 5 => .ge
  | 6 => .ltu
  | 7 => .leu
  | 8 => .gtu
  | _ => .geu

/-- The code of a `FCmp` in a word. -/
def FCmp.code : FCmp → Nat
  | .eq => 0
  | .ne => 1
  | .lt => 2
  | .le => 3
  | .gt => 4
  | .ge => 5
  | .un => 6
  | .ord => 7

/-- The `FCmp` of a code. -/
def FCmp.ofCode : Nat → FCmp
  | 0 => .eq
  | 1 => .ne
  | 2 => .lt
  | 3 => .le
  | 4 => .gt
  | 5 => .ge
  | 6 => .un
  | _ => .ord

/-- The code of a `RedOp` in a word. -/
def RedOp.code : RedOp → Nat
  | .add => 0
  | .min => 1
  | .max => 2
  | .and => 3
  | .or => 4
  | .xor => 5

/-- The `RedOp` of a code. -/
def RedOp.ofCode : Nat → RedOp
  | 0 => .add
  | 1 => .min
  | 2 => .max
  | 3 => .and
  | 4 => .or
  | _ => .xor

/-- The code of a `AOp` in a word. -/
def AOp.code : AOp → Nat
  | .add => 0
  | .fadd => 1
  | .min => 2
  | .max => 3
  | .minu => 4
  | .maxu => 5
  | .and => 6
  | .or => 7
  | .xor => 8
  | .xchg => 9
  | .cas => 10
  | .inc => 11
  | .dec => 12

/-- The `AOp` of a code. -/
def AOp.ofCode : Nat → AOp
  | 0 => .add
  | 1 => .fadd
  | 2 => .min
  | 3 => .max
  | 4 => .minu
  | 5 => .maxu
  | 6 => .and
  | 7 => .or
  | 8 => .xor
  | 9 => .xchg
  | 10 => .cas
  | 11 => .inc
  | _ => .dec

/-- The code of a `Order` in a word. -/
def Order.code : Order → Nat
  | .rlx => 0
  | .acq => 1
  | .rel => 2
  | .ar => 3

/-- The `Order` of a code. -/
def Order.ofCode : Nat → Order
  | 0 => .rlx
  | 1 => .acq
  | 2 => .rel
  | _ => .ar

open Decode

/-- Major 0x00, format S3 (R48, R53). -/
def Decode.major00 (e : Bool) (x : Nat) : Except DecErr Instr :=
  match split [7, 6, 6, 6] x with
  | [x0, x1, x2, x3] =>
    match x0 with
    | 0x00 => zero [x1, x2, x3] (.nop e)
    | 0x01 => atEnd e (zero [x1, x2, x3] (.exit))
    | 0x02 => atEnd e (zero [x1, x2, x3] (.yield))
    | 0x03 => zero [x1, x2, x3] (.ebreak e)
    | 0x04 => atEnd e (zero [x1, x3] (.pause (.ofNat _ x2)))
    | 0x05 => atEnd e (zero [x1, x2, x3] (.acquire))
    | 0x06 => atEnd e (ok (.waitc (.ofNat _ x1) (.ofNat _ x2) (.ofNat _ x3)))
    | 0x07 => zero [x2] (.getsr e (.ofNat _ x1) (.ofNat _ x3))
    | 0x08 => zero [x1] (.setsr e (.ofNat _ x2) (.ofNat _ x3))
    | 0x09 => zero [x2, x3] (.getm e (.ofNat _ x1))
    | 0x0A => zero [x1, x3] (.setmr e (.ofNat _ x2))
    | 0x0B => atEnd e (zero [x1, x2, x3] (.join))
    | _ => .error (.illegal 2)
  | _ => .error (.illegal 2)

/-- Major 0x01, format SL (R48, R53). -/
def Decode.major01 (e : Bool) (x : Nat) : Except DecErr Instr :=
  match split [6, 19] x with
  | [x0, x1] =>
    atEnd e (zero [x0] (.trap (.ofNat _ x1)))
  | _ => .error (.illegal 2)

/-- Major 0x02, format SL (R48, R53). -/
def Decode.major02 (e : Bool) (x : Nat) : Except DecErr Instr :=
  match split [6, 19] x with
  | [x0, x1] =>
    zero [x0, x1 / 2 ^ 13] (.setm e (.ofNat _ x1))
  | _ => .error (.illegal 2)

/-- Major 0x04, format S3 (R48, R53). -/
def Decode.major04 (e : Bool) (x : Nat) : Except DecErr Instr :=
  match split [7, 6, 6, 6] x with
  | [x0, x1, x2, x3] =>
    match x0 with
    | 0x00 => ok (.add e (.ofNat _ x1) (.ofNat _ x2) (.ofNat _ x3))
    | 0x01 => ok (.sub e (.ofNat _ x1) (.ofNat _ x2) (.ofNat _ x3))
    | 0x02 => ok (.mul e (.ofNat _ x1) (.ofNat _ x2) (.ofNat _ x3))
    | 0x03 => ok (.mulh e (.ofNat _ x1) (.ofNat _ x2) (.ofNat _ x3))
    | 0x04 => ok (.mulhu e (.ofNat _ x1) (.ofNat _ x2) (.ofNat _ x3))
    | 0x05 => ok (.div e (.ofNat _ x1) (.ofNat _ x2) (.ofNat _ x3))
    | 0x06 => ok (.divu e (.ofNat _ x1) (.ofNat _ x2) (.ofNat _ x3))
    | 0x07 => ok (.rem e (.ofNat _ x1) (.ofNat _ x2) (.ofNat _ x3))
    | 0x08 => ok (.remu e (.ofNat _ x1) (.ofNat _ x2) (.ofNat _ x3))
    | 0x09 => ok (.and e (.ofNat _ x1) (.ofNat _ x2) (.ofNat _ x3))
    | 0x0A => ok (.or e (.ofNat _ x1) (.ofNat _ x2) (.ofNat _ x3))
    | 0x0B => ok (.xor e (.ofNat _ x1) (.ofNat _ x2) (.ofNat _ x3))
    | 0x0C => ok (.andn e (.ofNat _ x1) (.ofNat _ x2) (.ofNat _ x3))
    | 0x0D => ok (.shl e (.ofNat _ x1) (.ofNat _ x2) (.ofNat _ x3))
    | 0x0E => ok (.shr e (.ofNat _ x1) (.ofNat _ x2) (.ofNat _ x3))
    | 0x0F => ok (.sra e (.ofNat _ x1) (.ofNat _ x2) (.ofNat _ x3))
    | 0x10 => ok (.min e (.ofNat _ x1) (.ofNat _ x2) (.ofNat _ x3))
    | 0x11 => ok (.max e (.ofNat _ x1) (.ofNat _ x2) (.ofNat _ x3))
    | 0x12 => ok (.minu e (.ofNat _ x1) (.ofNat _ x2) (.ofNat _ x3))
    | 0x13 => ok (.maxu e (.ofNat _ x1) (.ofNat _ x2) (.ofNat _ x3))
    | 0x14 => ok (.slt e (.ofNat _ x1) (.ofNat _ x2) (.ofNat _ x3))
    | 0x15 => ok (.sltu e (.ofNat _ x1) (.ofNat _ x2) (.ofNat _ x3))
    | 0x16 => ok (.seq e (.ofNat _ x1) (.ofNat _ x2) (.ofNat _ x3))
    | 0x17 => ok (.sne e (.ofNat _ x1) (.ofNat _ x2) (.ofNat _ x3))
    | 0x18 => zero [x3] (.popc e (.ofNat _ x1) (.ofNat _ x2))
    | 0x19 => zero [x3] (.clz e (.ofNat _ x1) (.ofNat _ x2))
    | 0x1A => zero [x3] (.ctz e (.ofNat _ x1) (.ofNat _ x2))
    | 0x1B => zero [x3] (.brev e (.ofNat _ x1) (.ofNat _ x2))
    | 0x1C => ok (.bfx e (.ofNat _ x1) (.ofNat _ x2) (.ofNat _ x3))
    | _ => .error (.illegal 2)
  | _ => .error (.illegal 2)

/-- Major 0x05, format SI (R48, R53). -/
def Decode.major05 (e : Bool) (x : Nat) : Except DecErr Instr :=
  match split [6, 6, 13] x with
  | [x0, x1, x2] =>
    ok (.addi e (.ofNat _ x0) (.ofNat _ x1) (.ofNat _ x2))
  | _ => .error (.illegal 2)

/-- Major 0x06, format SI (R48, R53). -/
def Decode.major06 (e : Bool) (x : Nat) : Except DecErr Instr :=
  match split [6, 6, 13] x with
  | [x0, x1, x2] =>
    ok (.andi e (.ofNat _ x0) (.ofNat _ x1) (.ofNat _ x2))
  | _ => .error (.illegal 2)

/-- Major 0x07, format SI (R48, R53). -/
def Decode.major07 (e : Bool) (x : Nat) : Except DecErr Instr :=
  match split [6, 6, 13] x with
  | [x0, x1, x2] =>
    ok (.ori e (.ofNat _ x0) (.ofNat _ x1) (.ofNat _ x2))
  | _ => .error (.illegal 2)

/-- Major 0x08, format SI (R48, R53). -/
def Decode.major08 (e : Bool) (x : Nat) : Except DecErr Instr :=
  match split [6, 6, 13] x with
  | [x0, x1, x2] =>
    ok (.xori e (.ofNat _ x0) (.ofNat _ x1) (.ofNat _ x2))
  | _ => .error (.illegal 2)

/-- Major 0x09, format SI (R48, R53). -/
def Decode.major09 (e : Bool) (x : Nat) : Except DecErr Instr :=
  match split [6, 6, 13] x with
  | [x0, x1, x2] =>
    ok (.shli e (.ofNat _ x0) (.ofNat _ x1) (.ofNat _ x2))
  | _ => .error (.illegal 2)

/-- Major 0x0A, format SI (R48, R53). -/
def Decode.major0A (e : Bool) (x : Nat) : Except DecErr Instr :=
  match split [6, 6, 13] x with
  | [x0, x1, x2] =>
    ok (.shri e (.ofNat _ x0) (.ofNat _ x1) (.ofNat _ x2))
  | _ => .error (.illegal 2)

/-- Major 0x0B, format SI (R48, R53). -/
def Decode.major0B (e : Bool) (x : Nat) : Except DecErr Instr :=
  match split [6, 6, 13] x with
  | [x0, x1, x2] =>
    ok (.srai e (.ofNat _ x0) (.ofNat _ x1) (.ofNat _ x2))
  | _ => .error (.illegal 2)

/-- Major 0x0C, format SI (R48, R53). -/
def Decode.major0C (e : Bool) (x : Nat) : Except DecErr Instr :=
  match split [6, 6, 13] x with
  | [x0, x1, x2] =>
    ok (.slti e (.ofNat _ x0) (.ofNat _ x1) (.ofNat _ x2))
  | _ => .error (.illegal 2)

/-- Major 0x0D, format SI (R48, R53). -/
def Decode.major0D (e : Bool) (x : Nat) : Except DecErr Instr :=
  match split [6, 6, 13] x with
  | [x0, x1, x2] =>
    ok (.sltiu e (.ofNat _ x0) (.ofNat _ x1) (.ofNat _ x2))
  | _ => .error (.illegal 2)

/-- Major 0x0E, format SL (R48, R53). -/
def Decode.major0E (e : Bool) (x : Nat) : Except DecErr Instr :=
  match split [6, 19] x with
  | [x0, x1] =>
    ok (.li e (.ofNat _ x0) (.ofNat _ x1))
  | _ => .error (.illegal 2)

/-- Major 0x0F, format SL (R48, R53). -/
def Decode.major0F (e : Bool) (x : Nat) : Except DecErr Instr :=
  match split [6, 19] x with
  | [x0, x1] =>
    ok (.lui e (.ofNat _ x0) (.ofNat _ x1))
  | _ => .error (.illegal 2)

/-- Major 0x10, format SL (R48, R53). -/
def Decode.major10 (e : Bool) (x : Nat) : Except DecErr Instr :=
  match split [6, 19] x with
  | [x0, x1] =>
    ok (.lsi e (.ofNat _ x0) (.ofNat _ x1))
  | _ => .error (.illegal 2)

/-- Major 0x11, format BC (R48, R53). -/
def Decode.major11 (e : Bool) (x : Nat) : Except DecErr Instr :=
  match split [3, 6, 16] x with
  | [x0, x1, x2] =>
    match x0 with
    | 0x00 => atEnd e (ok (.bz (.ofNat _ x1) (.ofNat _ x2)))
    | 0x01 => atEnd e (ok (.bnz (.ofNat _ x1) (.ofNat _ x2)))
    | 0x02 => atEnd e (ok (.bltz (.ofNat _ x1) (.ofNat _ x2)))
    | 0x03 => atEnd e (ok (.bgez (.ofNat _ x1) (.ofNat _ x2)))
    | 0x04 => atEnd e (ok (.bgtz (.ofNat _ x1) (.ofNat _ x2)))
    | 0x05 => atEnd e (ok (.blez (.ofNat _ x1) (.ofNat _ x2)))
    | _ => .error (.illegal 2)
  | _ => .error (.illegal 2)

/-- Major 0x12, format J (R48, R53). -/
def Decode.major12 (e : Bool) (x : Nat) : Except DecErr Instr :=
  match split [25] x with
  | [x0] =>
    atEnd e (ok (.jmp (.ofNat _ x0)))
  | _ => .error (.illegal 2)

/-- Major 0x13, format J (R48, R53). -/
def Decode.major13 (e : Bool) (x : Nat) : Except DecErr Instr :=
  match split [25] x with
  | [x0] =>
    atEnd e (ok (.call (.ofNat _ x0)))
  | _ => .error (.illegal 2)

/-- Major 0x14, format S3 (R48, R53). -/
def Decode.major14 (e : Bool) (x : Nat) : Except DecErr Instr :=
  match split [7, 6, 6, 6] x with
  | [x0, x1, x2, x3] =>
    match x0 with
    | 0x00 => atEnd e (zero [x1, x3] (.jr (.ofNat _ x2)))
    | 0x01 => atEnd e (zero [x1, x3] (.calli (.ofNat _ x2)))
    | 0x02 => atEnd e (zero [x1, x2, x3] (.ret))
    | _ => .error (.illegal 2)
  | _ => .error (.illegal 2)

/-- Major 0x15, format EJ (R48, R53). -/
def Decode.major15 (e : Bool) (x : Nat) : Except DecErr Instr :=
  match split [6, 3, 16] x with
  | [x0, x1, x2] =>
    atEnd e (ok (.eject (.ofNat _ x0) (.ofNat _ x1) (.ofNat _ x2)))
  | _ => .error (.illegal 2)

/-- Major 0x18, format V3 (R48, R53). -/
def Decode.major18 (e : Bool) (x : Nat) : Except DecErr Instr :=
  match split [4, 7, 7, 7] x with
  | [x0, x1, x2, x3] =>
    match x0 with
    | 0x00 => ok (.vadd e (.ofNat _ x1) (.ofNat _ x2) (.ofNat _ x3))
    | 0x01 => ok (.vsub e (.ofNat _ x1) (.ofNat _ x2) (.ofNat _ x3))
    | 0x02 => ok (.vmul e (.ofNat _ x1) (.ofNat _ x2) (.ofNat _ x3))
    | 0x03 => ok (.vmulh e (.ofNat _ x1) (.ofNat _ x2) (.ofNat _ x3))
    | 0x04 => ok (.vmulhu e (.ofNat _ x1) (.ofNat _ x2) (.ofNat _ x3))
    | 0x05 => ok (.vand e (.ofNat _ x1) (.ofNat _ x2) (.ofNat _ x3))
    | 0x06 => ok (.vor e (.ofNat _ x1) (.ofNat _ x2) (.ofNat _ x3))
    | 0x07 => ok (.vxor e (.ofNat _ x1) (.ofNat _ x2) (.ofNat _ x3))
    | 0x08 => ok (.vshl e (.ofNat _ x1) (.ofNat _ x2) (.ofNat _ x3))
    | 0x09 => ok (.vshr e (.ofNat _ x1) (.ofNat _ x2) (.ofNat _ x3))
    | 0x0A => ok (.vsra e (.ofNat _ x1) (.ofNat _ x2) (.ofNat _ x3))
    | 0x0B => ok (.vmin e (.ofNat _ x1) (.ofNat _ x2) (.ofNat _ x3))
    | 0x0C => ok (.vmax e (.ofNat _ x1) (.ofNat _ x2) (.ofNat _ x3))
    | 0x0D => ok (.vminu e (.ofNat _ x1) (.ofNat _ x2) (.ofNat _ x3))
    | 0x0E => ok (.vmaxu e (.ofNat _ x1) (.ofNat _ x2) (.ofNat _ x3))
    | 0x0F => ok (.vabsd e (.ofNat _ x1) (.ofNat _ x2) (.ofNat _ x3))
    | _ => .error (.illegal 2)
  | _ => .error (.illegal 2)

/-- Major 0x19, format VS (R48, R53). -/
def Decode.major19 (e : Bool) (x : Nat) : Except DecErr Instr :=
  match split [4, 7, 7, 1, 6] x with
  | [x0, x1, x2, x3, x4] =>
    match x0 with
    | 0x00 => zero [x3] (.vaddS e (.ofNat _ x1) (.ofNat _ x2) (.ofNat _ x4))
    | 0x01 => zero [x3] (.vsubS e (.ofNat _ x1) (.ofNat _ x2) (.ofNat _ x4))
    | 0x02 => zero [x3] (.vmulS e (.ofNat _ x1) (.ofNat _ x2) (.ofNat _ x4))
    | 0x03 => zero [x3] (.vmulhS e (.ofNat _ x1) (.ofNat _ x2) (.ofNat _ x4))
    | 0x04 => zero [x3] (.vmulhuS e (.ofNat _ x1) (.ofNat _ x2) (.ofNat _ x4))
    | 0x05 => zero [x3] (.vandS e (.ofNat _ x1) (.ofNat _ x2) (.ofNat _ x4))
    | 0x06 => zero [x3] (.vorS e (.ofNat _ x1) (.ofNat _ x2) (.ofNat _ x4))
    | 0x07 => zero [x3] (.vxorS e (.ofNat _ x1) (.ofNat _ x2) (.ofNat _ x4))
    | 0x08 => zero [x3] (.vshlS e (.ofNat _ x1) (.ofNat _ x2) (.ofNat _ x4))
    | 0x09 => zero [x3] (.vshrS e (.ofNat _ x1) (.ofNat _ x2) (.ofNat _ x4))
    | 0x0A => zero [x3] (.vsraS e (.ofNat _ x1) (.ofNat _ x2) (.ofNat _ x4))
    | 0x0B => zero [x3] (.vminS e (.ofNat _ x1) (.ofNat _ x2) (.ofNat _ x4))
    | 0x0C => zero [x3] (.vmaxS e (.ofNat _ x1) (.ofNat _ x2) (.ofNat _ x4))
    | 0x0D => zero [x3] (.vminuS e (.ofNat _ x1) (.ofNat _ x2) (.ofNat _ x4))
    | 0x0E => zero [x3] (.vmaxuS e (.ofNat _ x1) (.ofNat _ x2) (.ofNat _ x4))
    | 0x0F => zero [x3] (.vabsdS e (.ofNat _ x1) (.ofNat _ x2) (.ofNat _ x4))
    | _ => .error (.illegal 2)
  | _ => .error (.illegal 2)

/-- Major 0x1A, format V3 (R48, R53). -/
def Decode.major1A (e : Bool) (x : Nat) : Except DecErr Instr :=
  match split [4, 7, 7, 7] x with
  | [x0, x1, x2, x3] =>
    match x0 with
    | 0x00 => zero [x3] (.vneg e (.ofNat _ x1) (.ofNat _ x2))
    | 0x01 => zero [x3] (.vabs e (.ofNat _ x1) (.ofNat _ x2))
    | 0x02 => zero [x3] (.vnot e (.ofNat _ x1) (.ofNat _ x2))
    | 0x03 => zero [x3] (.vpopc e (.ofNat _ x1) (.ofNat _ x2))
    | 0x04 => zero [x3] (.vclz e (.ofNat _ x1) (.ofNat _ x2))
    | 0x05 => zero [x3] (.vctz e (.ofNat _ x1) (.ofNat _ x2))
    | 0x06 => zero [x3] (.vbrev e (.ofNat _ x1) (.ofNat _ x2))
    | 0x07 => zero [x3] (.vmov e (.ofNat _ x1) (.ofNat _ x2))
    | 0x08 => ok (.vsel e (.ofNat _ x1) (.ofNat _ x2) (.ofNat _ x3))
    | 0x09 => ok (.vmad e (.ofNat _ x1) (.ofNat _ x2) (.ofNat _ x3))
    | _ => .error (.illegal 2)
  | _ => .error (.illegal 2)

/-- Major 0x1B, format VI (R48, R53). -/
def Decode.major1B (e : Bool) (x : Nat) : Except DecErr Instr :=
  match split [7, 7, 11] x with
  | [x0, x1, x2] =>
    ok (.vaddi e (.ofNat _ x0) (.ofNat _ x1) (.ofNat _ x2))
  | _ => .error (.illegal 2)

/-- Major 0x1C, format VL (R48, R53). -/
def Decode.major1C (e : Bool) (x : Nat) : Except DecErr Instr :=
  match split [7, 18] x with
  | [x0, x1] =>
    ok (.vli e (.ofNat _ x0) (.ofNat _ x1))
  | _ => .error (.illegal 2)

/-- Major 0x1D, format V3 (R48, R53). -/
def Decode.major1D (e : Bool) (x : Nat) : Except DecErr Instr :=
  match split [4, 7, 7, 7] x with
  | [x0, x1, x2, x3] =>
    match x0 with
    | 0x00 => ok (.vfadd e (.ofNat _ x1) (.ofNat _ x2) (.ofNat _ x3))
    | 0x01 => ok (.vfsub e (.ofNat _ x1) (.ofNat _ x2) (.ofNat _ x3))
    | 0x02 => ok (.vfmul e (.ofNat _ x1) (.ofNat _ x2) (.ofNat _ x3))
    | 0x03 => ok (.vfdiv e (.ofNat _ x1) (.ofNat _ x2) (.ofNat _ x3))
    | 0x04 => ok (.vfmin e (.ofNat _ x1) (.ofNat _ x2) (.ofNat _ x3))
    | 0x05 => ok (.vfmax e (.ofNat _ x1) (.ofNat _ x2) (.ofNat _ x3))
    | 0x06 => zero [x3] (.vfsqrt e (.ofNat _ x1) (.ofNat _ x2))
    | 0x07 => zero [x3] (.vfabs e (.ofNat _ x1) (.ofNat _ x2))
    | 0x08 => zero [x3] (.vfneg e (.ofNat _ x1) (.ofNat _ x2))
    | 0x09 => ok (.vfsgn e (.ofNat _ x1) (.ofNat _ x2) (.ofNat _ x3))
    | 0x0A => zero [x3] (.vfrint e (.ofNat _ x1) (.ofNat _ x2))
    | 0x0B => zero [x3] (.vfclass e (.ofNat _ x1) (.ofNat _ x2))
    | _ => .error (.illegal 2)
  | _ => .error (.illegal 2)

/-- Major 0x1E, format VS (R48, R53). -/
def Decode.major1E (e : Bool) (x : Nat) : Except DecErr Instr :=
  match split [4, 7, 7, 1, 6] x with
  | [x0, x1, x2, x3, x4] =>
    match x0 with
    | 0x00 => zero [x3] (.vfaddS e (.ofNat _ x1) (.ofNat _ x2) (.ofNat _ x4))
    | 0x01 => zero [x3] (.vfsubS e (.ofNat _ x1) (.ofNat _ x2) (.ofNat _ x4))
    | 0x02 => zero [x3] (.vfmulS e (.ofNat _ x1) (.ofNat _ x2) (.ofNat _ x4))
    | 0x03 => zero [x3] (.vfdivS e (.ofNat _ x1) (.ofNat _ x2) (.ofNat _ x4))
    | 0x04 => zero [x3] (.vfminS e (.ofNat _ x1) (.ofNat _ x2) (.ofNat _ x4))
    | 0x05 => zero [x3] (.vfmaxS e (.ofNat _ x1) (.ofNat _ x2) (.ofNat _ x4))
    | _ => .error (.illegal 2)
  | _ => .error (.illegal 2)

/-- Major 0x1F, format V3 (R48, R53). -/
def Decode.major1F (e : Bool) (x : Nat) : Except DecErr Instr :=
  match split [4, 7, 7, 7] x with
  | [x0, x1, x2, x3] =>
    match x0 with
    | 0x00 => ok (.vfma e (.ofNat _ x1) (.ofNat _ x2) (.ofNat _ x3))
    | 0x01 => ok (.vfms e (.ofNat _ x1) (.ofNat _ x2) (.ofNat _ x3))
    | 0x02 => ok (.vfnma e (.ofNat _ x1) (.ofNat _ x2) (.ofNat _ x3))
    | 0x03 => ok (.vfnms e (.ofNat _ x1) (.ofNat _ x2) (.ofNat _ x3))
    | _ => .error (.illegal 2)
  | _ => .error (.illegal 2)

/-- Major 0x20, format V3 (R48, R53). -/
def Decode.major20 (e : Bool) (x : Nat) : Except DecErr Instr :=
  match split [4, 7, 7, 7] x with
  | [x0, x1, x2, x3] =>
    zero [x3] (.vcvt e (Ty.ofCode x0) (.ofNat _ x1) (.ofNat _ x2))
  | _ => .error (.illegal 2)

/-- Major 0x21, format V3 (R48, R53). -/
def Decode.major21 (e : Bool) (x : Nat) : Except DecErr Instr :=
  match split [4, 7, 7, 7] x with
  | [x0, x1, x2, x3] =>
    match x0 with
    | 0x00 => zero [x3] (.vtolog e (.ofNat _ x1) (.ofNat _ x2))
    | 0x01 => zero [x3] (.vfromlog e (.ofNat _ x1) (.ofNat _ x2))
    | 0x02 => ok (.vlmul e (.ofNat _ x1) (.ofNat _ x2) (.ofNat _ x3))
    | 0x03 => ok (.vldiv e (.ofNat _ x1) (.ofNat _ x2) (.ofNat _ x3))
    | 0x04 => zero [x3] (.vlsqrt e (.ofNat _ x1) (.ofNat _ x2))
    | 0x05 => ok (.vlpow e (.ofNat _ x1) (.ofNat _ x2) (.ofNat _ x3))
    | 0x06 => zero [x3] (.vexp2 e (.ofNat _ x1) (.ofNat _ x2))
    | 0x07 => zero [x3] (.vlog2 e (.ofNat _ x1) (.ofNat _ x2))
    | _ => .error (.illegal 2)
  | _ => .error (.illegal 2)

/-- Major 0x22, format VP (R48, R53). -/
def Decode.major22 (e : Bool) (x : Nat) : Except DecErr Instr :=
  match split [4, 3, 7, 7, 4] x with
  | [x0, x1, x2, x3, x4] =>
    if x0 < 10 then zero [x4] (.vcmp e (Cmp.ofCode x0) (.ofNat _ x1) (.ofNat _ x2) (.ofNat _ x3)) else .error (.illegal 2)
  | _ => .error (.illegal 2)

/-- Major 0x23, format VP (R48, R53). -/
def Decode.major23 (e : Bool) (x : Nat) : Except DecErr Instr :=
  match split [4, 3, 7, 7, 4] x with
  | [x0, x1, x2, x3, x4] =>
    if x0 < 8 then zero [x4] (.vfcmp e (FCmp.ofCode x0) (.ofNat _ x1) (.ofNat _ x2) (.ofNat _ x3)) else .error (.illegal 2)
  | _ => .error (.illegal 2)

/-- Major 0x24, format PP (R48, R53). -/
def Decode.major24 (e : Bool) (x : Nat) : Except DecErr Instr :=
  match split [4, 3, 3, 3, 6, 6] x with
  | [x0, x1, x2, x3, x4, x5] =>
    match x0 with
    | 0x00 => zero [x4, x5] (.pand e (.ofNat _ x1) (.ofNat _ x2) (.ofNat _ x3))
    | 0x01 => zero [x4, x5] (.por e (.ofNat _ x1) (.ofNat _ x2) (.ofNat _ x3))
    | 0x02 => zero [x4, x5] (.pxor e (.ofNat _ x1) (.ofNat _ x2) (.ofNat _ x3))
    | 0x03 => zero [x4, x5] (.pandn e (.ofNat _ x1) (.ofNat _ x2) (.ofNat _ x3))
    | 0x04 => zero [x3, x4, x5] (.pnot e (.ofNat _ x1) (.ofNat _ x2))
    | 0x05 => zero [x3, x4, x5] (.pmov e (.ofNat _ x1) (.ofNat _ x2))
    | 0x06 => zero [x3, x4, x5] (.pfirst e (.ofNat _ x1) (.ofNat _ x2))
    | 0x07 => zero [x2, x3, x5] (.pfroms e (.ofNat _ x1) (.ofNat _ x4))
    | _ => .error (.illegal 2)
  | _ => .error (.illegal 2)

/-- Major 0x25, format VX (R48, R53). -/
def Decode.major25 (e : Bool) (x : Nat) : Except DecErr Instr :=
  match split [4, 3, 7, 7, 3, 1] x with
  | [x0, x1, x2, x3, x4, x5] =>
    match x0 with
    | 0x00 => if x1 < 6 then zero [x2 / 2 ^ 6, x4, x5] (.vred e (RedOp.ofCode x1) (.ofNat _ x2) (.ofNat _ x3)) else .error (.illegal 2)
    | 0x01 => if x1 < 6 then zero [x4, x5] (.vscan e (RedOp.ofCode x1) (.ofNat _ x2) (.ofNat _ x3)) else .error (.illegal 2)
    | 0x02 => zero [x1, x2 / 2 ^ 6, x3 / 2 ^ 3, x4, x5] (.vballot e (.ofNat _ x2) (.ofNat _ x3))
    | 0x03 => zero [x1, x2 / 2 ^ 6, x3 / 2 ^ 3, x4, x5] (.vpcnt e (.ofNat _ x2) (.ofNat _ x3))
    | 0x04 => zero [x1, x2 / 2 ^ 6, x3 / 2 ^ 3, x4, x5] (.vany e (.ofNat _ x2) (.ofNat _ x3))
    | 0x05 => zero [x1, x2 / 2 ^ 6, x3 / 2 ^ 3, x4, x5] (.vall e (.ofNat _ x2) (.ofNat _ x3))
    | 0x06 => zero [x1, x5] (.vcompress e (.ofNat _ x2) (.ofNat _ x3) (.ofNat _ x4))
    | 0x07 => zero [x1, x5] (.vexpand e (.ofNat _ x2) (.ofNat _ x3) (.ofNat _ x4))
    | 0x08 => zero [x1, x3, x4, x5] (.vlaneid e (.ofNat _ x2))
    | 0x09 => zero [x1, x3 / 2 ^ 6, x4, x5] (.vfill e (.ofNat _ x2) (.ofNat _ x3))
    | 0x0A => zero [x1, x3 / 2 ^ 6, x5] (.vins e (.ofNat _ x2) (.ofNat _ x3) (.ofNat _ x4))
    | 0x0B => zero [x1, x2 / 2 ^ 6, x5] (.vext e (.ofNat _ x2) (.ofNat _ x3) (.ofNat _ x4))
    | _ => .error (.illegal 2)
  | _ => .error (.illegal 2)

/-- Major 0x26, format VR (R48, R53). -/
def Decode.major26 (e : Bool) (x : Nat) : Except DecErr Instr :=
  match split [1, 7, 6, 11] x with
  | [x0, x1, x2, x3] =>
    match x0 with
    | 0x00 => ok (.vrdx e (.ofNat _ x1) (.ofNat _ x2) (.ofNat _ x3))
    | 0x01 => ok (.vwrx e (.ofNat _ x1) (.ofNat _ x2) (.ofNat _ x3))
    | _ => .error (.illegal 2)
  | _ => .error (.illegal 2)

/-- Major 0x27, format RO (R48, R53). -/
def Decode.major27 (e : Bool) (x : Nat) : Except DecErr Instr :=
  match split [8, 8, 8, 1] x with
  | [x0, x1, x2, x3] =>
    if e then .error .prefixE else ok (.route (.ofNat _ x0) (.ofNat _ x1) (.ofNat _ x2) (x3 == 1))
  | _ => .error (.illegal 2)

/-- Major 0x28, format QU (R48, R53). -/
def Decode.major28 (e : Bool) (x : Nat) : Except DecErr Instr :=
  match split [3, 2, 2, 18] x with
  | [x0, x1, x2, x3] =>
    if e then .error .prefixE else zero [x3] (.qual (.ofNat _ x0) (Order.ofCode x1) (.ofNat _ x2))
  | _ => .error (.illegal 2)

/-- Major 0x29, format MV (R48, R53). -/
def Decode.major29 (e : Bool) (x : Nat) : Except DecErr Instr :=
  match split [3, 7, 6, 9] x with
  | [x0, x1, x2, x3] =>
    match x0 with
    | 0x00 => ok (.vld e (.ofNat _ x1) (.ofNat _ x2) (.ofNat _ x3))
    | 0x01 => ok (.vldUni e (.ofNat _ x1) (.ofNat _ x2) (.ofNat _ x3))
    | _ => .error (.illegal 2)
  | _ => .error (.illegal 2)

/-- Major 0x2A, format MV (R48, R53). -/
def Decode.major2A (e : Bool) (x : Nat) : Except DecErr Instr :=
  match split [3, 7, 6, 9] x with
  | [x0, x1, x2, x3] =>
    match x0 with
    | 0x00 => ok (.vst e (.ofNat _ x1) (.ofNat _ x2) (.ofNat _ x3))
    | _ => .error (.illegal 2)
  | _ => .error (.illegal 2)

/-- Major 0x2B, format MX (R48, R53). -/
def Decode.major2B (e : Bool) (x : Nat) : Except DecErr Instr :=
  match split [3, 7, 6, 7, 2] x with
  | [x0, x1, x2, x3, x4] =>
    match x0 with
    | 0x00 => ok (.vldx e (.ofNat _ x1) (.ofNat _ x2) (.ofNat _ x3) (.ofNat _ x4))
    | _ => .error (.illegal 2)
  | _ => .error (.illegal 2)

/-- Major 0x2C, format MX (R48, R53). -/
def Decode.major2C (e : Bool) (x : Nat) : Except DecErr Instr :=
  match split [3, 7, 6, 7, 2] x with
  | [x0, x1, x2, x3, x4] =>
    match x0 with
    | 0x00 => ok (.vstx e (.ofNat _ x1) (.ofNat _ x2) (.ofNat _ x3) (.ofNat _ x4))
    | _ => .error (.illegal 2)
  | _ => .error (.illegal 2)

/-- Major 0x2D, format MV (R48, R53). -/
def Decode.major2D (e : Bool) (x : Nat) : Except DecErr Instr :=
  match split [3, 7, 6, 9] x with
  | [x0, x1, x2, x3] =>
    match x0 with
    | 0x00 => ok (.vstc e (.ofNat _ x1) (.ofNat _ x2) (.ofNat _ x3))
    | _ => .error (.illegal 2)
  | _ => .error (.illegal 2)

/-- Major 0x2E, format MV (R48, R53). -/
def Decode.major2E (e : Bool) (x : Nat) : Except DecErr Instr :=
  match split [3, 7, 6, 9] x with
  | [x0, x1, x2, x3] =>
    ok (.vlds e (.ofNat _ x0) (.ofNat _ x1) (.ofNat _ x2) (.ofNat _ x3))
  | _ => .error (.illegal 2)

/-- Major 0x2F, format MV (R48, R53). -/
def Decode.major2F (e : Bool) (x : Nat) : Except DecErr Instr :=
  match split [3, 7, 6, 9] x with
  | [x0, x1, x2, x3] =>
    ok (.vsts e (.ofNat _ x0) (.ofNat _ x1) (.ofNat _ x2) (.ofNat _ x3))
  | _ => .error (.illegal 2)

/-- Major 0x30, format MX (R48, R53). -/
def Decode.major30 (e : Bool) (x : Nat) : Except DecErr Instr :=
  match split [3, 7, 6, 7, 2] x with
  | [x0, x1, x2, x3, x4] =>
    ok (.vldsx e (.ofNat _ x0) (.ofNat _ x1) (.ofNat _ x2) (.ofNat _ x3) (.ofNat _ x4))
  | _ => .error (.illegal 2)

/-- Major 0x31, format MX (R48, R53). -/
def Decode.major31 (e : Bool) (x : Nat) : Except DecErr Instr :=
  match split [3, 7, 6, 7, 2] x with
  | [x0, x1, x2, x3, x4] =>
    ok (.vstsx e (.ofNat _ x0) (.ofNat _ x1) (.ofNat _ x2) (.ofNat _ x3) (.ofNat _ x4))
  | _ => .error (.illegal 2)

/-- Major 0x32, format MSC (R48, R53). -/
def Decode.major32 (e : Bool) (x : Nat) : Except DecErr Instr :=
  match split [2, 1, 1, 6, 6, 9] x with
  | [x0, x1, x2, x3, x4, x5] =>
    ok (.sld e (.ofNat _ x0) (x1 == 1) (x2 == 1) (.ofNat _ x3) (.ofNat _ x4) (.ofNat _ x5))
  | _ => .error (.illegal 2)

/-- Major 0x33, format MSC (R48, R53). -/
def Decode.major33 (e : Bool) (x : Nat) : Except DecErr Instr :=
  match split [2, 1, 1, 6, 6, 9] x with
  | [x0, x1, x2, x3, x4, x5] =>
    if x1 = 0 then ok (.sst e (.ofNat _ x0) (x2 == 1) (.ofNat _ x3) (.ofNat _ x4) (.ofNat _ x5)) else .error (.illegal 4)
  | _ => .error (.illegal 2)

/-- Major 0x34, format AA (R48, R53). -/
def Decode.major34 (e : Bool) (x : Nat) : Except DecErr Instr :=
  match split [4, 1, 7, 6, 7] x with
  | [x0, x1, x2, x3, x4] =>
    if x0 < 13 then ok (.vatom e (AOp.ofCode x0) (x1 == 1) (.ofNat _ x2) (.ofNat _ x3) (.ofNat _ x4)) else .error (.illegal 2)
  | _ => .error (.illegal 2)

/-- Major 0x35, format AA (R48, R53). -/
def Decode.major35 (e : Bool) (x : Nat) : Except DecErr Instr :=
  match split [4, 1, 7, 6, 7] x with
  | [x0, x1, x2, x3, x4] =>
    if x0 < 13 then ok (.vatoms e (AOp.ofCode x0) (x1 == 1) (.ofNat _ x2) (.ofNat _ x3) (.ofNat _ x4)) else .error (.illegal 2)
  | _ => .error (.illegal 2)

/-- Major 0x36, format SA (R48, R53). -/
def Decode.major36 (e : Bool) (x : Nat) : Except DecErr Instr :=
  match split [4, 1, 1, 1, 6, 6, 6] x with
  | [x0, x1, x2, x3, x4, x5, x6] =>
    if x0 < 13 then zero [x3] (.satom e (AOp.ofCode x0) (x1 == 1) (x2 == 1) (.ofNat _ x4) (.ofNat _ x5) (.ofNat _ x6)) else .error (.illegal 2)
  | _ => .error (.illegal 2)

/-- Major 0x37, format FN (R48, R53). -/
def Decode.major37 (e : Bool) (x : Nat) : Except DecErr Instr :=
  match split [3, 2, 20] x with
  | [x0, x1, x2] =>
    zero [x2] (.fence e (.ofNat _ x0) (Order.ofCode x1))
  | _ => .error (.illegal 2)

/-- Major 0x38, format BR (R48, R53). -/
def Decode.major38 (e : Bool) (x : Nat) : Except DecErr Instr :=
  match split [2, 4, 19] x with
  | [x0, x1, x2] =>
    match x0 with
    | 0x00 => atEnd e (zero [x2] (.bar (.ofNat _ x1)))
    | 0x01 => zero [x2] (.barArrive e (.ofNat _ x1))
    | 0x02 => atEnd e (zero [x2] (.barWait (.ofNat _ x1)))
    | 0x03 => atEnd e (zero [x1, x2] (.gbar))
    | _ => .error (.illegal 2)
  | _ => .error (.illegal 2)

/-- Major 0x39, format LT (R48, R53). -/
def Decode.major39 (e : Bool) (x : Nat) : Except DecErr Instr :=
  match split [3, 6, 6, 6, 4] x with
  | [x0, x1, x2, x3, x4] =>
    match x0 with
    | 0x00 => zero [x1, x4] (.ltinit e (.ofNat _ x2) (.ofNat _ x3))
    | 0x01 => zero [x1, x4] (.ltarm e (.ofNat _ x2) (.ofNat _ x3))
    | 0x02 => zero [x3, x4] (.ltarrive e (.ofNat _ x1) (.ofNat _ x2))
    | 0x03 => atEnd e (zero [x1, x4] (.ltwait (.ofNat _ x2) (.ofNat _ x3)))
    | 0x04 => zero [x4] (.lttest e (.ofNat _ x1) (.ofNat _ x2) (.ofNat _ x3))
    | _ => .error (.illegal 2)
  | _ => .error (.illegal 2)

/-- Major 0x3A, format HG (R48, R53). -/
def Decode.major3A (e : Bool) (x : Nat) : Except DecErr Instr :=
  match split [1, 4, 6, 14] x with
  | [x0, x1, x2, x3] =>
    match x0 with
    | 0x00 => zero [x2, x3] (.hgarrive e (.ofNat _ x1))
    | 0x01 => atEnd e (zero [x2, x3] (.hgwait (.ofNat _ x1)))
    | _ => .error (.illegal 2)
  | _ => .error (.illegal 2)

/-- Major 0x3B, format X (R48, R53) (DEDUCED, log 31). -/
def Decode.major3B (e : Bool) (x : Nat) : Except DecErr Instr :=
  match split [5, 6, 6, 6, 2] x with
  | [x0, x1, x2, x3, x4] =>
    match x0 with
    | 0x00 => match x4 with
      | 0 => zero [x3] (.cpy e (.ofNat _ x1) (.ofNat _ x2))
      | 1 => zero [x1] (.cpyLt e (.ofNat _ x2) (.ofNat _ x3))
      | _ => .error (.illegal 4)
    | 0x01 => match x4 with
      | 0 => zero [x3] (.cpyw e (.ofNat _ x1) (.ofNat _ x2))
      | 1 => zero [x1] (.cpywLt e (.ofNat _ x2) (.ofNat _ x3))
      | _ => .error (.illegal 4)
    | 0x02 => match x4 with
      | 0 => zero [x3] (.cpyo e (.ofNat _ x1) (.ofNat _ x2))
      | 1 => zero [x1] (.cpyoLt e (.ofNat _ x2) (.ofNat _ x3))
      | _ => .error (.illegal 4)
    | 0x03 => match x4 with
      | 0 => zero [x3] (.cpyg e (.ofNat _ x1) (.ofNat _ x2))
      | 1 => zero [x1] (.cpygLt e (.ofNat _ x2) (.ofNat _ x3))
      | _ => .error (.illegal 4)
    | 0x04 => zero [x4, x2, x3] (.cpyq e (.ofNat _ x1))
    | 0x05 => zero [x4, x3] (.sdesc e (.ofNat _ x1) (.ofNat _ x2))
    | 0x06 => zero [x4, x1, x3] (.sgo e (.ofNat _ x2))
    | 0x07 => zero [x4, x1, x3] (.sstop e (.ofNat _ x2))
    | 0x08 => zero [x4, x3] (.mclaim e (.ofNat _ x1) (.ofNat _ x2))
    | 0x09 => zero [x4, x1, x3] (.mrel e (.ofNat _ x2))
    | 0x0A => zero [x4, x3] (.mgo e (.ofNat _ x1) (.ofNat _ x2))
    | 0x0B => zero [x4, x3] (.mstat e (.ofNat _ x1) (.ofNat _ x2))
    | 0x0C => zero [x4] (.dlaunch e (.ofNat _ x1) (.ofNat _ x2) (.ofNat _ x3))
    | 0x0D => zero [x4, x1] (.qnotify e (.ofNat _ x2) (.ofNat _ x3))
    | _ => .error (.illegal 2)
  | _ => .error (.illegal 2)

/-- Major 0x3C, format X (R48, R53). -/
def Decode.major3C (e : Bool) (x : Nat) : Except DecErr Instr :=
  match split [5, 6, 6, 6, 2] x with
  | [x0, x1, x2, x3, x4] =>
    match x0 with
    | 0x00 => if x4 = 0 then zero [x3] (.kctx e (.ofNat _ x1) (.ofNat _ x2)) else zeroOr [x3] (.illegal 4)
    | 0x01 => match x4 with
      | 0 => zero [x3] (.kpost e (.ofNat _ x1) (.ofNat _ x2))
      | 1 => zero [x1] (.kpostLt e (.ofNat _ x2) (.ofNat _ x3))
      | _ => .error (.illegal 4)
    | 0x02 => match x4 with
      | 0 => zero [x3] (.ksend e (.ofNat _ x1) (.ofNat _ x2))
      | 1 => zero [x1] (.ksendLt e (.ofNat _ x2) (.ofNat _ x3))
      | _ => .error (.illegal 4)
    | 0x03 => if x4 = 0 then ok (.kcancel e (.ofNat _ x1) (.ofNat _ x2) (.ofNat _ x3)) else .error (.illegal 4)
    | 0x04 => if x4 = 0 then zero [x3] (.kprobe e (.ofNat _ x1) (.ofNat _ x2)) else zeroOr [x3] (.illegal 4)
    | 0x05 => match x4 with
      | 0 => zero [x3] (.kpull e (.ofNat _ x1) (.ofNat _ x2))
      | 1 => zero [x1] (.kpullLt e (.ofNat _ x2) (.ofNat _ x3))
      | _ => .error (.illegal 4)
    | _ => .error (.illegal 2)
  | _ => .error (.illegal 2)

/-- Major 0x3D, format XB (R48, R53). -/
def Decode.major3D (e : Bool) (x : Nat) : Except DecErr Instr :=
  match split [2, 6, 6, 7, 4] x with
  | [x0, x1, x2, x3, x4] =>
    match x0 with
    | 0x00 => zero [x3, x4] (.binit e (.ofNat _ x1) (.ofNat _ x2))
    | 0x01 => zero [x4] (.bcount e (.ofNat _ x1) (.ofNat _ x2) (.ofNat _ x3))
    | 0x02 => zero [x3, x4] (.bpatch e (.ofNat _ x1) (.ofNat _ x2))
    | 0x03 => zero [x2, x3, x4] (.brel e (.ofNat _ x1))
    | _ => .error (.illegal 2)
  | _ => .error (.illegal 2)

/-- A strand word as an instruction (R42, R53, R55). -/
def decodeWord (w : W32) : Except DecErr Instr :=
  let x := w.toNat
  let e := x / 2 ^ 31 == 1
  match x / 2 ^ 25 % 64 with
  | 0x00 => Decode.major00 e x
  | 0x01 => Decode.major01 e x
  | 0x02 => Decode.major02 e x
  | 0x04 => Decode.major04 e x
  | 0x05 => Decode.major05 e x
  | 0x06 => Decode.major06 e x
  | 0x07 => Decode.major07 e x
  | 0x08 => Decode.major08 e x
  | 0x09 => Decode.major09 e x
  | 0x0A => Decode.major0A e x
  | 0x0B => Decode.major0B e x
  | 0x0C => Decode.major0C e x
  | 0x0D => Decode.major0D e x
  | 0x0E => Decode.major0E e x
  | 0x0F => Decode.major0F e x
  | 0x10 => Decode.major10 e x
  | 0x11 => Decode.major11 e x
  | 0x12 => Decode.major12 e x
  | 0x13 => Decode.major13 e x
  | 0x14 => Decode.major14 e x
  | 0x15 => Decode.major15 e x
  | 0x18 => Decode.major18 e x
  | 0x19 => Decode.major19 e x
  | 0x1A => Decode.major1A e x
  | 0x1B => Decode.major1B e x
  | 0x1C => Decode.major1C e x
  | 0x1D => Decode.major1D e x
  | 0x1E => Decode.major1E e x
  | 0x1F => Decode.major1F e x
  | 0x20 => Decode.major20 e x
  | 0x21 => Decode.major21 e x
  | 0x22 => Decode.major22 e x
  | 0x23 => Decode.major23 e x
  | 0x24 => Decode.major24 e x
  | 0x25 => Decode.major25 e x
  | 0x26 => Decode.major26 e x
  | 0x27 => Decode.major27 e x
  | 0x28 => Decode.major28 e x
  | 0x29 => Decode.major29 e x
  | 0x2A => Decode.major2A e x
  | 0x2B => Decode.major2B e x
  | 0x2C => Decode.major2C e x
  | 0x2D => Decode.major2D e x
  | 0x2E => Decode.major2E e x
  | 0x2F => Decode.major2F e x
  | 0x30 => Decode.major30 e x
  | 0x31 => Decode.major31 e x
  | 0x32 => Decode.major32 e x
  | 0x33 => Decode.major33 e x
  | 0x34 => Decode.major34 e x
  | 0x35 => Decode.major35 e x
  | 0x36 => Decode.major36 e x
  | 0x37 => Decode.major37 e x
  | 0x38 => Decode.major38 e x
  | 0x39 => Decode.major39 e x
  | 0x3A => Decode.major3A e x
  | 0x3B => Decode.major3B e x
  | 0x3C => Decode.major3C e x
  | 0x3D => Decode.major3D e x
  | _ => .error (.illegal 1)

/-- A sequencer word as an instruction (R57, R169: subcode 1 for an unlisted op5, subcode 2 for a nonzero must-be-zero bit).
The must-be-zero bits stand first in R56's manner: a range error (subcode 3) is found when the instruction runs. -/
def decodeSeq (w : W32) : Except DecErr Instr :=
  let x := w.toNat
  let zero := fun (zs : List Nat) (i : Instr) =>
    (if zs.all (· == 0) then .ok i else .error (.illegal 2) : Except DecErr Instr)
  match x / 2 ^ 27 with
  | 0x00 => match split [27] x with
    | [x0] => zero [x0] (.mnop)
    | _ => .error (.illegal 2)
  | 0x01 => match split [27] x with
    | [x0] => zero [x0] (.mend)
    | _ => .error (.illegal 2)
  | 0x02 => match split [3, 8, 16] x with
    | [x0, x1, x2] => zero [x1] (.mloop (.ofNat _ x0) (.ofNat _ x2))
    | _ => .error (.illegal 2)
  | 0x03 => match split [4, 23] x with
    | [x0, x1] => zero [x1] (.mharr (.ofNat _ x0))
    | _ => .error (.illegal 2)
  | 0x04 => match split [4, 23] x with
    | [x0, x1] => zero [x1] (.mhwait (.ofNat _ x0))
    | _ => .error (.illegal 2)
  | 0x05 => match split [6, 3, 1, 12, 5] x with
    | [x0, x1, x2, x3, x4] => zero [x4] (.mldo (.ofNat _ x0) (.ofNat _ x1) (x2 == 1) (.ofNat _ x3))
    | _ => .error (.illegal 2)
  | 0x06 => match split [6, 3, 8, 1, 9] x with
    | [x0, x1, x2, x3, x4] => zero [x4] (.mdeq (.ofNat _ x0) (.ofNat _ x1) (.ofNat _ x2) (x3 == 1))
    | _ => .error (.illegal 2)
  | 0x07 => match split [2, 6, 3, 1, 15] x with
    | [x0, x1, x2, x3, x4] => zero [x4] (.mhad (.ofNat _ x0) (.ofNat _ x1) (.ofNat _ x2) (x3 == 1))
    | _ => .error (.illegal 2)
  | 0x08 => match split [6, 6, 1, 1, 13] x with
    | [x0, x1, x2, x3, x4] => zero [x4] (.mqnt (.ofNat _ x0) (.ofNat _ x1) (x2 == 1) (x3 == 1))
    | _ => .error (.illegal 2)
  | 0x09 => match split [4, 6, 6, 3, 3, 1, 4] x with
    | [x0, x1, x2, x3, x4, x5, x6] => zero [x6] (.mmla (.ofNat _ x0) (.ofNat _ x1) (.ofNat _ x2) (.ofNat _ x3) (.ofNat _ x4) (x5 == 1))
    | _ => .error (.illegal 2)
  | 0x0A => match split [4, 23] x with
    | [x0, x1] => zero [x1] (.mzero (.ofNat _ x0))
    | _ => .error (.illegal 2)
  | 0x0B => match split [3, 4, 2, 1, 6, 1, 10] x with
    | [x0, x1, x2, x3, x4, x5, x6] => if x6 = 0 ∧ (x3 = 1 ∨ x4 = 0) then .ok (.msto (.ofNat _ x0) (.ofNat _ x1) (.ofNat _ x2) (x3 == 1) (.ofNat _ x4) (x5 == 1)) else .error (.illegal 2)
    | _ => .error (.illegal 2)
  | 0x0C => match split [3, 24] x with
    | [x0, x1] => ok (.mqadd (.ofNat _ x0) (.ofNat _ x1))
    | _ => .error (.illegal 2)
  | 0x0D => match split [3, 24] x with
    | [x0, x1] => ok (.mset (.ofNat _ x0) (.ofNat _ x1))
    | _ => .error (.illegal 2)
  | _ => .error (.illegal 1)

/-- The word of an instruction, from the encoding tables of the manual; an event has none. -/
def encodeWord : Instr → Option W32
  | .nop e => some (word e.toNat 0x00 [(7, 0), (6, 0), (6, 0), (6, 0)])
  | .exit => some (word 1 0x00 [(7, 1), (6, 0), (6, 0), (6, 0)])
  | .yield => some (word 1 0x00 [(7, 2), (6, 0), (6, 0), (6, 0)])
  | .ebreak e => some (word e.toNat 0x00 [(7, 3), (6, 0), (6, 0), (6, 0)])
  | .pause ra => some (word 1 0x00 [(7, 4), (6, 0), (6, ra.toNat), (6, 0)])
  | .acquire => some (word 1 0x00 [(7, 5), (6, 0), (6, 0), (6, 0)])
  | .waitc rd ra rb => some (word 1 0x00 [(7, 6), (6, rd.toNat), (6, ra.toNat), (6, rb.toNat)])
  | .getsr e rd n => some (word e.toNat 0x00 [(7, 7), (6, rd.toNat), (6, 0), (6, n.toNat)])
  | .setsr e ra n => some (word e.toNat 0x00 [(7, 8), (6, 0), (6, ra.toNat), (6, n.toNat)])
  | .getm e rd => some (word e.toNat 0x00 [(7, 9), (6, rd.toNat), (6, 0), (6, 0)])
  | .setmr e ra => some (word e.toNat 0x00 [(7, 10), (6, 0), (6, ra.toNat), (6, 0)])
  | .join => some (word 1 0x00 [(7, 11), (6, 0), (6, 0), (6, 0)])
  | .trap n => some (word 1 0x01 [(6, 0), (19, n.toNat)])
  | .setm e imm => some (word e.toNat 0x02 [(6, 0), (19, imm.toNat)])
  | .add e rd ra rb => some (word e.toNat 0x04 [(7, 0), (6, rd.toNat), (6, ra.toNat), (6, rb.toNat)])
  | .sub e rd ra rb => some (word e.toNat 0x04 [(7, 1), (6, rd.toNat), (6, ra.toNat), (6, rb.toNat)])
  | .mul e rd ra rb => some (word e.toNat 0x04 [(7, 2), (6, rd.toNat), (6, ra.toNat), (6, rb.toNat)])
  | .mulh e rd ra rb => some (word e.toNat 0x04 [(7, 3), (6, rd.toNat), (6, ra.toNat), (6, rb.toNat)])
  | .mulhu e rd ra rb => some (word e.toNat 0x04 [(7, 4), (6, rd.toNat), (6, ra.toNat), (6, rb.toNat)])
  | .div e rd ra rb => some (word e.toNat 0x04 [(7, 5), (6, rd.toNat), (6, ra.toNat), (6, rb.toNat)])
  | .divu e rd ra rb => some (word e.toNat 0x04 [(7, 6), (6, rd.toNat), (6, ra.toNat), (6, rb.toNat)])
  | .rem e rd ra rb => some (word e.toNat 0x04 [(7, 7), (6, rd.toNat), (6, ra.toNat), (6, rb.toNat)])
  | .remu e rd ra rb => some (word e.toNat 0x04 [(7, 8), (6, rd.toNat), (6, ra.toNat), (6, rb.toNat)])
  | .and e rd ra rb => some (word e.toNat 0x04 [(7, 9), (6, rd.toNat), (6, ra.toNat), (6, rb.toNat)])
  | .or e rd ra rb => some (word e.toNat 0x04 [(7, 10), (6, rd.toNat), (6, ra.toNat), (6, rb.toNat)])
  | .xor e rd ra rb => some (word e.toNat 0x04 [(7, 11), (6, rd.toNat), (6, ra.toNat), (6, rb.toNat)])
  | .andn e rd ra rb => some (word e.toNat 0x04 [(7, 12), (6, rd.toNat), (6, ra.toNat), (6, rb.toNat)])
  | .shl e rd ra rb => some (word e.toNat 0x04 [(7, 13), (6, rd.toNat), (6, ra.toNat), (6, rb.toNat)])
  | .shr e rd ra rb => some (word e.toNat 0x04 [(7, 14), (6, rd.toNat), (6, ra.toNat), (6, rb.toNat)])
  | .sra e rd ra rb => some (word e.toNat 0x04 [(7, 15), (6, rd.toNat), (6, ra.toNat), (6, rb.toNat)])
  | .min e rd ra rb => some (word e.toNat 0x04 [(7, 16), (6, rd.toNat), (6, ra.toNat), (6, rb.toNat)])
  | .max e rd ra rb => some (word e.toNat 0x04 [(7, 17), (6, rd.toNat), (6, ra.toNat), (6, rb.toNat)])
  | .minu e rd ra rb => some (word e.toNat 0x04 [(7, 18), (6, rd.toNat), (6, ra.toNat), (6, rb.toNat)])
  | .maxu e rd ra rb => some (word e.toNat 0x04 [(7, 19), (6, rd.toNat), (6, ra.toNat), (6, rb.toNat)])
  | .slt e rd ra rb => some (word e.toNat 0x04 [(7, 20), (6, rd.toNat), (6, ra.toNat), (6, rb.toNat)])
  | .sltu e rd ra rb => some (word e.toNat 0x04 [(7, 21), (6, rd.toNat), (6, ra.toNat), (6, rb.toNat)])
  | .seq e rd ra rb => some (word e.toNat 0x04 [(7, 22), (6, rd.toNat), (6, ra.toNat), (6, rb.toNat)])
  | .sne e rd ra rb => some (word e.toNat 0x04 [(7, 23), (6, rd.toNat), (6, ra.toNat), (6, rb.toNat)])
  | .popc e rd ra => some (word e.toNat 0x04 [(7, 24), (6, rd.toNat), (6, ra.toNat), (6, 0)])
  | .clz e rd ra => some (word e.toNat 0x04 [(7, 25), (6, rd.toNat), (6, ra.toNat), (6, 0)])
  | .ctz e rd ra => some (word e.toNat 0x04 [(7, 26), (6, rd.toNat), (6, ra.toNat), (6, 0)])
  | .brev e rd ra => some (word e.toNat 0x04 [(7, 27), (6, rd.toNat), (6, ra.toNat), (6, 0)])
  | .bfx e rd ra rb => some (word e.toNat 0x04 [(7, 28), (6, rd.toNat), (6, ra.toNat), (6, rb.toNat)])
  | .addi e rd ra imm => some (word e.toNat 0x05 [(6, rd.toNat), (6, ra.toNat), (13, imm.toNat)])
  | .andi e rd ra imm => some (word e.toNat 0x06 [(6, rd.toNat), (6, ra.toNat), (13, imm.toNat)])
  | .ori e rd ra imm => some (word e.toNat 0x07 [(6, rd.toNat), (6, ra.toNat), (13, imm.toNat)])
  | .xori e rd ra imm => some (word e.toNat 0x08 [(6, rd.toNat), (6, ra.toNat), (13, imm.toNat)])
  | .shli e rd ra imm => some (word e.toNat 0x09 [(6, rd.toNat), (6, ra.toNat), (13, imm.toNat)])
  | .shri e rd ra imm => some (word e.toNat 0x0A [(6, rd.toNat), (6, ra.toNat), (13, imm.toNat)])
  | .srai e rd ra imm => some (word e.toNat 0x0B [(6, rd.toNat), (6, ra.toNat), (13, imm.toNat)])
  | .slti e rd ra imm => some (word e.toNat 0x0C [(6, rd.toNat), (6, ra.toNat), (13, imm.toNat)])
  | .sltiu e rd ra imm => some (word e.toNat 0x0D [(6, rd.toNat), (6, ra.toNat), (13, imm.toNat)])
  | .li e rd imm => some (word e.toNat 0x0E [(6, rd.toNat), (19, imm.toNat)])
  | .lui e rd imm => some (word e.toNat 0x0F [(6, rd.toNat), (19, imm.toNat)])
  | .lsi e rd imm => some (word e.toNat 0x10 [(6, rd.toNat), (19, imm.toNat)])
  | .bz ra disp => some (word 1 0x11 [(3, 0), (6, ra.toNat), (16, disp.toNat)])
  | .bnz ra disp => some (word 1 0x11 [(3, 1), (6, ra.toNat), (16, disp.toNat)])
  | .bltz ra disp => some (word 1 0x11 [(3, 2), (6, ra.toNat), (16, disp.toNat)])
  | .bgez ra disp => some (word 1 0x11 [(3, 3), (6, ra.toNat), (16, disp.toNat)])
  | .bgtz ra disp => some (word 1 0x11 [(3, 4), (6, ra.toNat), (16, disp.toNat)])
  | .blez ra disp => some (word 1 0x11 [(3, 5), (6, ra.toNat), (16, disp.toNat)])
  | .jmp disp => some (word 1 0x12 [(25, disp.toNat)])
  | .call disp => some (word 1 0x13 [(25, disp.toNat)])
  | .jr ra => some (word 1 0x14 [(7, 0), (6, 0), (6, ra.toNat), (6, 0)])
  | .calli ra => some (word 1 0x14 [(7, 1), (6, 0), (6, ra.toNat), (6, 0)])
  | .ret => some (word 1 0x14 [(7, 2), (6, 0), (6, 0), (6, 0)])
  | .eject rd p disp => some (word 1 0x15 [(6, rd.toNat), (3, p.toNat), (16, disp.toNat)])
  | .vadd e vd va vb => some (word e.toNat 0x18 [(4, 0), (7, vd.toNat), (7, va.toNat), (7, vb.toNat)])
  | .vsub e vd va vb => some (word e.toNat 0x18 [(4, 1), (7, vd.toNat), (7, va.toNat), (7, vb.toNat)])
  | .vmul e vd va vb => some (word e.toNat 0x18 [(4, 2), (7, vd.toNat), (7, va.toNat), (7, vb.toNat)])
  | .vmulh e vd va vb => some (word e.toNat 0x18 [(4, 3), (7, vd.toNat), (7, va.toNat), (7, vb.toNat)])
  | .vmulhu e vd va vb => some (word e.toNat 0x18 [(4, 4), (7, vd.toNat), (7, va.toNat), (7, vb.toNat)])
  | .vand e vd va vb => some (word e.toNat 0x18 [(4, 5), (7, vd.toNat), (7, va.toNat), (7, vb.toNat)])
  | .vor e vd va vb => some (word e.toNat 0x18 [(4, 6), (7, vd.toNat), (7, va.toNat), (7, vb.toNat)])
  | .vxor e vd va vb => some (word e.toNat 0x18 [(4, 7), (7, vd.toNat), (7, va.toNat), (7, vb.toNat)])
  | .vshl e vd va vb => some (word e.toNat 0x18 [(4, 8), (7, vd.toNat), (7, va.toNat), (7, vb.toNat)])
  | .vshr e vd va vb => some (word e.toNat 0x18 [(4, 9), (7, vd.toNat), (7, va.toNat), (7, vb.toNat)])
  | .vsra e vd va vb => some (word e.toNat 0x18 [(4, 10), (7, vd.toNat), (7, va.toNat), (7, vb.toNat)])
  | .vmin e vd va vb => some (word e.toNat 0x18 [(4, 11), (7, vd.toNat), (7, va.toNat), (7, vb.toNat)])
  | .vmax e vd va vb => some (word e.toNat 0x18 [(4, 12), (7, vd.toNat), (7, va.toNat), (7, vb.toNat)])
  | .vminu e vd va vb => some (word e.toNat 0x18 [(4, 13), (7, vd.toNat), (7, va.toNat), (7, vb.toNat)])
  | .vmaxu e vd va vb => some (word e.toNat 0x18 [(4, 14), (7, vd.toNat), (7, va.toNat), (7, vb.toNat)])
  | .vabsd e vd va vb => some (word e.toNat 0x18 [(4, 15), (7, vd.toNat), (7, va.toNat), (7, vb.toNat)])
  | .vaddS e vd va sb => some (word e.toNat 0x19 [(4, 0), (7, vd.toNat), (7, va.toNat), (1, 0), (6, sb.toNat)])
  | .vsubS e vd va sb => some (word e.toNat 0x19 [(4, 1), (7, vd.toNat), (7, va.toNat), (1, 0), (6, sb.toNat)])
  | .vmulS e vd va sb => some (word e.toNat 0x19 [(4, 2), (7, vd.toNat), (7, va.toNat), (1, 0), (6, sb.toNat)])
  | .vmulhS e vd va sb => some (word e.toNat 0x19 [(4, 3), (7, vd.toNat), (7, va.toNat), (1, 0), (6, sb.toNat)])
  | .vmulhuS e vd va sb => some (word e.toNat 0x19 [(4, 4), (7, vd.toNat), (7, va.toNat), (1, 0), (6, sb.toNat)])
  | .vandS e vd va sb => some (word e.toNat 0x19 [(4, 5), (7, vd.toNat), (7, va.toNat), (1, 0), (6, sb.toNat)])
  | .vorS e vd va sb => some (word e.toNat 0x19 [(4, 6), (7, vd.toNat), (7, va.toNat), (1, 0), (6, sb.toNat)])
  | .vxorS e vd va sb => some (word e.toNat 0x19 [(4, 7), (7, vd.toNat), (7, va.toNat), (1, 0), (6, sb.toNat)])
  | .vshlS e vd va sb => some (word e.toNat 0x19 [(4, 8), (7, vd.toNat), (7, va.toNat), (1, 0), (6, sb.toNat)])
  | .vshrS e vd va sb => some (word e.toNat 0x19 [(4, 9), (7, vd.toNat), (7, va.toNat), (1, 0), (6, sb.toNat)])
  | .vsraS e vd va sb => some (word e.toNat 0x19 [(4, 10), (7, vd.toNat), (7, va.toNat), (1, 0), (6, sb.toNat)])
  | .vminS e vd va sb => some (word e.toNat 0x19 [(4, 11), (7, vd.toNat), (7, va.toNat), (1, 0), (6, sb.toNat)])
  | .vmaxS e vd va sb => some (word e.toNat 0x19 [(4, 12), (7, vd.toNat), (7, va.toNat), (1, 0), (6, sb.toNat)])
  | .vminuS e vd va sb => some (word e.toNat 0x19 [(4, 13), (7, vd.toNat), (7, va.toNat), (1, 0), (6, sb.toNat)])
  | .vmaxuS e vd va sb => some (word e.toNat 0x19 [(4, 14), (7, vd.toNat), (7, va.toNat), (1, 0), (6, sb.toNat)])
  | .vabsdS e vd va sb => some (word e.toNat 0x19 [(4, 15), (7, vd.toNat), (7, va.toNat), (1, 0), (6, sb.toNat)])
  | .vneg e vd va => some (word e.toNat 0x1A [(4, 0), (7, vd.toNat), (7, va.toNat), (7, 0)])
  | .vabs e vd va => some (word e.toNat 0x1A [(4, 1), (7, vd.toNat), (7, va.toNat), (7, 0)])
  | .vnot e vd va => some (word e.toNat 0x1A [(4, 2), (7, vd.toNat), (7, va.toNat), (7, 0)])
  | .vpopc e vd va => some (word e.toNat 0x1A [(4, 3), (7, vd.toNat), (7, va.toNat), (7, 0)])
  | .vclz e vd va => some (word e.toNat 0x1A [(4, 4), (7, vd.toNat), (7, va.toNat), (7, 0)])
  | .vctz e vd va => some (word e.toNat 0x1A [(4, 5), (7, vd.toNat), (7, va.toNat), (7, 0)])
  | .vbrev e vd va => some (word e.toNat 0x1A [(4, 6), (7, vd.toNat), (7, va.toNat), (7, 0)])
  | .vmov e vd va => some (word e.toNat 0x1A [(4, 7), (7, vd.toNat), (7, va.toNat), (7, 0)])
  | .vsel e vd va vb => some (word e.toNat 0x1A [(4, 8), (7, vd.toNat), (7, va.toNat), (7, vb.toNat)])
  | .vmad e vd va vb => some (word e.toNat 0x1A [(4, 9), (7, vd.toNat), (7, va.toNat), (7, vb.toNat)])
  | .vaddi e vd va imm => some (word e.toNat 0x1B [(7, vd.toNat), (7, va.toNat), (11, imm.toNat)])
  | .vli e vd imm => some (word e.toNat 0x1C [(7, vd.toNat), (18, imm.toNat)])
  | .vfadd e vd va vb => some (word e.toNat 0x1D [(4, 0), (7, vd.toNat), (7, va.toNat), (7, vb.toNat)])
  | .vfsub e vd va vb => some (word e.toNat 0x1D [(4, 1), (7, vd.toNat), (7, va.toNat), (7, vb.toNat)])
  | .vfmul e vd va vb => some (word e.toNat 0x1D [(4, 2), (7, vd.toNat), (7, va.toNat), (7, vb.toNat)])
  | .vfdiv e vd va vb => some (word e.toNat 0x1D [(4, 3), (7, vd.toNat), (7, va.toNat), (7, vb.toNat)])
  | .vfmin e vd va vb => some (word e.toNat 0x1D [(4, 4), (7, vd.toNat), (7, va.toNat), (7, vb.toNat)])
  | .vfmax e vd va vb => some (word e.toNat 0x1D [(4, 5), (7, vd.toNat), (7, va.toNat), (7, vb.toNat)])
  | .vfsqrt e vd va => some (word e.toNat 0x1D [(4, 6), (7, vd.toNat), (7, va.toNat), (7, 0)])
  | .vfabs e vd va => some (word e.toNat 0x1D [(4, 7), (7, vd.toNat), (7, va.toNat), (7, 0)])
  | .vfneg e vd va => some (word e.toNat 0x1D [(4, 8), (7, vd.toNat), (7, va.toNat), (7, 0)])
  | .vfsgn e vd va vb => some (word e.toNat 0x1D [(4, 9), (7, vd.toNat), (7, va.toNat), (7, vb.toNat)])
  | .vfrint e vd va => some (word e.toNat 0x1D [(4, 10), (7, vd.toNat), (7, va.toNat), (7, 0)])
  | .vfclass e vd va => some (word e.toNat 0x1D [(4, 11), (7, vd.toNat), (7, va.toNat), (7, 0)])
  | .vfaddS e vd va sb => some (word e.toNat 0x1E [(4, 0), (7, vd.toNat), (7, va.toNat), (1, 0), (6, sb.toNat)])
  | .vfsubS e vd va sb => some (word e.toNat 0x1E [(4, 1), (7, vd.toNat), (7, va.toNat), (1, 0), (6, sb.toNat)])
  | .vfmulS e vd va sb => some (word e.toNat 0x1E [(4, 2), (7, vd.toNat), (7, va.toNat), (1, 0), (6, sb.toNat)])
  | .vfdivS e vd va sb => some (word e.toNat 0x1E [(4, 3), (7, vd.toNat), (7, va.toNat), (1, 0), (6, sb.toNat)])
  | .vfminS e vd va sb => some (word e.toNat 0x1E [(4, 4), (7, vd.toNat), (7, va.toNat), (1, 0), (6, sb.toNat)])
  | .vfmaxS e vd va sb => some (word e.toNat 0x1E [(4, 5), (7, vd.toNat), (7, va.toNat), (1, 0), (6, sb.toNat)])
  | .vfma e vd va vb => some (word e.toNat 0x1F [(4, 0), (7, vd.toNat), (7, va.toNat), (7, vb.toNat)])
  | .vfms e vd va vb => some (word e.toNat 0x1F [(4, 1), (7, vd.toNat), (7, va.toNat), (7, vb.toNat)])
  | .vfnma e vd va vb => some (word e.toNat 0x1F [(4, 2), (7, vd.toNat), (7, va.toNat), (7, vb.toNat)])
  | .vfnms e vd va vb => some (word e.toNat 0x1F [(4, 3), (7, vd.toNat), (7, va.toNat), (7, vb.toNat)])
  | .vcvt e src vd va => some (word e.toNat 0x20 [(4, src.code), (7, vd.toNat), (7, va.toNat), (7, 0)])
  | .vtolog e vd va => some (word e.toNat 0x21 [(4, 0), (7, vd.toNat), (7, va.toNat), (7, 0)])
  | .vfromlog e vd va => some (word e.toNat 0x21 [(4, 1), (7, vd.toNat), (7, va.toNat), (7, 0)])
  | .vlmul e vd va vb => some (word e.toNat 0x21 [(4, 2), (7, vd.toNat), (7, va.toNat), (7, vb.toNat)])
  | .vldiv e vd va vb => some (word e.toNat 0x21 [(4, 3), (7, vd.toNat), (7, va.toNat), (7, vb.toNat)])
  | .vlsqrt e vd va => some (word e.toNat 0x21 [(4, 4), (7, vd.toNat), (7, va.toNat), (7, 0)])
  | .vlpow e vd va vb => some (word e.toNat 0x21 [(4, 5), (7, vd.toNat), (7, va.toNat), (7, vb.toNat)])
  | .vexp2 e vd va => some (word e.toNat 0x21 [(4, 6), (7, vd.toNat), (7, va.toNat), (7, 0)])
  | .vlog2 e vd va => some (word e.toNat 0x21 [(4, 7), (7, vd.toNat), (7, va.toNat), (7, 0)])
  | .vcmp e c pd va vb => some (word e.toNat 0x22 [(4, c.code), (3, pd.toNat), (7, va.toNat), (7, vb.toNat), (4, 0)])
  | .vfcmp e c pd va vb => some (word e.toNat 0x23 [(4, c.code), (3, pd.toNat), (7, va.toNat), (7, vb.toNat), (4, 0)])
  | .pand e pd pa pb => some (word e.toNat 0x24 [(4, 0), (3, pd.toNat), (3, pa.toNat), (3, pb.toNat), (6, 0), (6, 0)])
  | .por e pd pa pb => some (word e.toNat 0x24 [(4, 1), (3, pd.toNat), (3, pa.toNat), (3, pb.toNat), (6, 0), (6, 0)])
  | .pxor e pd pa pb => some (word e.toNat 0x24 [(4, 2), (3, pd.toNat), (3, pa.toNat), (3, pb.toNat), (6, 0), (6, 0)])
  | .pandn e pd pa pb => some (word e.toNat 0x24 [(4, 3), (3, pd.toNat), (3, pa.toNat), (3, pb.toNat), (6, 0), (6, 0)])
  | .pnot e pd pa => some (word e.toNat 0x24 [(4, 4), (3, pd.toNat), (3, pa.toNat), (3, 0), (6, 0), (6, 0)])
  | .pmov e pd pa => some (word e.toNat 0x24 [(4, 5), (3, pd.toNat), (3, pa.toNat), (3, 0), (6, 0), (6, 0)])
  | .pfirst e pd pa => some (word e.toNat 0x24 [(4, 6), (3, pd.toNat), (3, pa.toNat), (3, 0), (6, 0), (6, 0)])
  | .pfroms e pd ra => some (word e.toNat 0x24 [(4, 7), (3, pd.toNat), (3, 0), (3, 0), (6, ra.toNat), (6, 0)])
  | .vred e op rd va => some (word e.toNat 0x25 [(4, 0), (3, op.code), (7, rd.toNat), (7, va.toNat), (3, 0), (1, 0)])
  | .vscan e op vd va => some (word e.toNat 0x25 [(4, 1), (3, op.code), (7, vd.toNat), (7, va.toNat), (3, 0), (1, 0)])
  | .vballot e rd pa => some (word e.toNat 0x25 [(4, 2), (3, 0), (7, rd.toNat), (7, pa.toNat), (3, 0), (1, 0)])
  | .vpcnt e rd pa => some (word e.toNat 0x25 [(4, 3), (3, 0), (7, rd.toNat), (7, pa.toNat), (3, 0), (1, 0)])
  | .vany e rd pa => some (word e.toNat 0x25 [(4, 4), (3, 0), (7, rd.toNat), (7, pa.toNat), (3, 0), (1, 0)])
  | .vall e rd pa => some (word e.toNat 0x25 [(4, 5), (3, 0), (7, rd.toNat), (7, pa.toNat), (3, 0), (1, 0)])
  | .vcompress e vd va p => some (word e.toNat 0x25 [(4, 6), (3, 0), (7, vd.toNat), (7, va.toNat), (3, p.toNat), (1, 0)])
  | .vexpand e vd va p => some (word e.toNat 0x25 [(4, 7), (3, 0), (7, vd.toNat), (7, va.toNat), (3, p.toNat), (1, 0)])
  | .vlaneid e vd => some (word e.toNat 0x25 [(4, 8), (3, 0), (7, vd.toNat), (7, 0), (3, 0), (1, 0)])
  | .vfill e vd ra => some (word e.toNat 0x25 [(4, 9), (3, 0), (7, vd.toNat), (7, ra.toNat), (3, 0), (1, 0)])
  | .vins e vd ra p => some (word e.toNat 0x25 [(4, 10), (3, 0), (7, vd.toNat), (7, ra.toNat), (3, p.toNat), (1, 0)])
  | .vext e rd va p => some (word e.toNat 0x25 [(4, 11), (3, 0), (7, rd.toNat), (7, va.toNat), (3, p.toNat), (1, 0)])
  | .vrdx e v sb imm => some (word e.toNat 0x26 [(1, 0), (7, v.toNat), (6, sb.toNat), (11, imm.toNat)])
  | .vwrx e v sb imm => some (word e.toNat 0x26 [(1, 1), (7, v.toNat), (6, sb.toNat), (11, imm.toNat)])
  | .route a b c seg => some (word 0 0x27 [(8, a.toNat), (8, b.toNat), (8, c.toNat), (1, seg.toNat)])
  | .qual scope order cache => some (word 0 0x28 [(3, scope.toNat), (2, order.code), (2, cache.toNat), (18, 0)])
  | .vld e vd sb imm => some (word e.toNat 0x29 [(3, 0), (7, vd.toNat), (6, sb.toNat), (9, imm.toNat)])
  | .vldUni e vd sb imm => some (word e.toNat 0x29 [(3, 1), (7, vd.toNat), (6, sb.toNat), (9, imm.toNat)])
  | .vst e vd sb imm => some (word e.toNat 0x2A [(3, 0), (7, vd.toNat), (6, sb.toNat), (9, imm.toNat)])
  | .vldx e vd sb vo sc => some (word e.toNat 0x2B [(3, 0), (7, vd.toNat), (6, sb.toNat), (7, vo.toNat), (2, sc.toNat)])
  | .vstx e vd sb vo sc => some (word e.toNat 0x2C [(3, 0), (7, vd.toNat), (6, sb.toNat), (7, vo.toNat), (2, sc.toNat)])
  | .vstc e vd sb imm => some (word e.toNat 0x2D [(3, 0), (7, vd.toNat), (6, sb.toNat), (9, imm.toNat)])
  | .vlds e swz vd sb imm => some (word e.toNat 0x2E [(3, swz.toNat), (7, vd.toNat), (6, sb.toNat), (9, imm.toNat)])
  | .vsts e swz vd sb imm => some (word e.toNat 0x2F [(3, swz.toNat), (7, vd.toNat), (6, sb.toNat), (9, imm.toNat)])
  | .vldsx e swz vd sb vo sc => some (word e.toNat 0x30 [(3, swz.toNat), (7, vd.toNat), (6, sb.toNat), (7, vo.toNat), (2, sc.toNat)])
  | .vstsx e swz vd sb vo sc => some (word e.toNat 0x31 [(3, swz.toNat), (7, vd.toNat), (6, sb.toNat), (7, vo.toNat), (2, sc.toNat)])
  | .sld e size sign sp rd sb imm => some (word e.toNat 0x32 [(2, size.toNat), (1, sign.toNat), (1, sp.toNat), (6, rd.toNat), (6, sb.toNat), (9, imm.toNat)])
  | .sst e size sp rd sb imm => some (word e.toNat 0x33 [(2, size.toNat), (1, 0), (1, sp.toNat), (6, rd.toNat), (6, sb.toNat), (9, imm.toNat)])
  | .vatom e op ret vd sb vo => some (word e.toNat 0x34 [(4, op.code), (1, ret.toNat), (7, vd.toNat), (6, sb.toNat), (7, vo.toNat)])
  | .vatoms e op ret vd sb vo => some (word e.toNat 0x35 [(4, op.code), (1, ret.toNat), (7, vd.toNat), (6, sb.toNat), (7, vo.toNat)])
  | .satom e op ret w rd ra rb => some (word e.toNat 0x36 [(4, op.code), (1, ret.toNat), (1, w.toNat), (1, 0), (6, rd.toNat), (6, ra.toNat), (6, rb.toNat)])
  | .fence e scope order => some (word e.toNat 0x37 [(3, scope.toNat), (2, order.code), (20, 0)])
  | .bar id => some (word 1 0x38 [(2, 0), (4, id.toNat), (19, 0)])
  | .barArrive e id => some (word e.toNat 0x38 [(2, 1), (4, id.toNat), (19, 0)])
  | .barWait id => some (word 1 0x38 [(2, 2), (4, id.toNat), (19, 0)])
  | .gbar => some (word 1 0x38 [(2, 3), (4, 0), (19, 0)])
  | .ltinit e ra rb => some (word e.toNat 0x39 [(3, 0), (6, 0), (6, ra.toNat), (6, rb.toNat), (4, 0)])
  | .ltarm e ra rb => some (word e.toNat 0x39 [(3, 1), (6, 0), (6, ra.toNat), (6, rb.toNat), (4, 0)])
  | .ltarrive e rd ra => some (word e.toNat 0x39 [(3, 2), (6, rd.toNat), (6, ra.toNat), (6, 0), (4, 0)])
  | .ltwait ra rb => some (word 1 0x39 [(3, 3), (6, 0), (6, ra.toNat), (6, rb.toNat), (4, 0)])
  | .lttest e rd ra rb => some (word e.toNat 0x39 [(3, 4), (6, rd.toNat), (6, ra.toNat), (6, rb.toNat), (4, 0)])
  | .hgarrive e h => some (word e.toNat 0x3A [(1, 0), (4, h.toNat), (6, 0), (14, 0)])
  | .hgwait h => some (word 1 0x3A [(1, 1), (4, h.toNat), (6, 0), (14, 0)])
  | .cpy e rd ra => some (word e.toNat 0x3B [(5, 0), (6, rd.toNat), (6, ra.toNat), (6, 0), (2, 0)])
  | .cpyLt e ra rb => some (word e.toNat 0x3B [(5, 0), (6, 0), (6, ra.toNat), (6, rb.toNat), (2, 1)])
  | .cpyw e rd ra => some (word e.toNat 0x3B [(5, 1), (6, rd.toNat), (6, ra.toNat), (6, 0), (2, 0)])
  | .cpywLt e ra rb => some (word e.toNat 0x3B [(5, 1), (6, 0), (6, ra.toNat), (6, rb.toNat), (2, 1)])
  | .cpyo e rd ra => some (word e.toNat 0x3B [(5, 2), (6, rd.toNat), (6, ra.toNat), (6, 0), (2, 0)])
  | .cpyoLt e ra rb => some (word e.toNat 0x3B [(5, 2), (6, 0), (6, ra.toNat), (6, rb.toNat), (2, 1)])
  | .cpyg e rd ra => some (word e.toNat 0x3B [(5, 3), (6, rd.toNat), (6, ra.toNat), (6, 0), (2, 0)])
  | .cpygLt e ra rb => some (word e.toNat 0x3B [(5, 3), (6, 0), (6, ra.toNat), (6, rb.toNat), (2, 1)])
  | .cpyq e rd => some (word e.toNat 0x3B [(5, 4), (6, rd.toNat), (6, 0), (6, 0), (2, 0)])
  | .sdesc e rd ra => some (word e.toNat 0x3B [(5, 5), (6, rd.toNat), (6, ra.toNat), (6, 0), (2, 0)])
  | .sgo e ra => some (word e.toNat 0x3B [(5, 6), (6, 0), (6, ra.toNat), (6, 0), (2, 0)])
  | .sstop e ra => some (word e.toNat 0x3B [(5, 7), (6, 0), (6, ra.toNat), (6, 0), (2, 0)])
  | .mclaim e rd ra => some (word e.toNat 0x3B [(5, 8), (6, rd.toNat), (6, ra.toNat), (6, 0), (2, 0)])
  | .mrel e ra => some (word e.toNat 0x3B [(5, 9), (6, 0), (6, ra.toNat), (6, 0), (2, 0)])
  | .mgo e rd ra => some (word e.toNat 0x3B [(5, 10), (6, rd.toNat), (6, ra.toNat), (6, 0), (2, 0)])
  | .mstat e rd ra => some (word e.toNat 0x3B [(5, 11), (6, rd.toNat), (6, ra.toNat), (6, 0), (2, 0)])
  | .dlaunch e rd ra rb => some (word e.toNat 0x3B [(5, 12), (6, rd.toNat), (6, ra.toNat), (6, rb.toNat), (2, 0)])
  | .qnotify e ra rb => some (word e.toNat 0x3B [(5, 13), (6, 0), (6, ra.toNat), (6, rb.toNat), (2, 0)])
  | .kctx e rd ra => some (word e.toNat 0x3C [(5, 0), (6, rd.toNat), (6, ra.toNat), (6, 0), (2, 0)])
  | .kpost e rd ra => some (word e.toNat 0x3C [(5, 1), (6, rd.toNat), (6, ra.toNat), (6, 0), (2, 0)])
  | .kpostLt e ra rb => some (word e.toNat 0x3C [(5, 1), (6, 0), (6, ra.toNat), (6, rb.toNat), (2, 1)])
  | .ksend e rd ra => some (word e.toNat 0x3C [(5, 2), (6, rd.toNat), (6, ra.toNat), (6, 0), (2, 0)])
  | .ksendLt e ra rb => some (word e.toNat 0x3C [(5, 2), (6, 0), (6, ra.toNat), (6, rb.toNat), (2, 1)])
  | .kcancel e rd ra rb => some (word e.toNat 0x3C [(5, 3), (6, rd.toNat), (6, ra.toNat), (6, rb.toNat), (2, 0)])
  | .kprobe e rd ra => some (word e.toNat 0x3C [(5, 4), (6, rd.toNat), (6, ra.toNat), (6, 0), (2, 0)])
  | .kpull e rd ra => some (word e.toNat 0x3C [(5, 5), (6, rd.toNat), (6, ra.toNat), (6, 0), (2, 0)])
  | .kpullLt e ra rb => some (word e.toNat 0x3C [(5, 5), (6, 0), (6, ra.toNat), (6, rb.toNat), (2, 1)])
  | .binit e rd ra => some (word e.toNat 0x3D [(2, 0), (6, rd.toNat), (6, ra.toNat), (7, 0), (4, 0)])
  | .bcount e rd ra vb => some (word e.toNat 0x3D [(2, 1), (6, rd.toNat), (6, ra.toNat), (7, vb.toNat), (4, 0)])
  | .bpatch e rd ra => some (word e.toNat 0x3D [(2, 2), (6, rd.toNat), (6, ra.toNat), (7, 0), (4, 0)])
  | .brel e rd => some (word e.toNat 0x3D [(2, 3), (6, rd.toNat), (6, 0), (7, 0), (4, 0)])
  | .mnop => some (seqWord 0x00 [(27, 0)])
  | .mend => some (seqWord 0x01 [(27, 0)])
  | .mloop q disp => some (seqWord 0x02 [(3, q.toNat), (8, 0), (16, disp.toNat)])
  | .mharr h => some (seqWord 0x03 [(4, h.toNat), (23, 0)])
  | .mhwait h => some (seqWord 0x04 [(4, h.toNat), (23, 0)])
  | .mldo slot q side imm => some (seqWord 0x05 [(6, slot.toNat), (3, q.toNat), (1, side.toNat), (12, imm.toNat), (5, 0)])
  | .mdeq slot q blk ftz => some (seqWord 0x06 [(6, slot.toNat), (3, q.toNat), (8, blk.toNat), (1, ftz.toNat), (9, 0)])
  | .mhad n slot fmt ftz => some (seqWord 0x07 [(2, n.toNat), (6, slot.toNat), (3, fmt.toNat), (1, ftz.toNat), (15, 0)])
  | .mqnt dst src gb4 ftz => some (seqWord 0x08 [(6, dst.toNat), (6, src.toNat), (1, gb4.toNat), (1, ftz.toNat), (13, 0)])
  | .mmla acc sa sb fa fb ftz => some (seqWord 0x09 [(4, acc.toNat), (6, sa.toNat), (6, sb.toNat), (3, fa.toNat), (3, fb.toNat), (1, ftz.toNat), (4, 0)])
  | .mzero acc => some (seqWord 0x0A [(4, acc.toNat), (23, 0)])
  | .msto q acc out rs slot ftz => some (seqWord 0x0B [(3, q.toNat), (4, acc.toNat), (2, out.toNat), (1, rs.toNat), (6, slot.toNat), (1, ftz.toNat), (10, 0)])
  | .mqadd q imm => some (seqWord 0x0C [(3, q.toNat), (24, imm.toNat)])
  | .mset q imm => some (seqWord 0x0D [(3, q.toNat), (24, imm.toNat)])
  | .deviceSlotConsume _ _ => none
  | .slotFill _ _ _ => none
  | .tileOpStart _ _ => none
  | .tileOpComplete _ _ => none
  | .pauseExpiry _ => none
  | .waitcWake _ => none
  | .waitcReread _ => none
  | .waitcTimeout _ => none
  | .trapRingWrite _ => none
  | .faultRingWrite _ => none
  | .strandResume _ => none
  | .crewEnd _ => none
  | .crewComplete _ => none
  | .launchEvent _ _ => none
  | .waitMet _ _ => none
  | .crewAdmission _ => none
  | .priorityAging _ _ => none
  | .passoverTimeout _ _ => none
  | .energyWindow _ => none
  | .preempt _ _ => none
  | .crewResume _ _ => none
  | .tlbInvalidate _ _ _ => none
  | .copyAccept _ _ => none
  | .copyComplete _ _ => none
  | .copyResume _ _ => none
  | .binningComplete _ => none
  | .streamLineRequest _ _ => none
  | .gets _ _ => none
  | .getx _ _ => none
  | .tok _ _ => none
  | .transientTimeout _ _ => none
  | .persistentTimeout _ _ => none
  | .preq _ => none
  | .pact _ _ => none
  | .pdone _ _ => none
  | .pdeact _ _ _ => none
  | .recoveryTimeout _ => none
  | .recreate _ _ _ => none
  | .recack _ => none
  | .lossCheck _ => none
  | .flitGiveUp _ => none
  | .recallTokens _ _ => none
  | .recallTimeout _ => none
  | .atom _ => none
  | .hld _ => none
  | .hst _ => none
  | .atomr _ => none
  | .hldr _ => none
  | .hstr _ => none
  | .cxlMemrd _ _ => none
  | .cxlMemwr _ _ _ => none
  | .cxlSnoop _ _ _ => none
  | .bisnpResponse _ _ _ => none
  | .cxlHostData _ _ _ _ => none
  | .fabRead _ _ => none
  | .fabReadReply _ _ => none
  | .fabWrite _ _ => none
  | .fabWriteAck _ _ => none
  | .fabAtomic _ _ => none
  | .fabAtomicReply _ _ => none
  | .multicastWrite _ _ => none
  | .remoteTimeout _ _ => none
  | .mcastAckTimeout _ _ => none
  | .keywayMessage _ => none
  | .keywayAck _ _ => none
  | .keywayNack _ _ => none
  | .keywayReject _ _ => none
  | .keywayRetry _ _ => none
  | .keywayAckTimeout _ _ => none
  | .pullRequest _ => none
  | .pullData _ => none
  | .machine _ _ _ => none
  | .launch _ _ _ _ _ => none
  | .copy _ _ _ _ _ _ _ _ => none
  | .map _ _ _ _ _ _ _ => none
  | .unmap _ _ _ _ _ => none
  | .exportReq _ _ _ _ _ => none
  | .importReq _ _ _ _ => none
  | .signal _ _ _ _ _ _ => none
  | .query _ _ => none
  | .reset _ _ _ => none
  | .filegrant _ _ _ _ _ _ => none
  | .fwupdate _ _ _ _ => none
  | .debugset _ _ _ _ _ _ => none
  | .brkset _ _ _ _ _ _ _ => none
  | .trapresp _ _ _ _ => none
  | .trapheadWrite _ _ => none
  | .fltheadWrite _ _ => none
  | .kctxWrite _ _ _ _ _ => none
  | .kchreset _ _ => none
  | .clkmodeWrite _ _ => none
  | .cohmodeWrite _ _ => none
  | .rootWrite _ _ => none
  | .registerWrite _ => none
  | .tdispStop _ => none
  | .functionLevelReset _ => none
  | .bringUp _ => none
  | .clockStepDown _ => none
  | .recreateFilterExpiry _ _ => none
  | .recoveryRateWindow _ => none
  | .resetTokenAck _ _ => none
  | .lockInterfaceRequest _ => none
  | .startInterfaceRequest _ => none
  | .eventQueueEntryFree _ => none
  | .copyRequestComplete _ _ => none
  | .copyFaultDecline _ _ => none
  | .pageTableStore _ _ => none
  | .unknownPacketType _ _ => none

/-- The instruction belongs to the sequencer stream (R57). -/
def Instr.inSeq : Instr → Bool
  | .mnop => true
  | .mend => true
  | .mloop _ _ => true
  | .mharr _ => true
  | .mhwait _ => true
  | .mldo _ _ _ _ => true
  | .mdeq _ _ _ _ => true
  | .mhad _ _ _ _ => true
  | .mqnt _ _ _ _ => true
  | .mmla _ _ _ _ _ _ => true
  | .mzero _ => true
  | .msto _ _ _ _ _ _ => true
  | .mqadd _ _ => true
  | .mset _ _ => true
  | _ => false

/-- Decoding in the instruction's own stream. -/
def Instr.decodeOwn (i : Instr) (w : W32) : Except DecErr Instr := if i.inSeq then decodeSeq w else decodeWord w

/-- The words of an instruction in its stream. -/
def encode (i : Instr) : List W32 := (encodeWord i).toList

/-- A 32-bit word from four bytes, little-endian (R42). -/
def wordOfBytes (b0 b1 b2 b3 : Byte) : W32 := b3 ++ b2 ++ b1 ++ b0

/-- The instruction at the head of a byte list, and the bytes after it (R42). -/
def decodeBytes : List Byte → Option (Except DecErr Instr × List Byte)
  | b0 :: b1 :: b2 :: b3 :: t => some (decodeWord (wordOfBytes b0 b1 b2 b3), t)
  | _ => none

/-- The four bytes of a word, lowest address first (R42). -/
def bytesOfWord (w : W32) : List Byte :=
  [w.extractLsb' 0 8, w.extractLsb' 8 8, w.extractLsb' 16 8, w.extractLsb' 24 8]

/-- The sequencer instruction at the head of a byte list (R57). -/
def decodeSeqBytes : List Byte → Option (Except DecErr Instr)
  | b0 :: b1 :: b2 :: b3 :: _ => some (decodeSeq (wordOfBytes b0 b1 b2 b3))
  | _ => none

/-- The instruction read from a word given as the opcode table numbers its bits. The two streams share one table and their
words collide; a word is read in the strand stream first, and in the sequencer stream where it is no strand instruction
(DESIGN CHOICE, log 6). A row of `nbits` 0 is an event and has no word. -/
def decodeTableWord (nbits w : Nat) : Option Instr :=
  if nbits = 0 then none else
  let bytes := bytesOfWord (BitVec.ofNat 32 w)
  match decodeBytes bytes with
  | some (.ok i, _) => some i
  | _ => match decodeSeqBytes bytes with
    | some (.ok i) => some i
    | _ => none

end Sys2Proof
end

