-- ==== Sys2Proof/Machine/State.lean ====
section
/-! DEFINITION. The state of the machine as plain data: one package (R1 to R3) with everything the manual gives it. The
records are nested as the manual nests the hardware: strand, crew, core, die, package. -/

namespace Sys2Proof.Machine

open Sys2Proof

/-- Where the machine itself stops. Raised by the events that name a physical address: the manual says that such an address
does not exist (R297), and the model stops rather than invent it. Safe: nothing is proved of what follows. -/
inductive Fault where
  /-- Raised by PAGE_TABLE_STORE, CXL_MEMRD and CXL_MEMWR outside every range of R297. Safe. -/
  | noSuchPhysicalAddress (pa : Nat)
  deriving DecidableEq, Repr

/-- Why the model gives an instruction no meaning. -/
inductive Refusal where
  /-- Raised by the arms of `exec` that have no meaning yet, by name. Safe. -/
  | notModelled (mnemonic : String)
  deriving DecidableEq, Repr

/-- The states of a strand (R12), in the manual's order. -/
inductive StrandState where
  | ready | issuing | parked | ejectWait | done
  deriving DecidableEq, Repr

/-- What a strand parked with reason wait waits for (R12, R78, R162, R182, R186, R187, R222, R234, R240, R283, R288). -/
inductive WaitFor where
  /-- `pause`: the CLOCK value it may resume at. -/
  | pause (at_ : Nat)
  /-- `waitc`: the TIME of its timeout, the TIME of its next rereading where the word is reread at an interval, the sector it
  watches, whether a wake event has come, and the TIME at which the look in hand began (R240). -/
  | waitc (deadline : Nat) (reread : Option Nat) (sec : Nat) (woken : Bool) (since : Nat)
  | latch (off : Nat) (phase : Bool)
  | slots
  | copySlot
  | token (r : SReg)
  | fence
  | pending
  /-- A write held by MIG, at the address of its first held element (R288). -/
  | mig (va : Nat)
  | mcast
  deriving DecidableEq, Repr

/-- The park reasons of R12, with what the park data of R308 need. -/
inductive Park where
  | remoteLoad
  | wait (w : WaitFor)
  | trap (ring : Option Nat)
  | fault
  | hinge (h : BitVec 4)
  | barrier (id : Option (BitVec 4))
  | acquire
  | join
  deriving DecidableEq, Repr

/-- A fault record's fields (R301); GRID and CREW are the crew's. -/
structure FaultRec where
  code   : Byte
  sub    : Byte
  lane   : Byte
  strand : Byte
  eng    : Bool
  remn   : Bool
  defer  : Bool
  pc     : Word
  addr   : Word
  grid   : Nat
  crew   : Nat
  deriving DecidableEq, Repr

/-- Where an outstanding remote access delivers what it returns (R279). -/
inductive Dest where
  | none
  | sreg (r : SReg) (size : Nat) (sign : Bool)
  | vreg (v : VReg) (size : Nat)
  deriving DecidableEq, Repr

/-- One element of an outstanding remote access: its number in the order of issue, transaction, lane, virtual address, packet with
the port it leaves through, whether that is held back, and the TIME it left at. -/
structure RemotePart where
  seq  : Nat
  txn  : Nat
  lane : Nat
  va   : Word
  out  : Option (PortId × Packet)
  held : Bool
  sent : Nat
  deriving DecidableEq, Repr

/-- A remote access not yet answered in full (R279). `load` says that it counts toward the 16, `store` that it is a store, `acq`
that no later access of the strand is performed before it (R226), `reads` that it reads, as every atomic does whether or not it returns
the value (R252); `acqAt` is the scope of its acquire, 0 for none (R127). -/
structure Remote where
  load  : Bool
  store : Bool
  reads : Bool
  acq   : Bool
  acqAt : Nat
  dest  : Dest
  pc    : Word
  parts : List RemotePart
  deriving DecidableEq, Repr

/-- A FABKEY failure not yet raised (R280, R281). -/
structure Deferred where
  store : Bool
  dest  : Dest
  sub   : Byte
  pc    : Word
  va    : Word
  lane  : Nat
  deriving DecidableEq, Repr

/-- A strand's multicast record (R283): group, acknowledgements awaited by member, failed members. -/
structure McRec where
  group  : Byte
  await  : List (Nat × RemotePart)
  failed : Word
  deriving DecidableEq, Repr

/-- A ROUTE prefix of the unit in hand (R114). -/
structure Route where
  a   : BitVec 8
  b   : BitVec 8
  c   : BitVec 8
  seg : Bool
  deriving DecidableEq, Repr

/-- A QUAL prefix of the unit in hand (R51). -/
structure Qual where
  scope : BitVec 3
  order : Order
  cache : BitVec 2
  deriving DecidableEq, Repr

/-- The strand context a strand occupies on its quarter (R320). -/
inductive CtxKind where
  | root | reserved | pooled
  deriving DecidableEq, Repr

/-- A TLB entry (R296): level (1 for 512 MiB, 2 for 64 KiB, 3 for a contiguous group of 2 MiB), number of the virtual page or block,
leaf, and where the leaf stands in memory. -/
structure TlbEntry where
  level : Nat
  vpn   : Nat
  pte   : Word
  at_   : Nat
  deriving DecidableEq, Repr

/-- A sector that a unit in hand waits to read: the bytes asked for, whether it reads at scope pkg or sys (R253), the PLACE of its
page, whether the load fills the L1 (R127), and whether the line is released after it (R128). -/
structure Want where
  mask  : BitVec 16
  wide  : Bool
  place : Nat
  fill  : Bool
  rel   : Bool
  deriving DecidableEq, Repr

/-- Bytes of a completed store that the core holds because the pending buffer is full or may not take them yet (R222, R223), in the order
`seq` of the core's stores; `since` is what `PendEntry.since` becomes. -/
structure HeldStore where
  sec  : Nat
  mask : BitVec 16
  data : SectorData
  st   : Bool
  pin  : Bool
  seq  : Nat
  since : Nat
  deriving DecidableEq, Repr

/-- An atomic on a sector whose tokens the die cache gathers, performed when it has them all: element, sector, offset, operands
(R203, R219). -/
structure NearAtom where
  lane : Nat
  sec  : Nat
  off  : Nat
  args : AtomArgs
  st   : Bool
  pin  : Bool
  deriving DecidableEq, Repr

/-- A strand: a root strand or a remnant (R10 to R33). -/
structure Strand where
  /-- The model's own name of the strand. -/
  uid       : Nat
  crew      : Nat
  /-- STRAND (R36). -/
  idx       : Nat
  root      : Nat
  parent    : Option Nat
  state     : StrandState
  park      : Option Park
  pc        : Word
  s         : Vector Word 64
  p         : Vector Word 8
  live      : Word
  returned  : Word
  joins     : Nat
  mode      : BitVec 32
  fflags    : Word
  lfault    : Word
  progress  : Word
  mcerr     : Word
  stklo     : Word
  /-- STKLO to restore when the join count returns to zero (R22). -/
  stkKeep   : Word
  /-- Holds the full register allotment (R33). -/
  full      : Bool
  /-- Words of the run in hand (R43). -/
  run       : Nat
  /-- The order in which its run began (R326). -/
  began     : Nat
  /-- Its next unit was tried and is not ready on the scoreboard (R326). -/
  stalled   : Bool
  /-- Address of the first word of the unit in hand (R52). -/
  unitPc    : Word
  /-- The lowest lane of the guard as the unit in hand issued (R301). -/
  unitLane  : Byte
  route     : Option Route
  qual      : Option Qual
  /-- The instruction of a parked unit, for the events that complete it. -/
  cur       : Instr
  /-- Busy registers and the asynchronous operation that owes each a status (R182). -/
  busy      : List (Nat × Nat)
  remotes   : List Remote
  deferred  : List Deferred
  mcast     : Option McRec
  /-- Sectors a completed request delivered to the unit in hand, with their data. -/
  fills     : List (Nat × SectorData)
  /-- Elements of the unit in hand performed at a home: element and value returned. -/
  got       : List (Nat × Word)
  /-- Elements of the unit in hand asked of a home: element and transaction. -/
  asked     : List (Nat × Nat)
  /-- Loads of the unit in hand at homes (HLD) not yet answered: transaction, address and bytes. -/
  homeReads : List (Nat × Nat × Nat)
  /-- Sectors the unit in hand waits to read. -/
  wants     : List (Nat × Want)
  /-- The atomic of the unit in hand that waits for the tokens of its sector. -/
  near      : Option NearAtom
  /-- Translations of the unit in hand that have passed their checks (R300), by element. -/
  checked   : List (Nat × TlbEntry)
  /-- What a release in hand waits for: pending entries older than this (R222). -/
  relSeq    : Option Nat
  /-- Stores to homes (HST) of earlier units not yet acknowledged: transaction and sector. -/
  hstOut    : List (Nat × Nat)
  /-- Stores that the core holds until the pending buffer takes them, oldest first (R222). -/
  heldSt    : List HeldStore
  /-- The orders of its last acquires that follow what its core had then not yet brought to the die cache (at scope die or base) and the
  entries of its half (at scope base), 0 for none (R252). -/
  acqCore   : Nat
  acqBase   : Nat
  baseCls   : Nat
  cls       : Nat
  passes    : Nat
  joinSeq   : Nat
  quarter   : QuarterId
  ctx       : CtxKind
  /-- Resume once without breakpoint check (R314). -/
  skipBrk   : Bool
  /-- A unit completed at a wake event owes its step event (R312): the unit's address. -/
  stepDue   : Option Word
  /-- The record of the fault the strand is parked with, and whether the ring holds it (R302). -/
  faulted   : Option (FaultRec × Bool)
  deriving DecidableEq, Repr

/-- One vector register, up to 64 lanes (R17). -/
abbrev VecReg := Vector W32 64
/-- The vector registers of a root strand's family (R17, R21). -/
abbrev Bank := Vector VecReg 128

/-- The kernel header (R28). -/
structure Header where
  coop      : Bool
  step      : Bool
  entry     : Nat
  lanes     : Nat
  vregs     : Nat
  vprologue : Nat
  strands   : Nat
  scratch   : Nat
  slots     : Nat
  tiles     : Nat
  energy    : Nat
  stack     : Nat
  stream    : Nat
  argBytes  : Nat
  deriving DecidableEq, Repr

/-- The launch record (R30). -/
structure LaunchRec where
  header  : Word
  nx      : Nat
  ny      : Nat
  nz      : Nat
  prio    : Nat
  args    : Word
  counter : Word
  extent  : Word
  deriving DecidableEq, Repr

/-- An operand slot (R157, R158): payload bytes and side bytes, each list holding what differs from a fresh slot. -/
structure Slot where
  payload : List (Nat × Byte)
  side    : List (Nat × Byte)
  deriving DecidableEq, Repr

/-- The states of a sequencer context (R163, R165). -/
inductive SeqState where
  | stopped | running | waiting | holding | faulted
  deriving DecidableEq, Repr

/-- A sequencer context (R163, R165), with the Hinge it waits at while WAITING or HOLDING (R174) and the record of the fault it stopped at
(R169). -/
structure Seq where
  state : SeqState
  hinge : BitVec 4
  pc    : Word
  start : Word
  q     : Vector Word 8
  fcode : Byte
  fsub  : Byte
  frec  : Option FaultRec
  deriving DecidableEq, Repr

/-- One Hinge (R166): AC and WC by STRAND, MC and RC. -/
structure Hinge where
  ac : Vector Nat 16
  wc : Vector Nat 16
  mc : Nat
  rc : Nat
  deriving DecidableEq, Repr

/-- One barrier (R237): phase, arrived bit by STRAND, and the phase each strand last arrived in. -/
structure Barrier where
  phase   : Nat
  arrived : BitVec 16
  last    : Vector (Option Nat) 16
  deriving DecidableEq, Repr

/-- Who completes when an asynchronous operation completes: a token register (R182) or a Latch (R184). -/
inductive Done where
  | token (op : Nat)
  | latch (off : Nat)
  deriving DecidableEq, Repr

/-- The four copies (R189). -/
inductive CopyKind where
  | cpy | cpyw | cpyo | cpyg
  deriving DecidableEq, Repr

/-- A tensor descriptor (R188) as 64 raw bytes; its fields are read where they are used. -/
abbrev Desc := List Byte

/-- A copy operation accepted and not completed (R187, R192): whether its descriptor has passed its checks, the next element, the
index entry in hand (R189), the row scales read (R192), the remote access in hand with its transaction, TIME and reply (R279), the
access in hand at a home with its transaction (R220), the sector it waits to read in the die cache and its data once there (R201), the
acknowledgements of a multicast store in hand with the subcode of a failed member (R283), the translation of the element while an access
of it is in hand, and the record it stopped with. -/
structure CopyOp where
  id      : Nat
  kind    : CopyKind
  desc    : Desc
  descOff : Word
  done    : Done
  pc      : Word
  begun   : Bool
  next    : Nat
  idx     : Option (Nat × Nat)
  scales  : List Byte
  txn     : Option (Nat × Nat)
  reply   : Option (Byte × Word)
  home    : Option Nat
  want    : Option Nat
  fill    : Option (Nat × SectorData)
  mcast   : Option (List (Nat × Nat) × Byte)
  leaf    : Option TlbEntry
  stopped : Option FaultRec
  deriving DecidableEq, Repr

/-- A stream of the prefetcher (R196 to R198): handle, descriptor, running, next element to request, and one more than the
furthest element that a demand access of the crew has touched. -/
structure Stream where
  handle  : Nat
  desc    : Desc
  running : Bool
  next    : Nat
  seen    : Nat
  deriving DecidableEq, Repr

/-- A send (R273): who issued it and what it sends. -/
structure Send where
  id      : Nat
  crew    : Nat
  desc    : Desc
  done    : Done
  length  : Nat
  pc      : Word
  deriving DecidableEq, Repr

/-- A queued binning operation (R258). -/
inductive BinOp where
  | init (op n : Nat)
  | count (op off : Nat) (lanes : List (Nat × Nat))
  | patch (op : Nat) (row : Word)
  | release (op : Nat)
  /-- A HOLD send in its place of the issue order. -/
  | hold (x : Send)
  deriving DecidableEq, Repr

/-- A crew's part of the binning engine (R258, R259). -/
structure Binning where
  n      : Nat
  counts : List (Nat × Nat)
  queue  : List BinOp
  held   : List Send
  deriving DecidableEq, Repr

/-- An effect kept for a pre-empted crew until it resumes (R85, R307). -/
inductive Kept where
  | status (op : Nat) (v : Word)
  | record (off : Nat) (bytes : List Byte)
  | latch (off : Nat)
  /-- The response to a strand's `trap` (R85). -/
  | response (u status : Nat) (vals : List Word)
  deriving DecidableEq, Repr

/-- A crew (R10, R31). -/
structure Crew where
  uid     : Nat
  die     : DieId
  core    : CoreId
  slot    : GridSlot
  num     : Nat
  hdrAddr : Word
  hdr     : Header
  rec_    : LaunchRec
  queue   : Nat
  tag     : BitVec 32
  /-- Vector registers by STRAND (R17, R21). -/
  banks   : List (Nat × Bank)
  debug   : Word
  energy  : Word
  spad    : List (Nat × Byte)
  kills   : Word
  firstOff : Word
  firstPc : Word
  slots   : List Slot
  tiles   : List (List (Nat × W32))
  hasSeq  : Bool
  seq     : Seq
  hinges  : Vector Hinge 16
  bars    : Vector Barrier 16
  /-- Root strands that have arrived at the grid barrier, and the phase each last arrived in (R239). -/
  garrived : BitVec 16
  copies  : List CopyOp
  streams : List Stream
  bin     : Binning
  stackLo : Nat
  stackLen : Nat
  ended   : Option FaultRec
  preempted : Bool
  /-- The service OS has asked for the crew's pre-emption, with the address of its image (R306). -/
  stopping : Option Nat
  kept    : List Kept
  deriving DecidableEq, Repr

/-- An L1 copy of a sector (R127, R253): the bytes that it holds, the data, the TIME it was filled at, and the order in which it was last
written. -/
structure L1Copy where
  sec    : Nat
  have_  : BitVec 16
  data   : SectorData
  filled : Nat
  wrote  : Nat
  deriving DecidableEq, Repr

/-- One effect of a tile operation (R171): what it writes when it ends. -/
inductive TileWrite where
  | payload (slot byte : Nat) (v : Byte)
  | side (slot byte : Nat) (v : Byte)
  | tile (t word : Nat) (v : W32)
  | spad (off : Nat) (v : Byte)
  deriving DecidableEq, Repr

/-- The tile operation in a core's array (R168): its crew, what it will write, the slots it uses, and how many of them were
released since it began (R162). -/
structure ArrayOp where
  crew   : Nat
  writes : List TileWrite
  uses   : List Nat
  gone   : Nat
  deriving DecidableEq, Repr

/-- A core (R3). `warm` are the sectors that its stream prefetchers have asked for toward the L1 (R198). -/
structure Core where
  l1     : List L1Copy
  warm   : List Nat
  tlb    : List TlbEntry
  /-- Parked claims by strand, oldest first (R162). -/
  claims : List Nat
  array  : Option ArrayOp
  turn   : Nat
  deriving DecidableEq, Repr

/-- A ring of the service OS (R334): base, log2 of its size, head and tail. -/
structure Ring where
  base : Nat
  log  : Nat
  head : Nat
  tail : Nat
  deriving DecidableEq, Repr

/-- A device-launch queue (R241, R334). -/
structure DevQueue where
  base   : Nat
  log    : Nat
  headAt : Nat
  head   : Nat
  tail   : Nat
  filled : List Nat
  deriving DecidableEq, Repr

/-- A breakpoint (R313). -/
structure Brk where
  addr : Word
  mask : Nat
  kind : Nat
  deriving DecidableEq, Repr

/-- Where an access of a die's own agents goes: to another package, to a home, into the die cache for a sector, or as an atomic into
the die cache once it has the sector's tokens. -/
inductive FarKind where
  | remote
  | home
  | cache (sec : Nat)
  | near (sec off : Nat) (a : AtomArgs)
  deriving DecidableEq, Repr

/-- An access of a die's own agents (the queue port's reads of wait counters and headers, its adds to counters, SIGNAL): what it
serves, where it goes, the PLACE of its page, its transaction, the TIME it left at, and the status and bytes of its reply (R128, R219,
R279, R316, R331). -/
structure Far where
  key   : Nat × Nat
  kind  : FarKind
  place : Nat
  txn   : Nat
  sent  : Nat
  reply : Option (Byte × List Byte)
  deriving DecidableEq, Repr

/-- A wait of a launch (R316): whether it is met, and whether its first read has been made. -/
structure Wait where
  addr   : Word
  target : Word
  met    : Bool
  seen   : Bool
  deriving DecidableEq, Repr

/-- A launch entry of a queue (R315): raw record, waits, tag, the header once the launch has passed its checks at the head
(R343), the TIME since which it has been ready without a crew admitted, when it was first passed over, its levels of aging
(R317, R323), and the grid slot it holds once a crew of it was admitted. -/
structure Entry where
  id       : Nat
  raw      : List Byte
  waits    : List Wait
  tag      : BitVec 32
  device   : Bool
  hdr      : Option Header
  readyAt  : Option Nat
  passedAt : Option Nat
  aged     : Nat
  grid     : Option GridSlot
  deriving DecidableEq, Repr

/-- An admitted launch (R318): what its completion needs, and the kernel image of R47. -/
structure Grid where
  slot     : GridSlot
  queue    : Nat
  tag      : BitVec 32
  hdrAddr  : Word
  hdr      : Header
  rec_     : LaunchRec
  /-- Next crew to admit, and crews complete so far. -/
  next     : Nat
  complete : Nat
  /-- The kernel image (R47): table root, and memory as every strand then saw it. -/
  imgRoot  : Nat
  image    : List Host.Cell
  /-- Sectors of host memory that the image holds: the others it takes from the host when they are first fetched (R47). -/
  known    : List Nat
  /-- Words fetched so far, by virtual address. -/
  fetched  : List (Nat × W32)
  kills    : Word
  killBy   : List (Nat × Word × Word)
  faults   : List (Nat × FaultRec)
  gphase   : Nat
  debug    : Word
  deriving DecidableEq, Repr

/-- A launch that has ended and whose event is not yet written (R77, R333): status, record, kill record, the counter to advance
(0 for none), and the grid slot it holds until then. -/
structure Ending where
  id       : Nat
  queue    : Nat
  tag      : BitVec 32
  status   : Nat
  rec_     : Option FaultRec
  kills    : Word
  firstOff : Word
  firstPc  : Word
  counter  : Word
  grid     : Option GridSlot
  deriving DecidableEq, Repr

/-- An event for the host (R333): its 64 bytes. -/
abbrev Event := List Byte

/-- A holding of a die cache or host agent (R206). -/
structure Hold where
  sec   : Nat
  count : Nat
  own   : Bool
  dirty : Bool
  /-- The data came with the tokens: tokens of a holder without the owner token may come without (R199). -/
  known   : Bool
  /-- Pinned: its page has PLACE 1 (R128). -/
  pin     : Bool
  data  : SectorData
  deriving DecidableEq, Repr

/-- An outstanding request of a die cache or host agent (R201): the sector, GETX or GETS, its stage (0 first attempt,
1 broadcast, 2 persistent), when the stage began, and its two timeouts in ns (R329). -/
structure CacheReq where
  sec   : Nat
  x     : Bool
  stage : Nat
  at_   : Nat
  t1    : Nat
  t2    : Nat
  deriving DecidableEq, Repr

/-- A pending-buffer entry (R222): sector, bytes covered, data, order of creation, the order in which the oldest of its stores was
issued, and the strands and launches whose stores it holds. -/
structure PendEntry where
  sec     : Nat
  mask    : BitVec 16
  data    : SectorData
  seq     : Nat
  since   : Nat
  by_     : List Nat
  grid    : List Nat
  /-- The line is released once the entry is performed (R128, streaming). -/
  st      : Bool
  /-- The line is pinned once the entry is performed (R128). -/
  pin     : Bool
  /-- The partner die has read the entry (R223). -/
  seen    : Bool
  deriving DecidableEq, Repr

/-- What a holder remembers of a home's last activation (R212); `done` says that it is the requester and has sent its PDONE. -/
structure ActSeen where
  home   : Home
  epoch  : BitVec 8
  line   : Nat
  mask   : BitVec 8
  req    : Holder
  active : Bool
  done   : Bool
  deriving DecidableEq, Repr

/-- A holder's token state: the die cache of a die or a host agent (R206, R210, R212, R216). -/
structure Cache where
  holds   : List Hold
  serials : List (Nat × BitVec 8)
  reqs    : List CacheReq
  acts    : List ActSeen
  filter  : List (Nat × BitVec 8 × Nat)
  pred    : List (Nat × BitVec 13)
  /-- Homes at which a persistent request of the holder is set and not yet deactivated (R211). -/
  setAt   : List Home
  deriving DecidableEq, Repr

/-- A message in an unexpected ring (R267), with the index of its entry. -/
structure KStored where
  msg : KMsg
  idx : Nat
  deriving DecidableEq, Repr

/-- A Keyway context (R261, R265 to R267). Expected and sending numbers are by (package, die); a broken channel keeps the
subcode its sends fail with. -/
structure Kctx where
  w0       : Word
  ring     : Word
  plist    : Word
  bound    : Option Nat
  /-- Unexpected messages in acceptance order. -/
  unexp    : List KStored
  /-- Posted receives, oldest first, by name. -/
  posted   : List Nat
  expect   : List ((Nat × Nat) × BitVec 32)
  sendSeq  : List ((Nat × Nat) × BitVec 32)
  broken   : List ((Nat × Nat) × Nat)
  deriving DecidableEq, Repr

/-- A posted receive or a landing in progress (R268, R272), of a `kpull` where `pull`: the element cursor, the message taken once
matched, its payload received so far, parts of it that came ahead of their offset (`early`: offset, bytes, the sender's fault), the
transaction of its pull, the sender's fault, and a reserved ring entry while its crew is pre-empted (R307). An orphan's crew is gone:
record and Latch are discarded (R261). -/
structure Recv where
  id      : Nat
  crew    : Nat
  ctx     : CtxId
  core    : CoreId
  pull    : Bool
  desc    : Desc
  descOff : Word
  done    : Done
  pc      : Word
  cur     : CopyOp
  msg     : Option KMsg
  payload : List Byte
  early   : List (Nat × List Byte × Option (Byte × Byte))
  txn     : Option Nat
  fail    : Option (Byte × Byte)
  ring    : Option Nat
  orphan  : Bool
  deriving DecidableEq, Repr

/-- A send handed to the Keyway (R264, R265, R273): the element cursor of its source, the bytes read, its header once stamped, and
the pull it answers. `stage`: 0 reads its source or waits for its turn, 1 awaits the answer, 2 waits to be tried again, 3 is
accepted and awaits the pull, 4 answers it. `at_` is the TIME of the attempt or the retry, `delay` the next backoff. -/
structure KSend where
  send    : Send
  hdr     : Option KHdr
  payload : List Byte
  stage   : Nat
  at_     : Nat
  delay   : Nat
  cur     : CopyOp
  pull    : Option PullReq
  deriving DecidableEq, Repr

/-- A `kprobe` (`probe`) or `kcancel` that the Keyway has been handed: its operation, its crew, the context it names, and the status
record offset; a `kprobe` also has its match value and mask (R274). -/
structure KAsk where
  id    : Nat
  crew  : Nat
  ctx   : Nat
  off   : Nat
  probe : Option (Nat × Nat)
  deriving DecidableEq, Repr

/-- The Keyway of a die (R261 to R275). -/
structure Keyway where
  ctxs  : Vector Kctx 64
  /-- `kprobe` and `kcancel` whose matching events are still to come, in the order of their issue (R266, R274). -/
  asks  : List KAsk
  recvs : List Recv
  sends : List KSend
  deriving DecidableEq, Repr

/-- A COPY request in progress with the bytes moved so far, whether the next ones are on their way to their home, and the length of the
prefix it ends with once its extent is being revoked; or a SIGNAL that is held, with its operation and operand at the counter `dst`; or
the filling of a replica, the last of an import with the range and the leaves to be written then (R286, R288, R331, R336). -/
structure HostCopy where
  id    : Nat
  src   : Nat
  dst   : Nat
  len   : Nat
  pos   : Nat
  sent  : Bool
  stop  : Option Nat
  leaves : Option (Nat × Nat × List (Nat × Word))
  ext   : Option Nat
  tag   : BitVec 32
  queue : Nat
  sig   : Option (AOp × Word)
  deriving DecidableEq, Repr

/-- A file extent (R336). -/
structure Extent where
  id   : Nat
  r    : Bool
  w    : Bool
  base : Nat
  len  : Nat
  /-- Revocations that wait for the copies that name it: their tags, oldest first. -/
  revoking : List (BitVec 32)
  deriving DecidableEq, Repr

/-- An export (R331): handle, exporter, leaves as they stood, replicating. -/
structure Export where
  handle : Word
  die    : DieId
  leaves : List Word
  rep    : Bool
  deriving DecidableEq, Repr

/-- A response written to the host (R331): tag, status, value. -/
structure Response where
  tag    : BitVec 32
  status : Nat
  value  : Word
  deriving DecidableEq, Repr

/-- The TDISP states (R337). -/
inductive Tdisp where
  | configUnlocked | configLocked | run | error
  deriving DecidableEq, Repr

/-- A function's host side (R330, R333, R337). -/
structure HostFace where
  tdisp     : Tdisp
  responses : List Response
  queries   : List (BitVec 32 × List Byte)
  events    : List Event
  held      : List Event
  free      : Nat
  deriving DecidableEq, Repr

/-- A die's control block (R334) and mode words (R328, R329). -/
structure Ctl where
  root      : Nat
  trap      : Ring
  flt       : Ring
  dq        : Vector DevQueue 64
  pools     : Vector (Nat × Nat) 64
  keytab    : List (Nat × BitVec 32)
  mcgrp     : List (Nat × Word)
  partition : Byte
  brk       : Vector Brk 4
  clkmode   : Word
  clkNext   : Word
  cohmode   : Word
  /-- Strands whose call record waits for a free ring record (R83), and fault records that wait (R302). -/
  trapWait  : List Nat
  trapOut   : List (Nat × Nat)
  fltWait   : List FaultRec
  /-- Crews that end when the record of their engine operation has been written (R302). -/
  fltEnds   : List (Nat × FaultRec)
  /-- TRAPRESP writes that named no outstanding record (R334). -/
  ignored   : Nat
  deriving DecidableEq, Repr

/-- A `dlaunch` or `dlaunchw` whose record is on its way to its slot (R242): its operation, crew, queue and row number, and the
physical address of the slot. -/
structure PortAsk where
  op   : Nat
  crew : Nat
  q    : Nat
  j    : Nat
  pa   : Nat
  deriving DecidableEq, Repr

/-- A die's queue port (R315 to R324). -/
structure Port where
  queues   : Vector (List Entry) 64
  grids    : List Grid
  ends     : List Ending
  /-- The queue served last (R317). -/
  lastQ    : Nat
  /-- The budget of the window, in nJ (R321, R322). -/
  budget   : Nat
  /-- The queue whose head has the port reserved (R323). -/
  reserved : Option Nat
  /-- DEBUG word of launches to come, by queue (R331). -/
  debugQ   : List (Nat × Word)
  /-- DEBUG word of a queued launch, by its entry. -/
  debugT   : List (Nat × Word)
  /-- Device launches whose record is not yet written, oldest first. -/
  asks     : List PortAsk
  deriving DecidableEq, Repr

/-- A TLB invalidation in progress (R289): range, the order of pending entries when the TLBs dropped it, whether they must drop it
again once the table entries that the service OS has written have reached memory, and the host request that waits for it, with its
response value. -/
structure Inval where
  va  : Nat
  len : Nat
  seq : Nat
  again : Bool
  tag : Option (BitVec 32 × Word)
  deriving DecidableEq, Repr

/-- A compute die with the half of the die cache beneath it (R1, R3). -/
structure Die where
  present  : Bool
  enabled  : Bool
  ready    : Bool
  clock    : Nat
  /-- Clock in units of 50 MHz (R328). -/
  rate     : Nat
  ctl      : Ctl
  port     : Port
  cores    : Vector Core 20
  l2tlb    : List TlbEntry
  invals   : List Inval
  cache    : Cache
  pend     : List PendEntry
  key      : Keyway
  far      : List Far
  face     : HostFace
  copies   : List HostCopy
  extents  : List Extent
  keyEpoch : Nat
  corrected : Word
  /-- Homes whose acknowledgement a reset waits for (R218, R338). -/
  resetAcks : List Home
  deriving DecidableEq, Repr

/-- A Hasp table (R202, R211, R212): set entries with line and mask, the snapshot still to serve, the active entry, its
activation time, and the epoch. -/
structure Hasp where
  set_   : List (Nat × Nat × BitVec 8)
  snap   : List Nat
  active : Option (Nat × Nat × BitVec 8)
  since  : Nat
  epoch  : BitVec 8
  deriving DecidableEq, Repr

/-- A recovery (R215, R217): line, new serial, start, holders that answered with whether they held a token, sectors whose
owner data came back, and whether a loss check is due. -/
structure Recovery where
  line   : Nat
  serial : BitVec 8
  start  : Nat
  acks   : List (Holder × Bool)
  intact : BitVec 8
  served : Bool
  /-- The requester whose request was active when the recovery started (R217). -/
  active : Option Holder
  deriving DecidableEq, Repr

/-- An access that a home performs: ATOM, HLD or HST (R219, R220). -/
inductive HomeAcc where
  | atom (m : AtomMsg)
  | hld (m : HldMsg)
  | hst (m : HstMsg)
  deriving DecidableEq, Repr

/-- A home (R205, R206, R219): holdings that differ from all 16 with the owner token, serials that differ from 0, its Hasp
table, the sectors a recall gathers with the time of the recall, the far atomics and home accesses queued, and recoveries. -/
structure HomeState where
  holds    : List (Nat × Nat × Bool)
  serials  : List (Nat × BitVec 8)
  hasp     : Hasp
  recalls  : List (Nat × Nat)
  queue    : List (Nat × HomeAcc)
  recov    : List Recovery
  /-- A host agent as home: the sectors of host memory whose data it has obtained, and whether with ownership (R224). -/
  hostHeld : List (Nat × Bool)
  deriving DecidableEq, Repr

/-- A message of R209 on its way (`rep` is ATOMR 0, HLDR 1 or HSTR 2), or a Keyway message, answer or pull inside the package. -/
inductive Msg where
  | gets (m : ReqMsg)
  | getx (m : ReqMsg)
  | tok (m : TokMsg) (p : Bool)
  | preq (m : ReqMsg)
  | pact (m : ActMsg)
  | pdone (h : Home) (epoch : BitVec 8)
  | pdeact (h : Home) (epoch : BitVec 8)
  | recreate (line : Nat) (serial : BitVec 8)
  | recack (m : RecAck)
  | recallTokens (m : RecallMsg)
  | atom (m : AtomMsg)
  | hld (m : HldMsg)
  | hst (m : HstMsg)
  | rep (kind : Fin 3) (m : RepMsg)
  | key (m : KMsg)
  | keyRep (d : DieId) (send : Nat) (what : Nat)
  | pullReq (m : PullReq)
  | pullData (m : PullData)
  deriving DecidableEq, Repr

/-- A message in flight: where it goes and the TIME it was sent at. -/
structure Flight where
  dst  : Holder
  msg  : Msg
  sent : Nat
  deriving DecidableEq, Repr

/-- A back-invalidate snoop to the host not yet answered (R224): link, sector, BISnpInv or BISnpData, and what its answer serves:
the holder that asked, under an activation or not, or a RECREATE with its serial. -/
structure Snoop where
  link : LinkId
  sec  : Nat
  inv  : Bool
  dst  : Holder
  p    : Bool
  recr : Option (BitVec 8)
  deriving DecidableEq, Repr

/-- The states of a sector and of a CXL line (R208, R224), weakest first. -/
inductive LineState where
  | i | s | o | e | m
  deriving DecidableEq, Repr

/-- A host access waiting for tokens (R224): link, line of 64 bytes, ownership wanted, data to write, and for a host snoop whether
it invalidates. -/
structure HostAcc where
  link : LinkId
  line : Nat
  own  : Bool
  data : Option (BitVec 512)
  snp  : Option Bool
  deriving DecidableEq, Repr

/-- A memory packet that a port is serving (R221, R278): the request, the answers of its sectors so far by offset, and how many
are outstanding. -/
structure PortJob where
  port : PortId
  req  : Packet
  got  : List (Nat × List Byte)
  left : Nat
  deriving DecidableEq, Repr

/-- A scale-up port (R277, R341): membership entries that are not zero, drops, state. -/
structure PortState where
  memb : List (Nat × Word)
  drop : Word
  width : BitVec 2
  slow : Bool
  deriving DecidableEq, Repr

/-- The registers of a strand that a debugger may change (R314), those a fault handler changes before a replay among them (R111). -/
inductive DebugReg where
  | s (r : SReg)
  | p (r : PReg)
  | v (r : VReg) (lane : Nat)
  | mode
  | pc
  | sr (n : BitVec 6)
  deriving DecidableEq, Repr

/-- Who moves next (log 1). -/
inductive Turn where
  /-- A strand issues its next unit. -/
  | strand (uid : Nat)
  /-- A crew's sequencer context executes its next word. -/
  | seq (crew : Nat)
  /-- An event of the opcode table. -/
  | event (i : Instr)
  /-- TIME and the dies' clocks move on by so many nanoseconds. -/
  | advance (ns : Nat)
  /-- The ECC of a die corrects an error (R304). -/
  | corrected (d : DieId)
  /-- A parity error drops an L1 copy of a core (R304). -/
  | parityL1 (d : DieId) (c : CoreId) (sec : Nat)
  /-- A parity error drops the translations of an address from a core's TLB, or with no core from the die's (R304). -/
  | parityTlb (d : DieId) (c : Option CoreId) (va : Nat)
  /-- The matching event of the oldest `kprobe` or `kcancel` of a die falls (R266, R274). -/
  | keyway (d : DieId)
  /-- What the invalidations of a die wait for is looked at again (R289). -/
  | invalidated (d : DieId)
  /-- The debugger writes a register of a strand parked with a DEBUG fault (R314). -/
  | debugWrite (uid : Nat) (r : DebugReg) (v : Word)
  /-- A descriptor chain of a virtqueue: header and body as the host wrote them (R330, R331). -/
  | request (f : FuncId) (vq : Nat) (raw : List Byte)
  /-- The firmware store has been written whole (R340). -/
  | fwWritten
  /-- The service OS frees memory that it had taken, a replica's frames among it (R290, R334): physical address and length. -/
  | freed (pa len : Nat)
  deriving DecidableEq, Repr

/-- The whole machine: one package. -/
structure State where
  /-- The strand that issues, and its crew; `focused` says that they are taken out of the tables. -/
  focused  : Bool
  focus    : Strand
  crew     : Crew
  strands  : List Strand
  crews    : List Crew
  dies     : Vector Die 8
  homes    : List (Home × HomeState)
  agents   : Vector Cache 4
  snoops   : List Snoop
  hostAccs : List HostAcc
  /-- RdShared and RdOwn sent to the host and not answered: link, sector, ownership (R224). -/
  hostReads : List (LinkId × Nat × Bool)
  hostOut  : List (LinkId × Nat × SectorData)
  /-- CXL lines that the host may hold, in the state its link last presented them in (R224). -/
  hostLines : List ((LinkId × Nat) × LineState)
  net      : List Flight
  /-- Physical memory: device stacks and host memory, what differs from what an unlisted byte reads as (R297). -/
  mem      : List Host.Cell
  ports    : Vector PortState 64
  fabwin   : List (Nat × Word)
  outbox   : List (PortId × Packet)
  portJobs : List PortJob
  exports  : List Export
  mgmt     : HostFace
  booted   : Bool
  recovery : Bool
  liveDies : BitVec 8
  liveStacks : BitVec 12
  links    : BitVec 4
  cxl      : BitVec 4
  pkgId    : BitVec 16
  fwVersion : Word
  /-- The firmware store (R340): the image's length and its bytes that are not zero; none while an update has not been written whole. -/
  fwImage  : Option (Nat × List (Nat × Byte))
  /-- The update being written: its tag, and the address and length of its image. -/
  fwBusy   : Option (BitVec 32 × Nat × Nat)
  /-- Die-to-die and package-network links that bring-up marked failed (R341). -/
  badLinks : List Nat
  /-- The service OS's memory, carved out of device memory at bring-up: base and length (R334). -/
  carves   : List (Nat × Nat)
  /-- Its memory key has been changed so many times (R337). -/
  osEpoch  : Nat
  /-- Memory that the service OS has taken for tables, rings and replicas, or mapped for a die: base and length (log 25). -/
  inUse    : List (Nat × Nat)
  time     : Nat
  window   : Nat
  /-- TIMEs at which recoveries of the last 50 µs started (R216). -/
  recStarts : List Nat
  turns    : List Turn
  /-- Counters of the model's own: next name, next free value. -/
  fresh    : Nat
  free     : Nat
  deriving DecidableEq, Repr

/-- A strand that does not exist: every register at its launch value (R32), state DONE. -/
def Strand.blank : Strand :=
  { uid := 0, crew := 0, idx := 0, root := 0, parent := none, state := .done, park := none, pc := 0,
    s := Vector.replicate 64 0, p := Vector.replicate 8 0, live := 0, returned := 0, joins := 0, mode := 0,
    fflags := 0, lfault := 0, progress := 0, mcerr := 0, stklo := 0, stkKeep := 0, full := false, run := 0, began := 0,
    stalled := false, unitPc := 0, unitLane := 0xFF, route := none, qual := none, cur := .nop false, busy := [], remotes := [], deferred := [], mcast := none,
    fills := [], got := [], asked := [], homeReads := [], wants := [], near := none, checked := [], relSeq := none, hstOut := [],
    heldSt := [], acqCore := 0, acqBase := 0, baseCls := 0, cls := 0, passes := 0, joinSeq := 0, quarter := 0,
    ctx := .root, skipBrk := false, stepDue := none, faulted := none }

/-- A header of zeros. -/
def Header.blank : Header :=
  { coop := false, step := false, entry := 0, lanes := 0, vregs := 0, vprologue := 0, strands := 0, scratch := 0, slots := 0,
    tiles := 0, energy := 0, stack := 0, stream := 0, argBytes := 0 }

/-- A launch record of zeros. -/
def LaunchRec.blank : LaunchRec :=
  { header := 0, nx := 0, ny := 0, nz := 0, prio := 0, args := 0, counter := 0, extent := 0 }

/-- A stopped sequencer context with every q register 0 (R163). Before its first `mgo` its PC is that of word 0 (DESIGN CHOICE, log 5). -/
def Seq.stopped : Seq :=
  { state := .stopped, hinge := 0, pc := 0, start := 0, q := Vector.replicate 8 0, fcode := 0, fsub := 0, frec := none }

/-- A Hinge with every count 0 (R166). -/
def Hinge.zero : Hinge := { ac := Vector.replicate 16 0, wc := Vector.replicate 16 0, mc := 0, rc := 0 }

/-- A barrier in which nobody has arrived (R237). -/
def Barrier.fresh : Barrier := { phase := 0, arrived := 0, last := Vector.replicate 16 none }

/-- A crew that does not exist: everything at its value at admission (R132, R131, R160, R163, R166, R275). -/
def Crew.blank : Crew :=
  { uid := 0, die := 0, core := 0, slot := 0, num := 0, hdrAddr := 0, hdr := Header.blank, rec_ := LaunchRec.blank, queue := 0,
    tag := 0, banks := [], debug := 0, energy := 0, spad := [], kills := 0, firstOff := 0, firstPc := 0, slots := [], tiles := [],
    hasSeq := false, seq := Seq.stopped, hinges := Vector.replicate 16 Hinge.zero, bars := Vector.replicate 16 Barrier.fresh,
    garrived := 0, copies := [], streams := [], bin := { n := 0, counts := [], queue := [], held := [] }, stackLo := 0,
    stackLen := 0, ended := none, preempted := false, stopping := none, kept := [] }

/-- A core with empty L1 and TLB (DESIGN CHOICE, log 5) and no claim or tile operation (R162, R168). -/
def Core.reset : Core := { l1 := [], warm := [], tlb := [], claims := [], array := none, turn := 0 }

/-- A ring with base 0, head and tail 0 and 16 records (DESIGN CHOICE, log 5). -/
def Ring.reset : Ring := { base := 0, log := 4, head := 0, tail := 0 }

/-- A disabled device queue (R334: n = 0 disables; R241: H and T start at 0). -/
def DevQueue.reset : DevQueue := { base := 0, log := 0, headAt := 0, head := 0, tail := 0, filled := [] }

/-- The control block after reset (R328, R329, R334). -/
def Ctl.reset : Ctl :=
  { root := 0, trap := Ring.reset, flt := Ring.reset, dq := Vector.replicate 64 DevQueue.reset,
    pools := Vector.replicate 64 (0, 0), keytab := [], mcgrp := [], partition := 0xFF,
    brk := Vector.replicate 4 { addr := 0, mask := 2, kind := 0 }, clkmode := 0, clkNext := 0, cohmode := 0xF01E,
    trapWait := [], trapOut := [], fltWait := [], fltEnds := [], ignored := 0 }

/-- A queue port with empty queues (R315) and no budget yet (R322). -/
def Port.reset : Port :=
  { queues := Vector.replicate 64 [], grids := [], ends := [], lastQ := 63, budget := 0, reserved := none, debugQ := [], debugT := [],
    asks := [] }

/-- A token holder that holds nothing (R206). -/
def Cache.empty : Cache := { holds := [], serials := [], reqs := [], acts := [], filter := [], pred := [], setAt := [] }

/-- A Keyway context that is not configured (R261). -/
def Kctx.reset : Kctx :=
  { w0 := 0, ring := 0, plist := 0, bound := none, unexp := [], posted := [], expect := [], sendSeq := [], broken := [] }

/-- A function's host side: CONFIG_UNLOCKED (DESIGN CHOICE, log 5), nothing written yet. -/
def HostFace.reset (entries : Nat) : HostFace :=
  { tdisp := .configUnlocked, responses := [], queries := [], events := [], held := [], free := entries }

/-- A die after package reset: populated, not yet ready for requests (R341). CLOCK 0 is a DESIGN CHOICE (log 5). -/
def Die.reset : Die :=
  { present := true, enabled := true, ready := false, clock := 0, rate := 38, ctl := Ctl.reset, port := Port.reset,
    cores := Vector.replicate 20 Core.reset, l2tlb := [], invals := [], cache := Cache.empty, pend := [],
    key := { ctxs := Vector.replicate 64 Kctx.reset, asks := [], recvs := [], sends := [] },
    far := [], face := HostFace.reset Config.eventQueueEntries, copies := [], extents := [], keyEpoch := 0, corrected := 0, resetAcks := [] }

/-- A port that is down, with an empty membership table (R277, R341). -/
def PortState.reset : PortState := { memb := [], drop := 0, width := 0, slow := false }

/-- The machine right after package reset (R340, R341): a complete part (R3) before bring-up has run. Every value the manual
does not state is named in log 5. -/
def State.reset : State :=
  { focused := false, focus := Strand.blank, crew := Crew.blank, strands := [], crews := [],
    dies := Vector.replicate 8 Die.reset, homes := [], agents := Vector.replicate 4 Cache.empty, snoops := [], hostAccs := [], hostReads := [],
    hostOut := [], hostLines := [], net := [], mem := [], ports := Vector.replicate 64 PortState.reset, fabwin := [], outbox := [], portJobs := [], exports := [],
    mgmt := HostFace.reset Config.mgmtEventEntries, booted := false, recovery := false, liveDies := 0xFF, liveStacks := 0xFFF,
    links := 0, cxl := 0, pkgId := 0, fwVersion := 0, fwImage := some (0, []), fwBusy := none, badLinks := [], carves := [], osEpoch := 0, inUse := [], time := 0, window := 0, recStarts := [], turns := [],
    fresh := 1, free := 0 }

end Sys2Proof.Machine
end

