-- ==== Sys2Proof/Machine/Bits.lean ====
section
/-! DEFINITION. Helpers on plain data: sparse lists in canonical form, bytes and sectors, bit counting, sign extension, lane
lists. Everything here is structural recursion or arithmetic. -/

namespace Sys2Proof.Machine

open Sys2Proof

/-- The value listed at a key. -/
def look (k : Nat) {α : Type} : List (Nat × α) → Option α
  | [] => none
  | e :: t => if e.1 = k then some e.2 else look k t

/-- The value at a key of a list that leaves out `d`. -/
def lookD {α : Type} (d : α) (k : Nat) (l : List (Nat × α)) : α := (look k l).getD d

/-- Insert or replace, keeping keys rising. -/
def put {α : Type} (k : Nat) (v : α) : List (Nat × α) → List (Nat × α)
  | [] => [(k, v)]
  | e :: t => if k < e.1 then (k, v) :: e :: t else if e.1 = k then (k, v) :: t else e :: put k v t

/-- Remove a key. -/
def del {α : Type} (k : Nat) : List (Nat × α) → List (Nat × α)
  | [] => []
  | e :: t => if e.1 = k then del k t else e :: del k t

/-- Write `v` at `k` in a list that leaves out `d`: writing `d` removes the entry. -/
def setD {α : Type} [DecidableEq α] (d : α) (k : Nat) (v : α) (l : List (Nat × α)) : List (Nat × α) :=
  if v = d then del k l else put k v l

/-- The first key of a list lies above `k`. -/
def aboveHead {α : Type} (k : Nat) : List (Nat × α) → Bool
  | [] => true
  | e :: _ => k < e.1

/-- Canonical form: keys strictly rising, and no entry equal to what its key reads as when it is not listed. -/
def canonical {α : Type} [DecidableEq α] (blank : Nat → α) : List (Nat × α) → Bool
  | [] => true
  | e :: t => decide (e.2 ≠ blank e.1) && aboveHead e.1 t && canonical blank t

/-- The numbers below `n`, rising. -/
def below (n : Nat) : List Nat := List.range n

/-- Bit `i` of a word. -/
def bit (x : Word) (i : Nat) : Bool := x.getLsbD i

/-- The lanes of a mask among the first `n`, lowest first. -/
def lanesOf (n : Nat) (m : Word) : List Nat := (below n).filter (bit m)

/-- A word with the bits of a list set. -/
def maskOf (l : List Nat) : Word := l.foldl (fun m i => m ||| ((1 : Word) <<< i)) 0

/-- The mask of the lowest `n` bits. -/
def lowMask (n : Nat) : Word := BitVec.ofNat 64 (2 ^ n - 1)

/-- The number of set bits among the lowest `n`. -/
def popCount (n : Nat) (x : Nat) : Nat := ((below n).filter (fun i => x.testBit i)).length

/-- Leading zero bits of a `w`-bit number (R68, R96). -/
def leadZeros : Nat → Nat → Nat
  | 0, _ => 0
  | w + 1, x => if x.testBit w then 0 else leadZeros w x + 1

/-- Trailing zero bits of a `w`-bit number (R68, R96): `k` counts up. -/
def trailZeros : Nat → Nat → Nat → Nat
  | 0, _, _ => 0
  | w + 1, k, x => if x.testBit k then 0 else trailZeros w (k + 1) x + 1

/-- Bit reversal in `w` bits (R68, R96). -/
def revBits (w : Nat) (x : Nat) : Nat :=
  (below w).foldl (fun a i => if x.testBit i then a + 2 ^ (w - 1 - i) else a) 0

/-- `x` read as a signed `w`-bit number. -/
def sInt (w : Nat) (x : Nat) : Int :=
  let y := x % 2 ^ w
  if 2 ^ w ≤ 2 * y then (y : Int) - (2 ^ w : Nat) else (y : Int)

/-- The low `w` bits of an integer. -/
def wrap (w : Nat) (x : Int) : Nat := (x % (2 ^ w : Nat)).toNat

/-- Sign extension of a `w`-bit immediate to 64 bits (R49). -/
def sext {w : Nat} (x : BitVec w) : Word := x.signExtend 64

/-- Little-endian number of a byte list. -/
def leNat : List Byte → Nat
  | [] => 0
  | b :: t => b.toNat + 256 * leNat t

/-- `n` little-endian bytes of a number. -/
def leBytes : Nat → Nat → List Byte
  | 0, _ => []
  | n + 1, x => BitVec.ofNat 8 x :: leBytes n (x / 256)

/-- Bytes `off` to `off + n - 1` of a list as a little-endian number; missing bytes count 0. -/
def field (l : List Byte) (off n : Nat) : Nat := leNat ((l.drop off).take n)

/-- A list cut or filled with zero bytes to length `n`. -/
def padTo (n : Nat) (l : List Byte) : List Byte := (l ++ List.replicate (n - l.length) 0).take n

/-- Byte `k` of a sector (R205). -/
def sectorByte (d : SectorData) (k : Nat) : Byte := d.extractLsb' (8 * k) 8

/-- A sector from its byte function. -/
def sectorOf (f : Nat → Byte) : SectorData :=
  BitVec.ofNat 128 (leNat ((below 16).map f))

/-- The bytes of `new` named by `mask` over `old`. -/
def mergeSector (mask : BitVec 16) (new old : SectorData) : SectorData :=
  sectorOf (fun k => if mask.getLsbD k then sectorByte new k else sectorByte old k)

/-- Byte mask of `n` bytes at offset `off` of a sector. -/
def sectorMask (off n : Nat) : BitVec 16 := BitVec.ofNat 16 ((2 ^ n - 1) * 2 ^ off)

/-- A value of `n` bytes placed at offset `off` of a sector. -/
def sectorPlace (off n : Nat) (v : Word) : SectorData :=
  BitVec.ofNat 128 (v.toNat % 2 ^ (8 * n) * 2 ^ (8 * off))

/-- `n` bytes at offset `off` of a sector as a number. -/
def sectorTake (d : SectorData) (off n : Nat) : Word :=
  BitVec.ofNat 64 (d.toNat / 2 ^ (8 * off) % 2 ^ (8 * n))

/-- Replace the element of a list at an index. -/
def setAt {α : Type} (l : List α) (i : Nat) (v : α) : List α := l.set i v

/-- Insert or replace a keyed record in a list; a record is found by its key. -/
def upsert {α : Type} (key : α → Nat) (v : α) : List α → List α
  | [] => [v]
  | e :: t => if key e = key v then v :: t else if key v < key e then v :: e :: t else e :: upsert key v t

/-- Insert or replace by equality of any key. -/
def assocPut {κ α : Type} [DecidableEq κ] (k : κ) (v : α) : List (κ × α) → List (κ × α)
  | [] => [(k, v)]
  | e :: t => if e.1 = k then (k, v) :: t else e :: assocPut k v t

/-- Look up by equality of any key. -/
def assoc {κ α : Type} [DecidableEq κ] (k : κ) : List (κ × α) → Option α
  | [] => none
  | e :: t => if e.1 = k then some e.2 else assoc k t

/-- The entry of least key in a list. -/
def leastBy {α : Type} (key : α → Nat) : List α → Option α
  | [] => none
  | e :: t => match leastBy key t with
    | none => some e
    | some m => if key m < key e then some m else some e

end Sys2Proof.Machine
end

