-- ==== Sys2Proof/Machine/Float.lean ====
section
/-! DEFINITION. Number formats to the last bit (R92, R99 to R106, R142 to R156): formats as records, values as exact dyadic
numbers, one rounding function (R144), and the operations that compute exactly and round once. -/

namespace Sys2Proof.Machine

open Sys2Proof

/-- A binary floating-point format (R142). `ieee` says that the all-ones exponent is kept for infinities and NaNs; `nan` that
the format has a NaN at all; `maxM * 2 ^ maxQ` is the largest finite magnitude. -/
structure Fmt where
  bits : Nat
  mbits : Nat
  bias : Nat
  ieee : Bool
  nan  : Bool
  maxM : Nat
  maxQ : Int
  canon : Nat
  deriving DecidableEq, Repr

/-- F64 (R142). -/
def fmtF64 : Fmt := { bits := 64, mbits := 52, bias := 1023, ieee := true, nan := true, maxM := 2 ^ 53 - 1, maxQ := 971, canon := 0x7FF8000000000000 }
/-- F32 (R142). -/
def fmtF32 : Fmt := { bits := 32, mbits := 23, bias := 127, ieee := true, nan := true, maxM := 2 ^ 24 - 1, maxQ := 104, canon := 0x7FC00000 }
/-- F16 (R142). -/
def fmtF16 : Fmt := { bits := 16, mbits := 10, bias := 15, ieee := true, nan := true, maxM := 2 ^ 11 - 1, maxQ := 5, canon := 0x7E00 }
/-- BF16 (R142). -/
def fmtBF16 : Fmt := { bits := 16, mbits := 7, bias := 127, ieee := true, nan := true, maxM := 2 ^ 8 - 1, maxQ := 120, canon := 0x7FC0 }
/-- F8B, E5M2 (R142). -/
def fmtF8B : Fmt := { bits := 8, mbits := 2, bias := 15, ieee := true, nan := true, maxM := 7, maxQ := 13, canon := 0x7E }
/-- F8A, E4M3: no infinity, one NaN code of each sign (R142). -/
def fmtF8A : Fmt := { bits := 8, mbits := 3, bias := 7, ieee := false, nan := true, maxM := 14, maxQ := 5, canon := 0x7F }
/-- F4, E2M1: no infinity and no NaN (R142). -/
def fmtF4 : Fmt := { bits := 4, mbits := 1, bias := 1, ieee := false, nan := false, maxM := 3, maxQ := 1, canon := 0 }

end Sys2Proof.Machine

namespace Sys2Proof

open Sys2Proof.Machine

/-- The format of a floating-point TYPE (R142). -/
def Ty.fmt : Ty → Option Fmt
  | .f32 => some fmtF32
  | .f64 => some fmtF64
  | .f16 => some fmtF16
  | .bf16 => some fmtBF16
  | .f8a => some fmtF8A
  | .f8b => some fmtF8B
  | .f4 => some fmtF4
  | _ => none

end Sys2Proof

namespace Sys2Proof.Machine

open Sys2Proof

/-- What a pattern means: a NaN (signalling or quiet), an infinity, or the number `(-1)^neg * m * 2^e`. -/
inductive FVal where
  | nan (sig : Bool)
  | inf (neg : Bool)
  | num (neg : Bool) (m : Nat) (e : Int)
  deriving DecidableEq, Repr

/-- FFLAGS bits (R36): invalid, division by zero, overflow, underflow, inexact. -/
structure Flags where
  nv : Bool
  dz : Bool
  of : Bool
  uf : Bool
  nx : Bool
  deriving DecidableEq, Repr

/-- No flag. -/
def Flags.none : Flags := { nv := false, dz := false, of := false, uf := false, nx := false }
/-- Invalid alone. -/
def Flags.invalid : Flags := { Flags.none with nv := true }
/-- Either's flags. -/
def Flags.or (a b : Flags) : Flags :=
  { nv := a.nv || b.nv, dz := a.dz || b.dz, of := a.of || b.of, uf := a.uf || b.uf, nx := a.nx || b.nx }
/-- The flags as FFLAGS holds them (R36). -/
def Flags.word (f : Flags) : Word :=
  BitVec.ofNat 64 ((if f.nv then 1 else 0) + (if f.dz then 2 else 0) + (if f.of then 4 else 0) + (if f.uf then 8 else 0)
    + (if f.nx then 16 else 0))

/-- Number of significant bits. -/
def bitLen (n : Nat) : Nat := if n = 0 then 0 else Nat.log2 n + 1

/-- The value of a pattern; with FTZ a subnormal reads as the zero of its sign (R92, R142). -/
def Fmt.read (f : Fmt) (ftz : Bool) (x : Nat) : FVal :=
  let neg := x.testBit (f.bits - 1)
  let m := x % 2 ^ f.mbits
  let ew := f.bits - 1 - f.mbits
  let e := x / 2 ^ f.mbits % 2 ^ ew
  if f.ieee && e = 2 ^ ew - 1 then
    if m = 0 then .inf neg else .nan (!(m.testBit (f.mbits - 1)))
  else if !f.ieee && f.nan && e = 2 ^ ew - 1 && m = 2 ^ f.mbits - 1 then .nan false
  else if e = 0 then .num neg (if ftz then 0 else m) (1 - (f.bias : Int) - f.mbits)
  else .num neg (2 ^ f.mbits + m) ((e : Int) - f.bias - f.mbits)

/-- The sign bit of a format in place. -/
def Fmt.sgn (f : Fmt) (neg : Bool) : Nat := if neg then 2 ^ (f.bits - 1) else 0

/-- The largest finite magnitude's pattern. -/
def Fmt.maxPat (f : Fmt) : Nat := (f.maxQ + f.mbits + f.bias - 1).toNat * 2 ^ f.mbits + f.maxM

/-- An infinity, or what stands for one (R144 step 3). -/
def Fmt.infPat (f : Fmt) (neg : Bool) : Nat :=
  if f.ieee then (2 ^ (f.bits - 1 - f.mbits) - 1) * 2 ^ f.mbits + f.sgn neg
  else if f.nan then f.canon else f.maxPat + f.sgn neg

/-- The overflow result of R144 step 3. -/
def Fmt.overflow (f : Fmt) (rnd : Nat) (sat neg : Bool) : Nat :=
  let big := f.maxPat + f.sgn neg
  if sat then big
  else match rnd with
    | 0 => f.infPat neg
    | 1 => big
    | 2 => if neg then f.infPat neg else big
    | _ => if neg then big else f.infPat neg

/-- `m * 2^e` as a multiple of `2^q`, rounded by the mode; and whether bits were lost (R144 step 2). -/
def roundTo (rnd : Nat) (neg : Bool) (m : Nat) (e q : Int) : Nat × Bool :=
  if q ≤ e then (m * 2 ^ (e - q).toNat, false)
  else
    let sh := (q - e).toNat
    let n := m / 2 ^ sh
    let r := m % 2 ^ sh
    let up := match rnd with
      | 0 => 2 ^ sh < 2 * r || (2 * r == 2 ^ sh && n % 2 == 1)
      | 1 => false
      | 2 => neg && r != 0
      | _ => !neg && r != 0
    (if up then n + 1 else n, r != 0)

/-- round(type, x, RND, sat) of R144 for `x = (-1)^neg * m * 2^e`, with the flags of R92. -/
def Fmt.round (f : Fmt) (rnd : Nat) (sat ftz neg : Bool) (m : Nat) (e : Int) : Nat × Flags :=
  if m = 0 then (f.sgn neg, .none)
  else
    let emin : Int := 1 - f.bias
    let top := e + (bitLen m : Int) - 1
    let q := (if emin ≤ top then top else emin) - f.mbits
    let (n, nx) := roundTo rnd neg m e q
    if f.maxQ < q || (q = f.maxQ && f.maxM < n) then
      (f.overflow rnd sat neg, { Flags.none with of := true, nx := true })
    else if ftz && n < 2 ^ f.mbits then
      (f.sgn neg, { Flags.none with uf := true, nx := true })
    else
      let (nu, _) := roundTo rnd neg m e (top - f.mbits)
      let tiny := top < emin && !(top = emin - 1 && nu = 2 ^ (f.mbits + 1))
      ((q + f.mbits + f.bias - 1).toNat * 2 ^ f.mbits + n + f.sgn neg, { Flags.none with uf := tiny && nx, nx := nx })

/-- The rounding context of an instruction: MODE.RND and MODE.FTZ (R92). -/
structure Rnd where
  rnd : Nat
  ftz : Bool
  deriving DecidableEq, Repr

/-- A NaN operand raises invalid when it is signalling (R92). -/
def FVal.sigNan : FVal → Bool
  | .nan sig => sig
  | _ => false

/-- The value is a NaN. -/
def FVal.isNan : FVal → Bool
  | .nan _ => true
  | _ => false

/-- A signed integer times `2^e` from sign and magnitude. -/
def signed (neg : Bool) (m : Nat) : Int := if neg then -(m : Int) else (m : Int)

/-- The exact sum of two dyadic numbers: sign of a nonzero sum, magnitude and exponent. -/
def dyAdd (n1 : Bool) (m1 : Nat) (e1 : Int) (n2 : Bool) (m2 : Nat) (e2 : Int) : Int × Int :=
  let e := if e1 ≤ e2 then e1 else e2
  (signed n1 (m1 * 2 ^ (e1 - e).toNat) + signed n2 (m2 * 2 ^ (e2 - e).toNat), e)

/-- The canonical NaN with the invalid flag where one of the operands was signalling (R92). -/
def Fmt.nanOf (f : Fmt) (nv : Bool) : Nat × Flags := (f.canon, if nv then .invalid else .none)

/-- The sum of two dyadic numbers rounded once, with the zero rule of R92. -/
def Fmt.sumRound (f : Fmt) (c : Rnd) (n1 : Bool) (m1 : Nat) (e1 : Int) (n2 : Bool) (m2 : Nat) (e2 : Int) : Nat × Flags :=
  let (i, e) := dyAdd n1 m1 e1 n2 m2 e2
  if i = 0 then
    let neg := if m1 = 0 && m2 = 0 && n1 == n2 then n1 else c.rnd == 2
    (f.sgn neg, .none)
  else f.round c.rnd false c.ftz (i < 0) i.natAbs e

/-- a + b of two values (R99). -/
def Fmt.addV (f : Fmt) (c : Rnd) (a b : FVal) : Nat × Flags :=
  match a, b with
  | .nan x, b => f.nanOf (x || b.sigNan)
  | _, .nan y => f.nanOf y
  | .inf x, .inf y => if x == y then (f.infPat x, .none) else f.nanOf true
  | .inf x, .num .. => (f.infPat x, .none)
  | .num .., .inf y => (f.infPat y, .none)
  | .num n1 m1 e1, .num n2 m2 e2 => f.sumRound c n1 m1 e1 n2 m2 e2

/-- The value with its sign inverted. -/
def FVal.negate : FVal → FVal
  | .nan s => .nan s
  | .inf n => .inf (!n)
  | .num n m e => .num (!n) m e

/-- a × b + c with one rounding (R101); a NaN in c does not hide an invalid product. -/
def Fmt.fmaV (f : Fmt) (r : Rnd) (a b c : FVal) : Nat × Flags :=
  let badProd := match a, b with
    | .inf _, .num _ m _ => m == 0
    | .num _ m _, .inf _ => m == 0
    | _, _ => false
  if badProd then f.nanOf true
  else if a.isNan || b.isNan || c.isNan then f.nanOf (a.sigNan || b.sigNan || c.sigNan)
  else
    let sgn := fun v => match v with
      | FVal.inf n => n
      | FVal.num n _ _ => n
      | FVal.nan _ => false
    let ps := sgn a != sgn b
    match a, b, c with
    | .num _ m1 e1, .num _ m2 e2, .num n3 m3 e3 => f.sumRound r ps (m1 * m2) (e1 + e2) n3 m3 e3
    | .num .., .num .., .inf n3 => (f.infPat n3, .none)
    | _, _, .inf n3 => if ps == n3 then (f.infPat n3, .none) else f.nanOf true
    | _, _, _ => (f.infPat ps, .none)

/-- a × b (R99). -/
def Fmt.mulV (f : Fmt) (c : Rnd) (a b : FVal) : Nat × Flags :=
  match a, b with
  | .nan x, b => f.nanOf (x || b.sigNan)
  | _, .nan y => f.nanOf y
  | .inf x, .inf y => (f.infPat (x != y), .none)
  | .inf x, .num y m _ => if m = 0 then f.nanOf true else (f.infPat (x != y), .none)
  | .num x m _, .inf y => if m = 0 then f.nanOf true else (f.infPat (x != y), .none)
  | .num n1 m1 e1, .num n2 m2 e2 => f.round c.rnd false c.ftz (n1 != n2) (m1 * m2) (e1 + e2)

/-- a ÷ b, correctly rounded: the quotient is taken with a sticky bit below enough exact bits (R99). -/
def Fmt.divV (f : Fmt) (c : Rnd) (a b : FVal) : Nat × Flags :=
  match a, b with
  | .nan x, b => f.nanOf (x || b.sigNan)
  | _, .nan y => f.nanOf y
  | .inf _, .inf _ => f.nanOf true
  | .inf x, .num y _ _ => (f.infPat (x != y), .none)
  | .num x _ _, .inf y => (f.sgn (x != y), .none)
  | .num n1 m1 e1, .num n2 m2 e2 =>
    if m2 = 0 then
      if m1 = 0 then f.nanOf true else (f.infPat (n1 != n2), { Flags.none with dz := true })
    else
      let k := f.mbits + 4 + bitLen m2
      let q := m1 * 2 ^ k / m2
      let st := if m1 * 2 ^ k % m2 = 0 then 0 else 1
      f.round c.rnd false c.ftz (n1 != n2) (2 * q + st) (e1 - e2 - k - 1)

/-- Integer square root of `m` below `2^k`, bit by bit from above. -/
def isqrt (m : Nat) : Nat → Nat → Nat
  | 0, r => r
  | k + 1, r => isqrt m k (if (r + 2 ^ k) * (r + 2 ^ k) ≤ m then r + 2 ^ k else r)

/-- √a, correctly rounded (R99). -/
def Fmt.sqrtV (f : Fmt) (c : Rnd) (a : FVal) : Nat × Flags :=
  match a with
  | .nan x => f.nanOf x
  | .inf n => if n then f.nanOf true else (f.infPat false, .none)
  | .num n m e =>
    if m = 0 then (f.sgn n, .none)
    else if n then f.nanOf true
    else
      let k0 := 2 * (f.mbits + 4)
      let k := if (e - k0) % 2 = 0 then k0 else k0 + 1
      let v := m * 2 ^ k
      let r := isqrt v (bitLen v / 2 + 1) 0
      let st := if r * r = v then 0 else 1
      f.round c.rnd false c.ftz false (2 * r + st) ((e - k) / 2 - 1)

/-- The order of two numbers, −0 below +0 when `tieSign` (R99, R106). -/
def dyLt (tieSign : Bool) (n1 : Bool) (m1 : Nat) (e1 : Int) (n2 : Bool) (m2 : Nat) (e2 : Int) : Bool :=
  let d := (dyAdd n1 m1 e1 (!n2) m2 e2).1
  if d = 0 then tieSign && m1 == 0 && n1 && !n2 else d < 0

/-- a < b for values that are no NaN. -/
def FVal.lt (tieSign : Bool) (a b : FVal) : Bool :=
  match a, b with
  | .inf x, .inf y => x && !y
  | .inf x, .num .. => x
  | .num .., .inf y => !y
  | .num n1 m1 e1, .num n2 m2 e2 => dyLt tieSign n1 m1 e1 n2 m2 e2
  | _, _ => false

/-- a = b for values that are no NaN, −0 equal to +0 (R106). -/
def FVal.eq (a b : FVal) : Bool := !a.isNan && !b.isNan && !(FVal.lt false a b) && !(FVal.lt false b a)

/-- The pattern of an operand as an operation that only selects writes it: a subnormal under FTZ is the zero of its sign (R99). -/
def Fmt.select (f : Fmt) (ftz : Bool) (x : Nat) : Nat :=
  match f.read ftz x with
  | .num n 0 _ => f.sgn n
  | _ => x

/-- minimumNumber and maximumNumber (R99). -/
def Fmt.minmax (f : Fmt) (ftz isMax : Bool) (x y : Nat) : Nat × Flags :=
  let a := f.read ftz x
  let b := f.read ftz y
  let fl := if a.sigNan || b.sigNan then Flags.invalid else .none
  if a.isNan && b.isNan then (f.canon, fl)
  else if a.isNan then (f.select ftz y, fl)
  else if b.isNan then (f.select ftz x, fl)
  else
    let less := FVal.lt true a b
    (f.select ftz (if less == isMax then y else x), fl)

/-- a rounded to an integral value, without inexact (R99). -/
def Fmt.rintV (f : Fmt) (c : Rnd) (a : FVal) : Nat × Flags :=
  match a with
  | .nan x => f.nanOf x
  | .inf n => (f.infPat n, .none)
  | .num n m e =>
    let (i, _) := roundTo c.rnd n m e 0
    ((f.round c.rnd false false n i 0).1, .none)

/-- The class mask (R99). -/
def Fmt.classOf (f : Fmt) (x : Nat) : Nat :=
  match f.read false x with
  | .nan sig => if sig then 2 ^ 8 else 2 ^ 9
  | .inf n => if n then 2 ^ 0 else 2 ^ 7
  | .num n m _ =>
    if m = 0 then (if n then 2 ^ 3 else 2 ^ 4)
    else if m < 2 ^ f.mbits then (if n then 2 ^ 2 else 2 ^ 5)
    else (if n then 2 ^ 1 else 2 ^ 6)

/-- vfcmp (R106): the truth of a condition and its flags. -/
def fcompare (c : FCmp) (a b : FVal) : Bool × Flags :=
  let nan := a.isNan || b.isNan
  let sig := a.sigNan || b.sigNan
  let quiet := if sig then Flags.invalid else Flags.none
  let loud := if nan then Flags.invalid else Flags.none
  match c with
  | .eq => (a.eq b, quiet)
  | .ne => (!(a.eq b), quiet)
  | .lt => (!nan && FVal.lt false a b, loud)
  | .le => (!nan && !(FVal.lt false b a), loud)
  | .gt => (!nan && FVal.lt false b a, loud)
  | .ge => (!nan && !(FVal.lt false a b), loud)
  | .un => (nan, quiet)
  | .ord => (!nan, quiet)

/-! ### Conversion (R102) -/

end Sys2Proof.Machine

namespace Sys2Proof

open Sys2Proof.Machine

/-- Width in bits of a TYPE (R49). F4 counts one byte in memory and four bits as a pattern: a bit move takes the whole byte (DESIGN
CHOICE, log 105). -/
def Ty.width : Ty → Nat
  | .i32 => 32
  | .n32 => 32
  | .i64 => 64
  | .n64 => 64
  | .i16 => 16
  | .n16 => 16
  | .i8 => 8
  | .n8 => 8
  | .f32 => 32
  | .f64 => 64
  | .f16 => 16
  | .bf16 => 16
  | .f8a => 8
  | .f8b => 8
  | .f4 => 8
  | .l32 => 32

/-- Element size in bytes (R49). -/
def Ty.esize (t : Ty) : Nat := t.width / 8

/-- The TYPE is a signed integer type. -/
def Ty.isI : Ty → Bool
  | .i32 => true
  | .i64 => true
  | .i16 => true
  | .i8 => true
  | _ => false

/-- The TYPE is an integer type. -/
def Ty.isInt : Ty → Bool
  | .i32 => true
  | .n32 => true
  | .i64 => true
  | .n64 => true
  | .i16 => true
  | .n16 => true
  | .i8 => true
  | .n8 => true
  | _ => false

/-- The TYPE is one of F32, F64, F16 and BF16 (R90). -/
def Ty.isFp : Ty → Bool
  | .f32 => true
  | .f64 => true
  | .f16 => true
  | .bf16 => true
  | _ => false

/-- A 64-bit TYPE uses register pairs (R17). -/
def Ty.pair (t : Ty) : Bool := t.width == 64

/-- An integer pattern by its type's signedness (R93, R141). -/
def Ty.intVal (t : Ty) (x : Nat) : Int := if t.isI then sInt t.width x else ((x % 2 ^ t.width : Nat) : Int)

/-- The least value of an integer type (R141). -/
def Ty.lo (t : Ty) : Int := if t.isI then -((2 ^ (t.width - 1) : Nat) : Int) else 0
/-- The greatest value of an integer type (R141). -/
def Ty.hi (t : Ty) : Int := if t.isI then ((2 ^ (t.width - 1) : Nat) : Int) - 1 else ((2 ^ t.width : Nat) : Int) - 1

/-- Clamped to the range of an integer type (R93). -/
def Ty.clamp (t : Ty) (x : Int) : Int := if x < t.lo then t.lo else if t.hi < x then t.hi else x

/-- An exact result wrapped, or clamped under SAT, to the type's pattern (R93). -/
def Ty.narrow (t : Ty) (sat : Bool) (x : Int) : Nat := wrap t.width (if sat then t.clamp x else x)

end Sys2Proof

namespace Sys2Proof.Machine

open Sys2Proof

/-- vcvt of one element (R102): source type, destination type, RND, SAT, FTZ. -/
def convert (src dst : Ty) (rnd : Nat) (sat ftz : Bool) (x : Nat) : Nat × Flags :=
  match src.fmt, dst.fmt with
  | none, none => (dst.narrow sat (src.intVal x), .none)
  | none, some f => let v := src.intVal x
    f.round rnd sat ftz (v < 0) v.natAbs 0
  | some g, none => match g.read ftz x with
    | .nan _ => (0, .invalid)
    | .inf n => (wrap dst.width (if n then dst.lo else dst.hi), .invalid)
    | .num n m e =>
      let (i, nx) := roundTo rnd n m e 0
      let v := signed n i
      if v < dst.lo || dst.hi < v then (wrap dst.width (dst.clamp v), .invalid)
      else (wrap dst.width v, { Flags.none with nx := nx })
  | some g, some f => match g.read ftz x with
    | .nan sig => if f.nan then f.nanOf sig else (0, .invalid)
    | .inf n => if f.ieee then (f.infPat n, .none) else (f.overflow rnd sat n, .invalid)
    | .num n m e => f.round rnd sat ftz n m e

/-! ### The log domain (R103, R104, R153 to R156) -/

/-- Bits of log2 by repeated squaring in 128 fraction bits: `k` bits of log2 of `x * 2^-128`, 1 ≤ x < 2. -/
def logBits : Nat → Nat → Nat → Nat
  | 0, _, r => r
  | k + 1, x, r =>
    let y := x * x / 2 ^ 128
    if 2 ^ 129 ≤ y then logBits k (y / 2) (2 * r + 1) else logBits k y (2 * r)

/-- A[i] = RNE(2^22 * log2(1 + i/1024)) (R153). -/
def logTableA (i : Nat) : Nat :=
  if i = 1024 then 2 ^ 22
  else
    let f := logBits 60 ((1024 + i) * 2 ^ 118) 0
    f / 2 ^ 38 + (if 2 ^ 37 ≤ f % 2 ^ 38 then 1 else 0)

/-- 2^(1/2), 2^(1/4), …, 2^(1/1024) in 96 fraction bits. -/
def rootsOfTwo : List Nat :=
  [112045541949572279837463876454, 94218694570555024373110687280, 86398923866664962375130072334,
   82735892943544661968409507608, 80963033366431698391403892406, 80090900639232773493759855183,
   79658363602065864296602447411, 79442971854562650309779985388, 79335494482037593178543608468,
   79281810334857995344526032840]

/-- The product of the roots that the bits of `i` choose, highest first. -/
def powRoots (i : Nat) : List Nat → Nat → Nat → Nat
  | [], _, x => x
  | c :: t, k, x => powRoots i t (k - 1) (if i.testBit k then x * c / 2 ^ 96 else x)

/-- X[i] = RNE(2^23 * (2^(i/1024) - 1)) (R153). -/
def logTableX (i : Nat) : Nat :=
  if i = 1024 then 2 ^ 23
  else
    let f := powRoots i rootsOfTwo 9 (2 ^ 96) - 2 ^ 96
    f / 2 ^ 73 + (if 2 ^ 72 ≤ f % 2 ^ 73 then 1 else 0)

/-- An L32 value: NaN, infinity, zero, or a sign with the field Lf (R153). -/
inductive LVal where
  | nan
  | inf (neg : Bool)
  | zero (neg : Bool)
  | num (neg : Bool) (l : Int)
  deriving DecidableEq, Repr

/-- The value of an L32 word (R153). -/
def LVal.read (x : Nat) : LVal :=
  let neg := x.testBit 31
  let f := x % 2 ^ 31
  if f = 0x40000000 then .zero neg
  else if f = 0x3FFFFFFF then .inf neg
  else if f = 0x40000001 then .nan
  else .num neg (sInt 31 f)

/-- The word of an L32 value with a sign and a field (R153). -/
def lWord (neg : Bool) (field : Nat) : Nat := (if neg then 2 ^ 31 else 0) + field

/-- NaN with sign 0 (R104). -/
def lNan : Nat := 0x40000001
/-- Infinity of a sign. -/
def lInf (neg : Bool) : Nat := lWord neg 0x3FFFFFFF
/-- Zero of a sign. -/
def lZero (neg : Bool) : Nat := lWord neg 0x40000000

/-- A computed L with its range rules (R104); `nx` says that rounding lost bits. -/
def lResult (neg : Bool) (l : Int) (nx : Bool) : Nat × Flags :=
  if 0x3FFFFFFE < l then (lInf neg, { Flags.none with of := true, nx := true })
  else if l < -(0x3FFFFFFE : Int) then (lZero neg, { Flags.none with uf := true, nx := true })
  else (lWord neg (wrap 31 l), { Flags.none with nx := nx })

/-- A signed dyadic `v * 2^-k` rounded half to even to an integer; and whether bits were lost. -/
def rneShift (v : Int) (k : Nat) : Int × Bool :=
  let (n, nx) := roundTo 0 (v < 0) v.natAbs (-(k : Int)) 0
  (signed (v < 0) n, nx)

/-- vtolog (R103, R154, R156). -/
def vToLog (ftz : Bool) (x : Nat) : Nat × Flags :=
  match fmtF32.read ftz x with
  | .nan sig => (lNan, if sig then .invalid else .none)
  | .inf n => (lInf n, .none)
  | .num n m e =>
    if m = 0 then (lZero n, .none)
    else
      let top := (bitLen m : Int) - 1
      let g := m * 2 ^ (23 - top).toNat - 2 ^ 23
      let i := g / 2 ^ 13
      let t := g % 2 ^ 13
      let a := logTableA i
      let frac : Nat := a + ((logTableA (i + 1) - a) * t + 2 ^ 12) / 2 ^ 13
      (lWord n (wrap 31 ((e + top) * 2 ^ 22 + (frac : Int))), { Flags.none with nx := g != 0 })

/-- vfromlog (R103, R155, R156). -/
def vFromLog (ftz : Bool) (x : Nat) : Nat × Flags :=
  match LVal.read x with
  | .nan => (fmtF32.canon, .none)
  | .inf n => (fmtF32.infPat n, .none)
  | .zero n => (fmtF32.sgn n, .none)
  | .num n l =>
    let k := l / 2 ^ 22
    let h := (l % 2 ^ 22).toNat
    let i := h / 2 ^ 12
    let t := h % 2 ^ 12
    let a := logTableX i
    let frac : Nat := a + ((logTableX (i + 1) - a) * t + 2 ^ 11) / 2 ^ 12
    let (r, fl) := fmtF32.round 0 false ftz n (2 ^ 23 + frac) (k - 23)
    (r, { fl with nx := fl.nx || h != 0 })

/-- vlmul and vldiv (R103, R104), the rows of R104 in their order: a finite value divided by an infinity is an infinity by the row
"an operand is infinity (otherwise)" (DEDUCED, log 87). -/
def vlMulDiv (div : Bool) (x y : Nat) : Nat × Flags :=
  let neg := x.testBit 31 != y.testBit 31
  match LVal.read x, LVal.read y, div with
  | .nan, _, _ => (lNan, .none)
  | _, .nan, _ => (lNan, .none)
  | .zero _, .inf _, false => (lNan, .invalid)
  | .inf _, .zero _, false => (lNan, .invalid)
  | .zero _, .zero _, true => (lNan, .invalid)
  | .inf _, .inf _, true => (lNan, .invalid)
  | .num .., .zero _, true => (lInf neg, { Flags.none with dz := true })
  | .inf _, _, _ => (lInf neg, .none)
  | _, .inf _, _ => (lInf neg, .none)
  | .zero _, _, _ => (lZero neg, .none)
  | _, .zero _, _ => (lZero neg, .none)
  | .num _ a, .num _ b, d => lResult neg (if d then a - b else a + b) false

/-- vlsqrt (R103, R104). -/
def vlSqrt (x : Nat) : Nat × Flags :=
  match LVal.read x with
  | .nan => (lNan, .none)
  | .zero _ => (lZero false, .none)
  | .inf n => if n then (lNan, .invalid) else (lInf false, .none)
  | .num n l => if n then (lNan, .invalid) else
    let (h, nx) := rneShift l 1
    lResult false h nx

/-- vlpow by a signed Q8.8 factor (R103, R104). -/
def vlPow (x y : Nat) : Nat × Flags :=
  let f := sInt 16 y
  let whole := f % 256 == 0
  let neg := x.testBit 31 && whole && f / 256 % 2 == 1
  let bad := x.testBit 31 && !whole
  match LVal.read x with
  | .nan => (lNan, .none)
  | .inf _ => if bad then (lNan, .invalid) else (lInf neg, .none)
  | .zero _ => if bad then (lNan, .invalid) else (lZero neg, .none)
  | .num _ l => if bad then (lNan, .invalid) else
    let (h, nx) := rneShift (l * f) 8
    lResult neg h nx

/-- vexp2 (R103, R104): its own row comes before those of an infinite and a zero operand, and a zero operand, which that row does not name, has
the result of R103, L = 0 (DESIGN CHOICE, log 113). -/
def vExp2 (ftz : Bool) (x : Nat) : Nat × Flags :=
  match fmtF32.read ftz x with
  | .nan sig => (lNan, if sig then .invalid else .none)
  | .inf n => (if n then lZero false else lInf false, .none)
  | .num n m e =>
    let (i, nx) := roundTo 0 n m (e + 22) 0
    lResult false (signed n i) nx

/-- vlog2 (R103, R104). -/
def vLog2 (x : Nat) : Nat × Flags :=
  match LVal.read x with
  | .nan => (fmtF32.canon, .none)
  | .zero _ => (fmtF32.infPat true, { Flags.none with dz := true })
  | .inf n => if n then (fmtF32.canon, .invalid) else (fmtF32.infPat false, .none)
  | .num n l => if n then (fmtF32.canon, .invalid)
    else fmtF32.round 0 false false (l < 0) l.natAbs (-22)

end Sys2Proof.Machine
end

