-- ==== Sys2Proof/Machine/Memory.lean ====
section
/-! DEFINITION. Physical memory: its ranges and homes (R297, R298), what an unlisted byte reads as, and the value of a sector
as the tokens make it (R207): memory's own, or the owner's where it is dirty. The named accessors of the dies stand first. -/

namespace Sys2Proof.Machine

open Sys2Proof

/-- A die. -/
def State.die (s : State) (d : DieId) : Die := s.dies[d]

/-- Change a die. -/
def State.modDie (s : State) (d : DieId) (f : Die → Die) : State := { s with dies := s.dies.set d (f s.dies[d]) }

/-- Change a die's control block. -/
def State.modCtl (s : State) (d : DieId) (f : Ctl → Ctl) : State := s.modDie d (fun x => { x with ctl := f x.ctl })

/-- Change a die's queue port. -/
def State.modPort (s : State) (d : DieId) (f : Port → Port) : State := s.modDie d (fun x => { x with port := f x.port })

/-- Change a die's Keyway. -/
def State.modKey (s : State) (d : DieId) (f : Keyway → Keyway) : State := s.modDie d (fun x => { x with key := f x.key })

/-- Change a core of a die. -/
def State.modCore (s : State) (d : DieId) (c : CoreId) (f : Core → Core) : State :=
  s.modDie d (fun x => { x with cores := x.cores.set c (f x.cores[c]) })

/-- A core of a die. -/
def State.core (s : State) (d : DieId) (c : CoreId) : Core := (s.die d).cores[c]

/-- A fresh name, and the state that has used it. -/
def State.name (s : State) : Nat × State := (s.fresh, { s with fresh := s.fresh + 1 })

/-- The die on the same base die (R1). -/
def partner (d : DieId) : DieId := if d.val % 2 = 0 then Fin.ofNat 8 (d.val + 1) else Fin.ofNat 8 (d.val - 1)

/-- The live stacks of a base die in ascending S-number (R298). -/
def State.stacksOf (s : State) (b : Nat) : List Nat :=
  [0, 1, 2].filter (fun i => s.liveStacks.getLsbD (3 * b + i))

/-- An address in the device memory of a base die (R297). -/
def State.inDevice (s : State) (pa : Nat) : Bool :=
  pa / 2 ^ 38 < 4 && pa % 2 ^ 38 < (s.stacksOf (pa / 2 ^ 38)).length * 2 ^ 36

/-- An address in host memory (R297). -/
def inHost (pa : Nat) : Bool := 4 ≤ pa / 2 ^ 44 && pa / 2 ^ 44 < 8

/-- The addresses of R297. -/
def State.paOk (s : State) (pa : Nat) : Bool := s.inDevice pa || inHost pa

/-- The home of a physical address (R205, R297, R298). -/
def State.homeOf (s : State) (pa : Nat) : Home :=
  if inHost pa then .agent (Fin.ofNat 4 (pa / 2 ^ 44 - 4))
  else
    let b := pa / 2 ^ 38
    let live := s.stacksOf b
    let n := if live.length = 0 then 1 else live.length
    let g := pa % 2 ^ 38 / 4096
    let i := (g % n + popCount 8 (g / n % 256)) % n
    .stack (Fin.ofNat 4 b) (Fin.ofNat 3 (live.getD i 0))

/-- The byte of its stack that a device address names (R298). -/
def State.stackOffset (s : State) (pa : Nat) : Nat :=
  let live := s.stacksOf (pa / 2 ^ 38)
  let n := if live.length = 0 then 1 else live.length
  pa % 2 ^ 38 / 4096 / n * 4096 + pa % 4096

/-- A range of addresses touches the memory of the service OS, which neither the host nor a strand reaches (R334). -/
def State.carved (s : State) (pa len : Nat) : Bool := s.carves.any (fun c => pa < c.1 + c.2 && c.1 < pa + len)

/-- The membership table of a port has a valid entry with a key (R277, R334). -/
def PortState.member (p : PortState) (key : BitVec 32) : Bool := p.memb.any (fun e => bit e.2 63 && e.2.setWidth 32 == key)

/-- The die that owns a device address (R297). -/
def ownerDie (pa : Nat) : DieId := Fin.ofNat 8 (2 * (pa / 2 ^ 38) + pa % 2 ^ 38 / 2 ^ 30 % 2)

/-- What a byte that memory does not list reads as: 0 (DESIGN CHOICE, log 4), and in memory whose key was changed, a die's own or the
service OS's, a value the manual calls unpredictable (R337, R338, log 3). -/
def State.blank (s : State) (pa : Nat) : Byte :=
  let e := if inHost pa then 0 else if s.carved pa 1 then s.osEpoch else (s.die (ownerDie pa)).keyEpoch
  if e = 0 then 0 else Config.ciphertext e pa

/-- A byte of memory itself, whatever the caches hold. -/
def State.memByte (s : State) (pa : Nat) : Byte := (look pa s.mem).getD (s.blank pa)

/-- Write a byte of memory itself. -/
def State.setMemByte (s : State) (pa : Nat) (v : Byte) : State :=
  { s with mem := if v = s.blank pa then del pa s.mem else put pa v s.mem }

/-- A sector of memory itself; a sector is named by its address divided by 16. -/
def State.memSector (s : State) (sec : Nat) : SectorData := sectorOf (fun k => s.memByte (16 * sec + k))

/-- Write the bytes of a sector that `mask` names. -/
def State.setMemSector (s : State) (sec : Nat) (mask : BitVec 16) (d : SectorData) : State :=
  (below 16).foldl (fun s k => if mask.getLsbD k then s.setMemByte (16 * sec + k) (sectorByte d k) else s) s

/-- Memory is in its canonical form. -/
def State.memWf (s : State) : Bool := canonical s.blank s.mem

/-- The token state of a die cache or host agent (R206). -/
def State.cache (s : State) : Holder → Cache
  | .die d => (s.die d).cache
  | .agent k => s.agents[k]
  | .home _ => Cache.empty

/-- Change the token state of a die cache or host agent. -/
def State.modCache (s : State) (h : Holder) (f : Cache → Cache) : State :=
  match h with
  | .die d => s.modDie d (fun x => { x with cache := f x.cache })
  | .agent k => { s with agents := s.agents.set k (f s.agents[k]) }
  | .home _ => s

/-- The holders of R205 but the homes. -/
def cacheHolders : List Holder :=
  (below 8).map (fun d => .die (Fin.ofNat 8 d)) ++ (below 4).map (fun k => .agent (Fin.ofNat 4 k))

/-- A holder's holding of a sector (R206). -/
def Cache.hold (c : Cache) (sec : Nat) : Option Hold := c.holds.find? (fun h => h.sec == sec)

/-- Tokens a holder has of a sector. -/
def Cache.count (c : Cache) (sec : Nat) : Nat := match c.hold sec with
  | some h => h.count
  | none => 0

/-- Put a holding; one without tokens is dropped (R206). -/
def Cache.setHold (c : Cache) (h : Hold) : Cache :=
  if h.count = 0 then { c with holds := c.holds.filter (fun x => x.sec != h.sec) }
  else { c with holds := upsert (fun x => x.sec) h c.holds }

/-- Drop a sector. -/
def Cache.drop (c : Cache) (sec : Nat) : Cache := { c with holds := c.holds.filter (fun x => x.sec != sec) }

/-- A home with its default holdings: every token of every sector (R207). -/
def HomeState.fresh : HomeState :=
  { holds := [], serials := [], hasp := { set_ := [], snap := [], active := none, since := 0, epoch := 0 }, recalls := [],
    queue := [], recov := [], hostHeld := [] }

/-- A home's state. -/
def State.home (s : State) (h : Home) : HomeState := (assoc h s.homes).getD HomeState.fresh

/-- Change a home's state. -/
def State.modHome (s : State) (h : Home) (f : HomeState → HomeState) : State :=
  { s with homes := assocPut h (f (s.home h)) s.homes }

/-- COUNT and OWN a home has of a sector (R206). -/
def HomeState.hold (h : HomeState) (sec : Nat) : Nat × Bool := (look sec h.holds).getD (16, true)

/-- Set COUNT and OWN of a sector at its home. -/
def HomeState.setHold (h : HomeState) (sec : Nat) (c : Nat × Bool) : HomeState :=
  { h with holds := if c = (16, true) then del sec h.holds else put sec c h.holds }

/-- The serial of a line at its home (R205). -/
def HomeState.serial (h : HomeState) (line : Nat) : BitVec 8 := (look line h.serials).getD 0

/-- The dirty data of a sector, if some die cache, host agent or message has the owner token with it (R207). -/
def State.dirtyData (s : State) (sec : Nat) : Option SectorData :=
  let held := cacheHolders.findSome? (fun h => match (s.cache h).hold sec with
    | some x => if x.own && x.dirty then some x.data else none
    | none => none)
  match held with
  | some d => some d
  | none => s.net.findSome? (fun f => match f.msg with
    | .tok m _ => if m.sec == sec && m.own && m.dirty then m.data else none
    | _ => none)

/-- The performed value of a sector: the dirty owner's data, else memory (R207). -/
def State.performed (s : State) (sec : Nat) : SectorData := (s.dirtyData sec).getD (s.memSector sec)

/-- Merge the pending entries of a list over a sector, in the order they were created (R223). -/
def mergePending (es : List PendEntry) (sec : Nat) (d : SectorData) : SectorData :=
  (es.filter (fun e => e.sec == sec)).foldl (fun d e => mergeSector e.mask e.data d) d

/-- The pending entries of a die and its partner in the order of creation (R223). -/
def State.pendings (s : State) (d : DieId) : List PendEntry :=
  let a := (s.die d).pend
  let b := (s.die (partner d)).pend
  (a ++ b).foldr (fun e l => upsert (fun x => x.seq) e l) []

/-- The value of a sector as die `d` and its engines see it: performed data under the pending entries of the base die (R223). -/
def State.seenBy (s : State) (d : DieId) (sec : Nat) : SectorData := mergePending (s.pendings d) sec (s.performed sec)

/-- One byte as die `d` sees it: the model's read of one byte. -/
def State.seenByte (s : State) (d : DieId) (pa : Nat) : Byte := sectorByte (s.seenBy d (pa / 16)) (pa % 16)

/-- `n` bytes as die `d` sees them, as a little-endian number. -/
def State.readSeen (s : State) (d : DieId) (pa n : Nat) : Nat := leNat ((below n).map (fun k => s.seenByte d (pa + k)))

end Sys2Proof.Machine
end

