-- ==== Sys2Proof/Machine/Homes.lean ====
section
/-! DEFINITION. Homes (R205 to R207): the tokens of any holder, messages on their way, the Hasp tables and their activations (R202,
R211, R212), and the accesses that a home performs (R219, R220), the writes of the device's own agents among them. -/

namespace Sys2Proof.Machine

open Sys2Proof

/-! ### Holdings of any holder -/

/-- The holdings of a sector: COUNT, OWN, DIRTY, and the data if it is there (R206). A home's data is memory's. -/
def State.holdOf (s : State) (h : Holder) (sec : Nat) : Hold :=
  match h with
  | .home m => let c := (s.home m).hold sec
    { sec := sec, count := c.1, own := c.2, dirty := false, known := true, pin := false, data := s.memSector sec }
  | _ => ((s.cache h).hold sec).getD { sec := sec, count := 0, own := false, dirty := false, known := false, pin := false, data := 0 }

/-- A cache keeps the serial of a line only while it holds a token of it (R206). -/
def Cache.trimSerial (c : Cache) (line : Nat) : Cache :=
  if c.holds.any (fun h => h.sec / 8 == line) then c else { c with serials := del line c.serials }

/-- Replace the holdings of a sector. -/
def State.putHold (s : State) (h : Holder) (x : Hold) : State :=
  match h with
  | .home m => s.modHome m (fun q => q.setHold x.sec (x.count, x.own))
  | _ => s.modCache h (fun c => (c.setHold x).trimSerial (x.sec / 8))

/-- The serial a holder sends with a token of a line (R199, R206). -/
def State.serialOf (s : State) (h : Holder) (sec : Nat) : BitVec 8 :=
  match h with
  | .home m => (s.home m).serial (sec / 8)
  | _ => (look (sec / 8) (s.cache h).serials).getD 0

/-- Put a message on its way. -/
def State.sendTo (s : State) (dst : Holder) (m : Msg) : State :=
  { s with net := s.net ++ [{ dst := dst, msg := m, sent := s.time }] }

/-- The home of a sector as a holder. -/
def State.homeHolder (s : State) (sec : Nat) : Holder := .home (s.homeOf (16 * sec))

/-- Hand `n` tokens of a sector on, with the owner token if `own`, and the data if `data`, under an activation if `p` (R199, R207,
R209). -/
def State.passTokens (s : State) (who dst : Holder) (sec n : Nat) (own data p : Bool) : State :=
  let h := s.holdOf who sec
  let m : TokMsg := { src := who, sec := sec, count := n, own := own, dirty := own && h.dirty, serial := s.serialOf who sec,
                      data := if data && h.known then some h.data else none }
  (s.putHold who { h with count := h.count - n, own := h.own && !own, dirty := h.dirty && !own }).sendTo dst (.tok m p)

/-- Hand every token of a sector on; the data goes with the owner token, to a home only when it is dirty (R199, R207). -/
def State.passAll (s : State) (who dst : Holder) (sec : Nat) (p : Bool) : State :=
  let h := s.holdOf who sec
  let toHome := match dst with
    | .home _ => true
    | _ => false
  if h.count = 0 then s else s.passTokens who dst sec h.count h.own (h.own && (h.dirty || !toHome)) p

/-! ### Atomic operations -/

/-- The new value of an atomic (R229): width, old value, operand (for cas the compare value), new value of cas. -/
def atomNew (op : AOp) (w m x y : Nat) : Nat :=
  match op with
  | .add => (m + x) % 2 ^ w
  | .fadd => (fmtF32.addV { rnd := 0, ftz := false } (fmtF32.read false m) (fmtF32.read false x)).1
  | .min => if sInt w m ≤ sInt w x then m else x
  | .max => if sInt w x ≤ sInt w m then m else x
  | .minu => if m ≤ x then m else x
  | .maxu => if x ≤ m then m else x
  | .and => m &&& x
  | .or => m ||| x
  | .xor => m ^^^ x
  | .xchg => x
  | .cas => if m = x then y else m
  | .inc => if x ≤ m then 0 else m + 1
  | .dec => if m = 0 || x < m then x else m - 1

/-- An atomic's arguments applied to a sector at an offset: the old value and the new sector (R219). -/
def atomSector (a : AtomArgs) (off : Nat) (v : SectorData) : Word × SectorData :=
  let n := if a.w64 then 8 else 4
  let m := (sectorTake v off n).toNat
  let r := atomNew a.op (8 * n) m (a.x.toNat % 2 ^ (8 * n)) (a.y.toNat % 2 ^ (8 * n))
  (BitVec.ofNat 64 m, mergeSector (sectorMask off n) (sectorPlace off n (BitVec.ofNat 64 r)) v)

/-! ### Homes -/

/-- The holders of a package that messages to every holder reach: the dies that are there and the host agents (R205, R209). -/
def State.sharers (s : State) : List Holder :=
  cacheHolders.filter (fun h => match h with
    | .die d => (s.die d).present
    | _ => true)

/-- Send a message to every holder. -/
def State.broadcast (s : State) (m : Msg) : State := s.sharers.foldl (fun s h => s.sendTo h m) s

/-- The home of a line. -/
def State.homeOfLine (s : State) (line : Nat) : Home := s.homeOf (128 * line)

/-- The sectors of a line that a mask names. -/
def secsOf (line : Nat) (mask : BitVec 8) : List Nat := ((below 8).filter (fun i => mask.getLsbD i)).map (fun i => 8 * line + i)

/-- The requester of a Hasp entry (R211). -/
def entryHolder (h : Home) (e : Nat) : Holder :=
  if e < 8 then .die (Fin.ofNat 8 e) else if e < 12 then .agent (Fin.ofNat 4 (e - 8)) else .home h

/-- The home recovers a line and step 4 is not complete (R215). -/
def HomeState.recovering (q : HomeState) (line : Nat) : Bool := q.recov.any (fun r => r.line == line && !r.served)

/-- A home has the data of a sector: a stack always, a host agent once the host has answered RdShared, or RdOwn where ownership
is needed (R224) (DEDUCED, log 62). -/
def State.homeReady (s : State) (h : Home) (sec : Nat) (own : Bool) : Bool :=
  match h with
  | .stack _ _ => true
  | .agent _ => match look sec (s.home h).hostHeld with
    | some o => o || !own
    | none => false

/-- Ask the host for a sector of its memory: RdShared, or RdOwn (R224). -/
def State.askHost (s : State) (h : Home) (sec : Nat) (own : Bool) : State :=
  match h with
  | .stack _ _ => s
  | .agent k =>
    if s.hostReads.any (fun x => x.1 == k && x.2.1 == sec && (x.2.2 || !own)) then s
    else { s with hostReads := s.hostReads ++ [(k, sec, own)] }

/-- A home sends every token of a sector to the requester of the active entry (R202). What a host agent sends to its own host
caches needs no answer of the host. -/
def State.homeGive (s : State) (h : Home) (dst : Holder) (sec : Nat) : State :=
  let x := (s.home h).hold sec
  let mine := match h, dst with
    | .agent k, .agent j => k == j
    | _, _ => false
  if x.1 = 0 || (s.home h).recovering (sec / 8) then s
  else if x.2 && !mine && !s.homeReady h sec true then s.askHost h sec true
  else s.passAll (.home h) dst sec true

/-- The home is a holder too: it obeys its own activation (R202). -/
def State.homeForward (s : State) (h : Home) : State :=
  match (s.home h).hasp.active with
  | none => s
  | some (e, line, mask) =>
    if e = 12 then s else (secsOf line mask).foldl (fun s sec => s.homeGive h (entryHolder h e) sec) s

/-- The home has a queued access in a set of sectors (R219, R220). -/
def HomeState.queued (q : HomeState) (secs : List Nat) : Bool := q.queue.any (fun x => secs.contains x.1)

/-- The active entry is deactivated, and every holder told (R202, R212). -/
def State.deactivate (s : State) (h : Home) : State :=
  let e := (s.home h).hasp.epoch
  (s.modHome h (fun q => { q with hasp := { q.hasp with active := none } })).broadcast (.pdeact h e)

/-- With no entry active, the next one of the snapshot is activated, lowest number first; an exhausted snapshot is taken anew
(R202, R212). The home's own entry has nothing to wait for once its accesses are done. -/
def State.haspGo (s : State) (h : Home) : Nat → State
  | 0 => s
  | n + 1 =>
    let t := (s.home h).hasp
    let left := t.snap.filter (fun e => (look e t.set_).isSome)
    let snap := if left.isEmpty then t.set_.map (fun x => x.1) else left
    if t.active.isSome then s
    else match snap with
      | [] => s
      | e :: rest => match look e t.set_ with
        | none => s
        | some (line, mask) =>
          let t := { t with set_ := del e t.set_, snap := rest, active := some (e, line, mask), since := s.time, epoch := t.epoch + 1 }
          let s := s.modHome h (fun q => { q with hasp := t })
          let a : ActMsg := { home := h, line := line, mask := mask, req := entryHolder h e, epoch := t.epoch }
          let s := (s.broadcast (.pact a)).homeForward h
          if e = 12 && !((s.home h).queued (secsOf line mask)) then (s.deactivate h).haspGo h n else s

/-- Entries that a Hasp table can have in turn. -/
def haspTurns : Nat := 14

/-- Set the entry of a requester (R202, R211). -/
def State.haspSet (s : State) (h : Home) (e line : Nat) (mask : BitVec 8) : State :=
  (s.modHome h (fun q => { q with hasp := { q.hasp with set_ := put e (line, mask) q.hasp.set_ } })).haspGo h haspTurns

/-- The home's own entry is deactivated once its accesses are done (R211, R219). -/
def State.homeDone (s : State) (h : Home) : State :=
  match (s.home h).hasp.active with
  | some (e, line, mask) =>
    if e = 12 && !((s.home h).queued (secsOf line mask)) then (s.deactivate h).haspGo h haspTurns else s
  | none => s

/-- The first byte that a mask names. -/
def maskLow (m : BitVec 16) : Nat := trailZeros 16 0 m.toNat

/-- The answer of a home to the requester of an access; an agent of the device that waits for none names transaction 0. -/
def State.homeReply (s : State) (to_ : Requester) (kind : Fin 3) (data : SectorData) (sec : Nat) : State :=
  let m : Msg := .rep kind { dst := to_, data := data, status := 0 }
  match to_ with
  | .die d txn => if txn = 0 then s else s.sendTo (.die d) m
  | .port _ _ => s.sendTo (s.homeHolder sec) m

/-- One access performed at its home (R219, R220): memory, then the answer. HLDR carries the bytes from the first one asked for. -/
def State.homePerform (s : State) (i : HomeAcc) : State :=
  match i with
  | .atom m =>
    let r := atomSector m.args m.off (s.memSector m.sec)
    (s.setMemSector m.sec 0xFFFF r.2).homeReply m.src 0 (r.1.setWidth 128) m.sec
  | .hld m => s.homeReply m.src 1 (s.memSector m.sec >>> (8 * maskLow m.mask)) m.sec
  | .hst m => (s.setMemSector m.sec m.mask m.data).homeReply m.src 2 0 m.sec

/-- A queued access changes memory. -/
def homeWrites : HomeAcc → Bool
  | .hld _ => false
  | _ => true

/-- The accesses queued for a sector: with all 16 tokens the home performs them in the order they reached it, else it recalls
the tokens (R219, R220). -/
def State.homeServe (s : State) (h : Home) (sec : Nat) : State :=
  let q := s.home h
  let mine := q.queue.filter (fun x => x.1 == sec)
  if mine.isEmpty || q.recovering (sec / 8) then s
  else if (q.hold sec).1 = 16 then
    let own := mine.any (fun x => homeWrites x.2)
    if !s.homeReady h sec own then s.askHost h sec own
    else
      let s := s.modHome h (fun q => { q with queue := q.queue.filter (fun x => x.1 != sec), recalls := del sec q.recalls })
      (mine.foldl (fun s x => s.homePerform x.2) s).homeDone h
  else if (look sec q.recalls).isSome then s
  else (s.modHome h (fun q => { q with recalls := put sec s.time q.recalls })).broadcast (.recallTokens { line := sec / 8, mask := BitVec.ofNat 8 (2 ^ (sec % 8)) })

/-! ### Writes of the device's own agents (R205): ring records, table entries, context images, bytes of a COPY. Each reaches the home of
its sector at once, which performs it like any other access once it holds every token (DESIGN CHOICE, log 7) -/

/-- An access reaches its home: it is queued behind what the home has for the sector, and performed once the home has every token. -/
def State.homeQueue (s : State) (sec : Nat) (i : HomeAcc) : State :=
  let h := s.homeOf (16 * sec)
  (s.modHome h (fun q => { q with queue := q.queue ++ [(sec, i)] })).homeServe h sec

/-- Bytes that an agent of die `d` stores into one sector, from a byte of it up: those that reach over its end are left out. `txn` names
the store where the agent waits for its completion. -/
def State.homePut (s : State) (d : DieId) (txn pa : Nat) (bs : List Byte) : State :=
  let o := pa % 16
  let n := Nat.min bs.length (16 - o)
  let data : SectorData := sectorOf (fun k => if o ≤ k then bs.getD (k - o) 0 else 0)
  s.homeQueue (pa / 16) (.hst { src := .die d txn, sec := pa / 16, mask := sectorMask o n, data := data })

/-- Bytes that an agent of die `d` stores from an address up, sector by sector. The first number bounds the sectors. -/
def State.homeStore (s : State) (d : DieId) (pa : Nat) (bs : List Byte) : Nat → State
  | 0 => s
  | n + 1 =>
    if bs.isEmpty then s
    else (s.homePut d 0 pa bs).homeStore d (pa + (16 - pa % 16)) (bs.drop (16 - pa % 16)) n

/-- Bytes that an agent of die `d` stores from an address up. -/
def State.devWrite (s : State) (d : DieId) (pa : Nat) (bs : List Byte) : State := s.homeStore d pa bs (bs.length / 16 + 2)

/-- The home of a sector has an access to it queued. -/
def State.homeBusy (s : State) (sec : Nat) : Bool := (s.home (s.homeOf (16 * sec))).queued [sec]

/-- The bytes of a sector as the next access to reach its home will find them. -/
def State.homeSector (s : State) (sec : Nat) : SectorData :=
  (s.home (s.homeOf (16 * sec))).queue.foldl (fun v x => if x.1 = sec then match x.2 with
    | .atom m => (atomSector m.args m.off v).2
    | .hld _ => v
    | .hst m => mergeSector m.mask m.data v
  else v) (s.performed sec)

end Sys2Proof.Machine
end

