-- ==== Sys2Proof/Machine/Ops.lean ====
section
/-! DEFINITION. The named operations on strands, crews and memory: reading and writing registers, the guard, ending a unit,
parking, taking a fault (the one shared operation of R299 to R302) and returning from one (R113, R314), statuses of
asynchronous operations (R182), Latches (R184), scratchpad bytes. A strand instruction acts on `State.focus`, the strand that
issues, and on `State.crew`, its crew. -/

namespace Sys2Proof.Machine

open Sys2Proof

/-! ### The issuing strand and its crew -/

/-- Replace the issuing strand. -/
def State.setFocus (s : State) (f : Strand) : State := { s with focus := f }

/-- Replace its crew. -/
def State.setCrew (s : State) (c : Crew) : State := { s with crew := c }

/-- LANES (R11). -/
def State.lanes (s : State) : Nat := s.crew.hdr.lanes

/-- Scalar register; s0 reads zero (R17). -/
def Strand.rdS (f : Strand) (r : SReg) : Word := if r = 0 then 0 else f.s[r.toNat]'(r.isLt)

/-- Write a scalar register; a write to s0 is discarded (R17). -/
def Strand.wrS (f : Strand) (r : SReg) (v : Word) : Strand :=
  if r = 0 then f else { f with s := f.s.set r.toNat v r.isLt }

/-- Scalar register of the issuing strand. -/
def State.rdS (s : State) (r : SReg) : Word := s.focus.rdS r

/-- Write a scalar register of the issuing strand. -/
def State.wrS (s : State) (r : SReg) (v : Word) : State := s.setFocus (s.focus.wrS r v)

/-- Predicate; p0 is the live mask (R15). -/
def Strand.rdP (f : Strand) (p : PReg) : Word := if p = 0 then f.live else f.p[p.toNat]'(p.isLt)

/-- Write a predicate whole. p0 is never a destination (R15). -/
def Strand.wrP (f : Strand) (p : PReg) (v : Word) : Strand :=
  if p = 0 then f else { f with p := f.p.set p.toNat v p.isLt }

/-- MODE.TYPE (R19). -/
def Strand.ty (f : Strand) : Ty := Ty.ofCode (f.mode.toNat % 16)
/-- MODE.RND (R19). -/
def Strand.rnd (f : Strand) : Nat := f.mode.toNat / 16 % 4
/-- MODE.SAT (R19). -/
def Strand.sat (f : Strand) : Bool := f.mode.getLsbD 6
/-- MODE.FTZ (R19). -/
def Strand.ftz (f : Strand) : Bool := f.mode.getLsbD 7
/-- MODE.GUARD (R19). -/
def Strand.guardP (f : Strand) : PReg := BitVec.ofNat 3 (f.mode.toNat / 256)
/-- MODE.GINV (R19). -/
def Strand.ginv (f : Strand) : Bool := f.mode.getLsbD 11
/-- MODE.RFILL (R19). -/
def Strand.rfill (f : Strand) : Bool := f.mode.getLsbD 12

/-- The guard (R15). -/
def Strand.guard (f : Strand) : Word :=
  (if f.ginv then ~~~(f.rdP f.guardP) else f.rdP f.guardP) &&& f.live

/-- The guarded lanes of the issuing strand, ascending (R15). -/
def State.guardLanes (s : State) : List Nat := lanesOf s.lanes s.focus.guard

/-- The lowest lane of the guard, all ones when it is empty (R301). -/
def State.guardLane (s : State) : Byte := match s.guardLanes with
  | i :: _ => BitVec.ofNat 8 i
  | [] => 0xFF

/-- The strand is a remnant (R21). -/
def Strand.isRemnant (f : Strand) : Bool := f.parent.isSome

/-- A bank of zeros (R32). -/
def zeroBank : Bank := Vector.replicate 128 (Vector.replicate 64 0)

/-- The vector registers of the issuing strand's family (R17, R21). -/
def Crew.bank (c : Crew) (idx : Nat) : Bank := lookD zeroBank idx c.banks

/-- One 32-bit lane of a vector register. -/
def Bank.lane (b : Bank) (v : Nat) (i : Nat) : W32 := (b[v]?.bind (fun r => r[i]?)).getD 0

/-- Write one 32-bit lane. -/
def Bank.setLane (b : Bank) (v : Nat) (i : Nat) (x : W32) : Bank :=
  match b[v]? with
  | some r => b.setIfInBounds v (r.setIfInBounds i x)
  | none => b

/-- One 32-bit lane of a vector register of the issuing strand. -/
def State.rdV (s : State) (v : Nat) (i : Nat) : W32 := (s.crew.bank s.focus.idx).lane v i

/-- Write one 32-bit lane of a vector register of the issuing strand. -/
def State.wrV (s : State) (v : Nat) (i : Nat) (x : W32) : State :=
  s.setCrew { s.crew with banks := put s.focus.idx ((s.crew.bank s.focus.idx).setLane v i x) s.crew.banks }

/-- A count of registers in whole granules (R29). -/
def granules (n : Nat) : Nat := (n + 7) / 8 * 8

/-- The prologue's allotment is the full one already (R29, R33). -/
def Header.fullAtOnce (h : Header) : Bool := granules h.vprologue == granules h.vregs

/-- The issuing strand's family holds the full register allotment (R33). -/
def State.holdsFull (s : State) : Bool := s.focus.full || s.crew.hdr.fullAtOnce

/-- The declared register count the strand reads as VREGS (R33). -/
def State.vregsNow (s : State) : Nat := if s.holdsFull then s.crew.hdr.vregs else s.crew.hdr.vprologue

/-! ### Putting strands and crews back, taking them out -/

/-- Put the issuing strand and its crew back into the tables. A sequencer context acts with a blank strand, and an engine without a crew with a blank crew: they go nowhere. -/
def State.putBack (s : State) : State :=
  if s.focused then
    { s with focused := false, focus := Strand.blank, crew := Crew.blank,
             strands := if s.focus.uid = 0 then s.strands else upsert (fun x => x.uid) s.focus s.strands,
             crews := if s.crew.uid = 0 then s.crews else upsert (fun x => x.uid) s.crew s.crews }
  else s

/-- Find a crew. -/
def State.crewOf (s : State) (c : Nat) : Option Crew := s.crews.find? (fun x => x.uid == c)

/-- Find a strand. -/
def State.strandOf (s : State) (u : Nat) : Option Strand := s.strands.find? (fun x => x.uid == u)

/-- Take a strand and its crew out as the issuing ones; `none` where there is no such strand (DESIGN CHOICE, log 2). -/
def State.take (s : State) (u : Nat) : Option State :=
  let s := s.putBack
  match s.strandOf u with
  | none => none
  | some f => match s.crewOf f.crew with
    | none => none
    | some c => some { s with focused := true, focus := f, crew := c,
                              strands := s.strands.filter (fun x => x.uid != u),
                              crews := s.crews.filter (fun x => x.uid != f.crew) }

/-- Take a crew out, with a blank strand as the issuing one; `none` where there is no such crew. -/
def State.takeCrew (s : State) (c : Nat) : Option State :=
  let s := s.putBack
  (s.crewOf c).map (fun k => { s with focused := true, focus := { Strand.blank with crew := c }, crew := k,
                                      crews := s.crews.filter (fun x => x.uid != c) })

/-- Change a crew that stands in the table or is the issuing strand's. -/
def State.modCrew (s : State) (c : Nat) (f : Crew → Crew) : State :=
  if s.focused && s.crew.uid == c then s.setCrew (f s.crew)
  else { s with crews := s.crews.map (fun x => if x.uid == c then f x else x) }

/-- Change every strand for which `p` holds, the issuing one included (DEDUCED, log 38). -/
def State.modStrands (s : State) (p : Strand → Bool) (f : Strand → Strand) : State :=
  let s := if s.focused && p s.focus then s.setFocus (f s.focus) else s
  { s with strands := s.strands.map (fun x => if p x then f x else x) }

/-- A strand joins the tail of its class as READY (R327). -/
def Strand.toReady (f : Strand) (seq : Nat) : Strand :=
  { f with state := .ready, park := none, joinSeq := seq }

/-- Make every strand READY for which `p` holds; those woken together join their classes in the order of their names
(R12, R327). -/
def State.wake (s : State) (p : Strand → Bool) : State :=
  let q := fun (x : Strand) => x.state == .parked && p x
  { (s.modStrands q (fun x => x.toReady s.fresh)) with fresh := s.fresh + 1 }

/-! ### Ending a unit -/

/-- What a unit in hand keeps beside it is cleared when it ends. -/
def Strand.clearUnit (f : Strand) : Strand :=
  { f with route := none, qual := none, fills := [], got := [], asked := [], homeReads := [], wants := [], near := none, checked := [],
           relSeq := none, stalled := false, skipBrk := false, stepDue := none }

/-- The number of prefix words of the unit in hand (R52). -/
def Strand.prefixWords (f : Strand) : Nat := (if f.route.isSome then 1 else 0) + (if f.qual.isSome then 1 else 0)

/-- Back to the first word of the unit: it will be executed again. -/
def Strand.rewind (f : Strand) : Strand :=
  { f with pc := f.unitPc, run := f.run - f.prefixWords, route := none, qual := none }

/-- The issuing strand continues at `t`. A run ends with E = 1 and, in a kernel with STEP, with every unit (R43, R46); the
strand then joins its class again (R326, R327). -/
def State.goto (s : State) (e : Bool) (t : Word) : State :=
  let f := { s.focus.clearUnit with pc := t, unitPc := t }
  if e || s.crew.hdr.step then
    { (s.setFocus { f with run := 0, state := .ready, park := none, joinSeq := s.fresh }) with fresh := s.fresh + 1 }
  else s.setFocus { f with run := s.focus.run + 1, state := .issuing, park := none }

/-- Park the issuing strand; its unit is executed again when it wakes (R13), so it completes nothing where it stands. -/
def State.parkRetry (s : State) (p : Park) : State :=
  s.setFocus { s.focus.rewind with state := .parked, park := some p, cur := .nop false }

/-- Park the issuing strand at a Hinge; its unit, which is remembered, is executed again when what it waits for has come (R166). -/
def State.parkHinge (s : State) (i : Instr) (h : BitVec 4) : State :=
  s.setFocus { s.focus.rewind with state := .parked, park := some (.hinge h), cur := i }

/-- Park the issuing strand in an instruction that the wake event completes (R13). -/
def State.parkIn (s : State) (i : Instr) (p : Park) : State :=
  s.setFocus { s.focus with state := .parked, park := some p, cur := i }

/-- The unit is not ready: the strand keeps its issue slot and executes it again (R326). -/
def State.notReady (s : State) : State := s.setFocus { s.focus.rewind with state := .issuing, stalled := true }

/-! ### Rings of the service OS and taking a fault -/

/-- The 32 bytes of a fault record (R301). -/
def FaultRec.bytes (r : FaultRec) : List Byte :=
  [r.code, r.sub, r.lane, r.strand,
   BitVec.ofNat 8 ((if r.defer then 1 else 0) + (if r.remn then 2 else 0) + (if r.eng then 4 else 0)), 0, 0, 0]
    ++ leBytes 8 r.pc.toNat ++ leBytes 8 r.addr.toNat ++ leBytes 8 (r.grid % 32 * 2 ^ 59 + r.crew % 2 ^ 40)

/-- A ring has no free record (R334). -/
def Ring.full (r : Ring) : Bool := (r.tail + 2 ^ 32 - r.head) % 2 ^ 32 ≥ 2 ^ r.log

/-- Where a ring's record `i` of `n` bytes stands (R334). -/
def Ring.at_ (r : Ring) (n i : Nat) : Nat := r.base + n * (i % 2 ^ r.log)

/-- Write a fault record at the tail of a die's ring (R302, R334). -/
def State.putFault (s : State) (d : DieId) (r : FaultRec) : State :=
  let g := (s.die d).ctl.flt
  (s.devWrite d (g.at_ 32 g.tail) r.bytes).modCtl d (fun c => { c with flt := { c.flt with tail := (c.flt.tail + 1) % 2 ^ 32 } })

/-- Write a fault record into a die's ring, or let it wait until a record frees (R302). -/
def State.reportFault (s : State) (d : DieId) (r : FaultRec) : State :=
  if (s.die d).ctl.flt.full || !(s.die d).ctl.fltWait.isEmpty then s.modCtl d (fun c => { c with fltWait := c.fltWait ++ [r] })
  else s.putFault d r

/-- The record of a fault of the issuing strand (R301). -/
def State.faultRec (s : State) (code sub : Nat) (lane : Byte) (pc addr : Word) (defer : Bool) : FaultRec :=
  { code := BitVec.ofNat 8 code, sub := BitVec.ofNat 8 sub, lane := lane, strand := BitVec.ofNat 8 s.focus.idx, eng := false,
    remn := s.focus.isRemnant, defer := defer, pc := pc, addr := addr, grid := s.crew.slot.val, crew := s.crew.num }

/-- TAKING A FAULT: the strand parks with reason fault at the unit's first word, every register as it stood, and its record
goes to the die's fault ring (R7, R52, R299, R302). -/
def State.takeFault (s : State) (r : FaultRec) : State :=
  let f := s.focus.rewind.clearUnit
  (s.setFocus { f with state := .parked, park := some .fault, faulted := some (r, true) }).reportFault s.crew.die r

/-- A precise fault of the unit in hand whose rule names no lane (R299, R301). -/
def State.raise (s : State) (code sub : Nat) (addr : Word) : State :=
  s.takeFault (s.faultRec code sub s.guardLane s.focus.unitPc addr false)

/-- A precise fault at a lane (R299, R301). -/
def State.raiseAt (s : State) (code sub lane : Nat) (addr : Word) : State :=
  s.takeFault (s.faultRec code sub (BitVec.ofNat 8 lane) s.focus.unitPc addr false)

/-- ILLEGAL with its subcode (R55). -/
def State.illegal (s : State) (sub : Nat) : State := s.raise 0x01 sub 0

/-- RETURNING FROM A FAULT: the strand begins a new run at the unit it faulted at (R113); after DEBUG subcode 1 or 2 at the
next unit, which is where its PC then stands, and after subcode 3 or 4 without a breakpoint check for one unit (R314). -/
def Strand.resumed (f : Strand) (seq : Nat) : Strand :=
  let dbg := match f.faulted with
    | some (r, _) => r.code == 0x0D && (r.sub == 3 || r.sub == 4)
    | none => false
  { f.toReady seq with run := 0, faulted := none, skipBrk := dbg }

/-- The unit in hand has completed and the strand continues at `t`; in a stepped kernel under a debugger DEBUG subcode 2
follows it, with PC the next unit and ADDRESS the completed one (R312). Its LANE is that of the guard as the unit issued (R301). -/
def State.complete (s : State) (e : Bool) (t : Word) : State :=
  let u := s.focus.unitPc
  let lane := s.focus.unitLane
  let s := s.goto e t
  if s.crew.hdr.step && bit s.crew.debug 0 then
    s.takeFault { s.faultRec 0x0D 2 lane t u false with pc := t }
  else s

/-- The unit in hand has completed; the strand continues at the next word. -/
def State.finish (s : State) (e : Bool) : State := s.complete e (s.focus.pc + 4)

/-! ### Scratchpad -/

/-- A scratchpad byte of the issuing crew; what is not listed reads zero (R132). -/
def Crew.spByte (c : Crew) (a : Nat) : Byte := lookD 0 a c.spad

/-- `n` scratchpad bytes as a number (R4). -/
def Crew.spRead (c : Crew) (a n : Nat) : Nat := leNat ((below n).map (fun k => c.spByte (a + k)))

/-- `n` scratchpad bytes as a list. -/
def Crew.spBytes (c : Crew) (a n : Nat) : List Byte := (below n).map (fun k => c.spByte (a + k))

/-- Write scratchpad bytes from an offset up. -/
def Crew.spWrite (c : Crew) (a : Nat) : List Byte → Crew
  | [] => c
  | b :: t => ({ c with spad := setD 0 a b c.spad } : Crew).spWrite (a + 1) t

/-- The swizzled scratchpad address of a valid element (R129). -/
def swizzle (k esize a : Nat) : Nat :=
  if k = 0 then a else a ^^^ (((a / 2 ^ (6 + k) % 32) * 4) &&& (if esize = 8 then 0x78 else 0x7C))

/-! ### Latches (R184) and statuses of asynchronous operations (R182) -/

/-- The Latch word after an update by `delta` modulo 2^31 (R184). -/
def latchUpdate (w : Word) (delta : Int) : Word :=
  let n := w.toNat
  let expected := n % 2 ^ 32
  let pend := wrap 31 (sInt 31 (n / 2 ^ 32 % 2 ^ 31) + delta)
  let ph := n / 2 ^ 63
  if pend = 0 then BitVec.ofNat 64 ((1 - ph) * 2 ^ 63 + expected % 2 ^ 31 * 2 ^ 32 + expected)
  else BitVec.ofNat 64 (ph * 2 ^ 63 + pend * 2 ^ 32 + expected)

/-- PHASE of a Latch word. -/
def latchPhase (w : Word) : Bool := bit w 63

/-- The Latch word of a crew. -/
def Crew.latch (c : Crew) (off : Nat) : Word := BitVec.ofNat 64 (c.spRead off 8)

/-- A store into scratchpad wakes every strand of the crew that waits on a Latch whose phase has changed (R186): the strand
completes its `ltwait`, so it continues at the next word in a new run. -/
def ltDone (c : Crew) (f : Strand) : Bool :=
  f.crew == c.uid && f.state == .parked && match f.park with
    | some (.wait (.latch off ph)) => latchPhase (c.latch off) != ph
    | _ => false

/-- A strand parked in an R44 instruction completes it: the next word opens a new run (R12, R44). In a stepped kernel the
completed unit owes its DEBUG event, raised before the strand does anything else (R312). -/
def Strand.completeParked (f : Strand) (seq : Nat) : Strand :=
  { (f.clearUnit.toReady seq) with pc := f.pc + 4, unitPc := f.pc + 4, run := 0, stepDue := some f.unitPc }

/-- Complete the `ltwait` of every strand of a crew that now sees another phase (R186). -/
def State.wakeLatches (s : State) (c : Nat) : State :=
  match (if s.focused && s.crew.uid == c then some s.crew else s.crewOf c) with
  | none => s
  | some k => { (s.modStrands (ltDone k) (fun x => x.completeParked s.fresh)) with fresh := s.fresh + 1 }

/-- Update a Latch of a crew and complete the waits it ends (R184, R186). -/
def State.updateLatch (s : State) (c off : Nat) (delta : Int) : State :=
  (s.modCrew c (fun k => k.spWrite off (leBytes 8 (latchUpdate (k.latch off) delta).toNat))).wakeLatches c

/-- A status arrives: every register still busy with the operation takes it, and strands that wait for one of them become
READY (R182). A register is busy in the strand that issued the operation and in the remnants that inherited the mark. -/
def Strand.takeStatus (f : Strand) (op : Nat) (v : Word) : Strand :=
  let mine := f.busy.filter (fun b => b.2 == op)
  let f := mine.foldl (fun f b => f.wrS (BitVec.ofNat 6 b.1) v) f
  { f with busy := f.busy.filter (fun b => b.2 != op) }

/-- The strand waits for a register that is no longer busy. -/
def Strand.tokenReady (f : Strand) : Bool := f.state == .parked && match f.park with
  | some (.wait (.token r)) => !(f.busy.any (fun b => b.1 == r.toNat))
  | _ => false

/-- Deliver a status (R182). -/
def State.deliver (s : State) (op : Nat) (v : Word) : State :=
  let s := s.modStrands (fun x => x.state != .done && x.busy.any (fun b => b.2 == op)) (fun x => x.takeStatus op v)
  s.wake (fun x => x.tokenReady)

/-- An asynchronous operation completes on its token register or Latch (R182, R184, R193, R269); the effects of a pre-empted
crew are kept until it resumes (R307). -/
def State.signal (s : State) (c : Nat) (d : Done) (v : Word) (delta : Int) : State :=
  let pre := !(s.focused && s.crew.uid == c) && match s.crewOf c with
    | some k => k.preempted
    | none => false
  match d with
  | .token op => if pre then s.modCrew c (fun k => { k with kept := k.kept ++ [.status op v] }) else s.deliver op v
  | .latch off => if pre then s.modCrew c (fun k => { k with kept := k.kept ++ [.latch off] }) else s.updateLatch c off delta

/-- The status word of R183 and R269: COUNT, SUB, CODE, RESULT. -/
def statusWord (count sub code result : Nat) : Word :=
  BitVec.ofNat 64 (count * 2 ^ 24 + sub % 256 * 2 ^ 16 + code % 256 * 2 ^ 8 + result % 256)

/-- Mark a register busy with a fresh operation; a token of s0 is never busy (R182). Answers the operation's name. -/
def State.markBusy (s : State) (r : SReg) : Nat × State :=
  let op := s.fresh
  let s := { s with fresh := s.fresh + 1 }
  (op, if r = 0 then s else s.setFocus { s.focus with busy := s.focus.busy ++ [(r.toNat, op)] })

end Sys2Proof.Machine
end

