-- ==== Sys2Proof/Machine/Flags.lean ====
section
/-! DEFINITION. The flags a vector instruction raises: FFLAGS takes the OR over the guarded lanes (R36, R92). -/

namespace Sys2Proof.Machine

open Sys2Proof

/-- OR flags into FFLAGS of the issuing strand (R92). -/
def State.orFlags (s : State) (f : Flags) : State :=
  s.setFocus { s.focus with fflags := s.focus.fflags ||| f.word }

/-- The OR of the flags of a list of lane results. -/
def flagsOf (l : List (Nat × Flags)) : Flags := l.foldl (fun a r => a.or r.2) Flags.none

end Sys2Proof.Machine
end

