-- ==== Sys2Proof/Machine/Operands.lean ====
section
/-! DEFINITION. Operand forms: vector elements and register pairs (R91), routes (R114 to R118), the checks of register numbers
(R18, R33), what makes an instruction wait for a register (R12, R182, R279), register allotments (R33, R34), and the QUAL
prefix (R51). -/

namespace Sys2Proof

/-- The order includes acquire. -/
def Order.hasAcq : Order → Bool
  | .acq => true
  | .ar => true
  | _ => false
/-- The order includes release. -/
def Order.hasRel : Order → Bool
  | .rel => true
  | .ar => true
  | _ => false

end Sys2Proof

namespace Sys2Proof.Machine

open Sys2Proof

/-! ### Vector elements -/

/-- An element: one lane, or the pair of lanes of a 64-bit type (R91). -/
def Bank.elem (b : Bank) (pair : Bool) (v i : Nat) : Nat :=
  (b.lane v i).toNat + (if pair then (b.lane (v + 1) i).toNat * 2 ^ 32 else 0)

/-- Write an element; a narrow one has its upper bits cleared by its value (R16, R91). -/
def Bank.setElem (b : Bank) (pair : Bool) (v i x : Nat) : Bank :=
  if pair then (b.setLane v i (BitVec.ofNat 32 x)).setLane (v + 1) i (BitVec.ofNat 32 (x / 2 ^ 32))
  else b.setLane v i (BitVec.ofNat 32 x)

/-- The bank of the issuing strand. -/
def State.bank (s : State) : Bank := s.crew.bank s.focus.idx

/-- Replace the bank of the issuing strand. -/
def State.setBank (s : State) (b : Bank) : State := s.setCrew { s.crew with banks := put s.focus.idx b s.crew.banks }

/-- An element of the issuing strand. -/
def State.elem (s : State) (pair : Bool) (v i : Nat) : Nat := s.bank.elem pair v i

/-- Write elements of one register, as (lane, value). -/
def State.putElems (s : State) (pair : Bool) (v : Nat) (l : List (Nat × Nat)) : State :=
  s.setBank (l.foldl (fun b x => b.setElem pair v x.1 x.2) s.bank)

/-! ### Routes -/

/-- The route code of field A (0), B (1) or C (2); 0 is no route (R114). -/
def State.routeCode (s : State) (fld : Nat) : Nat :=
  match s.focus.route with
  | none => 0
  | some r => (if fld = 0 then r.a else if fld = 1 then r.b else r.c).toNat

/-- The segment width W (R115). -/
def State.routeW (s : State) : Nat :=
  match s.focus.route with
  | some r => if r.seg then 16 else s.lanes
  | none => s.lanes

/-- The source lane of lane `i` (R115). -/
def routeSrc (w code idx i : Nat) : Nat :=
  let b := i / w * w
  let j := i % w
  match code / 64 with
  | 0 => b + (j + code % 64) % w
  | 1 => b + code % 64
  | 2 => b + (j ^^^ code % 64)
  | _ => b + idx % w

/-- What a routed operand delivers at lane `i` (R116). -/
def State.routed (s : State) (fld : Nat) (pair : Bool) (v i : Nat) : Nat :=
  let code := s.routeCode fld
  if code = 0 then s.elem pair v i
  else
    let j := routeSrc s.routeW code (s.bank.lane (code % 64) i).toNat i
    if bit s.focus.live j then s.elem pair v j
    else if s.focus.rfill then s.elem pair v i else 0

/-- The index registers that the route codes name (R117). -/
def State.routeRegs (s : State) : List (Nat × Bool) :=
  ([0, 1, 2].filter (fun f => s.routeCode f / 64 == 3)).map (fun f => (s.routeCode f % 64, false))

/-- The first bad route code: subcode and ADDRESS (R115, R118). -/
def State.routeBad (s : State) : Option (Nat × Nat) :=
  [0, 1, 2].findSome? (fun f =>
    let c := s.routeCode f
    if c / 64 = 1 && s.routeW ≤ c % 64 then some (1, 256 * f + c)
    else if c / 64 = 2 && s.routeW ≤ c % 64 then some (2, 256 * f + c)
    else none)

/-- The ROUTE check, first of the operation's own (R118). -/
def State.routeGate (s : State) (k : State → State) : State :=
  match s.routeBad with
  | some (sub, a) => s.raise 0x09 sub (BitVec.ofNat 64 a)
  | none => k s

/-! ### Register allotments (R29, R33, R34) -/

/-- Bytes of a quarter's register file that a strand of a kernel holds. -/
def Header.allot (h : Header) (full : Bool) : Nat := granules (if full then h.vregs else h.vprologue) * h.lanes * 4

/-- Every strand, the issuing one among them. -/
def State.allStrands (s : State) : List Strand := if s.focused && s.focus.uid != 0 then s.focus :: s.strands else s.strands

/-- Every crew, the issuing strand's among them. -/
def State.allCrews (s : State) : List Crew := if s.focused then s.crew :: s.crews else s.crews

/-- A crew by name, the issuing strand's among them. -/
def State.anyCrew (s : State) (u : Nat) : Option Crew := s.allCrews.find? (fun c => c.uid == u)

/-- Some strand of a root's family has not retired (R25). -/
def State.familyLive (s : State) (root : Nat) : Bool := s.allStrands.any (fun x => x.root == root && x.state != .done)

/-- Root strands of a core's quarter that still hold registers. -/
def State.holders (s : State) (d : DieId) (c : CoreId) (q : QuarterId) : List (Strand × Header) :=
  s.allStrands.filterMap (fun x =>
    if x.parent.isNone && x.quarter == q && s.familyLive x.root then
      match s.anyCrew x.crew with
      | some k => if k.die == d && k.core == c && !k.preempted then some (x, k.hdr) else none
      | none => none
    else none)

/-- Bytes of a quarter's 256 KiB slice in use (R11, R34). -/
def State.quarterUsed (s : State) (d : DieId) (c : CoreId) (q : QuarterId) : Nat :=
  ((s.holders d c q).map (fun x => x.2.allot x.1.full)).foldl (· + ·) 0

/-- Bytes of a quarter's register file slice (R34: 1,024 registers of 64 lanes). -/
def quarterBytes : Nat := 262144

/-- Root strands parked for registers on a quarter (R34). -/
def State.acquirers (s : State) (d : DieId) (c : CoreId) (q : QuarterId) : List (Strand × Header) :=
  (s.holders d c q).filter (fun x => x.1.state == .parked && x.1.park == some .acquire)

/-- Give a root strand's whole family the full allotment (R33). -/
def State.grantFull (s : State) (root : Nat) : State := s.modStrands (fun x => x.root == root) (fun x => { x with full := true })

/-- The issuing root strand can take its full allotment now (R33, R34): the rest fits, and no earlier `acquire` waits there. -/
def State.canGrant (s : State) : Bool :=
  let d := s.crew.die
  let c := s.crew.core
  let q := s.focus.quarter
  (s.acquirers d c q).isEmpty &&
    s.quarterUsed d c q + (s.crew.hdr.allot true - s.crew.hdr.allot false) ≤ quarterBytes

/-- `acquire`, then go on; or park until the quarter grants the registers (R33, R80). -/
def State.acquireThen (s : State) (k : State → State) : State :=
  if s.holdsFull then k (s.grantFull s.focus.root)
  else if s.canGrant then k (s.grantFull s.focus.root)
  else
    let t := s.parkRetry .acquire
    { (t.setFocus { t.focus with joinSeq := t.fresh }) with fresh := t.fresh + 1 }

/-- Serve the parked acquires of a quarter, oldest first, as far as registers are free (R34). -/
def State.serveAcquires (s : State) (d : DieId) (c : CoreId) (q : QuarterId) : Nat → State
  | 0 => s
  | n + 1 => match leastBy (fun (x : Strand × Header) => x.1.joinSeq) (s.acquirers d c q) with
    | none => s
    | some (x, h) =>
      if s.quarterUsed d c q + (h.allot true - h.allot false) ≤ quarterBytes then
        ((s.grantFull x.root).wake (fun y => y.uid == x.uid)).serveAcquires d c q n
      else s

/-! ### Register checks -/

/-- Vector register numbers of a unit, as (number, pair): REGBOUND subcode 1 for the first out of bounds (R8, R18, R91), then
EJECTED subcode 2 or the implicit `acquire` for one above the prologue (R33) (DEDUCED, log 30). -/
def State.boundGate (s : State) (vs : List (Nat × Bool)) (k : State → State) : State :=
  match vs.find? (fun v => s.crew.hdr.vregs ≤ v.1 + (if v.2 then 1 else 0)) with
  | some v => s.raise 0x02 1 (BitVec.ofNat 64 v.1)
  | none =>
    if !s.holdsFull && vs.any (fun v => s.crew.hdr.vprologue ≤ v.1 + (if v.2 then 1 else 0)) then
      if s.focus.isRemnant then s.raise 0x0B 2 0 else s.acquireThen k
    else k s

/-- A remote access delivers to one of these registers. -/
def Dest.hits (rs : List SReg) (vs : List (Nat × Bool)) : Dest → Bool
  | .none => false
  | .sreg r _ _ => rs.contains r
  | .vreg v size => vs.any (fun x => x.1 == v.toNat || (x.2 && x.1 + 1 == v.toNat)
      || (size == 8 && (x.1 == v.toNat + 1)))

/-- A FABKEY failure whose destination is read, or a parked unit (R12, R182, R279, R280); `none` where nothing is awaited. -/
def State.waits (s : State) (rs ws : List SReg) (vs : List (Nat × Bool)) : Option State :=
  match (rs ++ ws).find? (fun r => s.focus.busy.any (fun b => b.1 == r.toNat)) with
  | some r => some (s.parkRetry (.wait (.token r)))
  | none =>
    if s.focus.remotes.any (fun m => m.dest.hits rs vs) then some (s.parkRetry .remoteLoad)
    else match s.focus.deferred.find? (fun x => x.dest.hits rs vs) with
      | some x =>
        let t := s.setFocus { s.focus with deferred := s.focus.deferred.filter (fun y => !(y.dest.hits rs vs)) }
        some (t.takeFault (t.faultRec 0x08 x.sub.toNat (BitVec.ofNat 8 x.lane) x.pc x.va true))
      | none => none

/-- A scalar register that is overwritten no longer awaits a remote load (DEDUCED, log 37). -/
def State.overwrite (s : State) (ws : List SReg) : State :=
  if ws.isEmpty then s
  else
    let gone := fun (d : Dest) => d.hits ws []
    s.setFocus { s.focus with
      remotes := s.focus.remotes.map (fun m => if gone m.dest then { m with dest := .none } else m),
      deferred := s.focus.deferred.filter (fun x => !(gone x.dest)) }

/-- The waits of a unit that reads `rs` and the vector registers `vs`, and writes `ws`. -/
def State.gate (s : State) (rs ws : List SReg) (vs : List (Nat × Bool)) (k : State → State) : State :=
  match s.waits rs ws vs with
  | some t => t
  | none => k (s.overwrite ws)

/-- The checks a vector instruction makes at issue before its own (R56, R90, R91, R94): ILLEGAL 4 for an odd register of a
pair, ILLEGAL 5 for the TYPE, then the register numbers with those of the routes, the waits (a failed remote load among them), and the
route codes (DESIGN CHOICE, log 104): a register grant that `boundGate` makes stays where a route code then faults. Of an operand field and a
route's index register that are both out of bounds, REGBOUND names the operand (DESIGN CHOICE, log 123). `vs` are the operands as (number, pair). -/
def State.vgate (s : State) (typeOk : Bool) (vs : List (Nat × Bool)) (rs ws : List SReg) (k : State → State) : State :=
  if vs.any (fun v => v.2 && v.1 % 2 == 1) then s.illegal 4
  else if !typeOk then s.illegal 5
  else s.boundGate (vs ++ s.routeRegs) (fun s =>
    s.gate rs ws (vs ++ s.routeRegs) (fun s => s.routeGate k))

/-! ### The QUAL prefix (R51) -/

/-- Scope of the unit in hand; die without QUAL. -/
def State.scope (s : State) : Nat := match s.focus.qual with
  | some q => q.scope.toNat
  | none => 2
/-- Order of the unit in hand; rlx without QUAL. -/
def State.order (s : State) : Order := match s.focus.qual with
  | some q => q.order
  | none => .rlx
/-- The unit streams (`.st`). -/
def State.hintSt (s : State) : Bool := match s.focus.qual with
  | some q => q.cache.getLsbD 0
  | none => false
/-- The unit bypasses the L1 (`.nl1`). -/
def State.hintNl1 (s : State) : Bool := match s.focus.qual with
  | some q => q.cache.getLsbD 1
  | none => false

/-- The classes of R51. -/
inductive QClass where
  | load | store | spLoad | spStore | atomic | spAtomic | wait
  deriving DecidableEq, Repr

/-- The unit's QUAL has a scope, and an order and a hint its class accepts (R51); else ILLEGAL subcode 4 (DEDUCED, log 84). -/
def State.qualOk (s : State) (c : QClass) : Bool :=
  s.scope ≤ 5 && match c with
    | .load => !s.order.hasRel
    | .store => !s.order.hasAcq
    | .spLoad => !s.order.hasRel && !s.hintSt && !s.hintNl1
    | .spStore => !s.order.hasAcq && !s.hintSt && !s.hintNl1
    | .atomic => true
    | .spAtomic => !s.hintSt && !s.hintNl1
    | .wait => !s.order.hasRel

end Sys2Proof.Machine
end

