-- ==== Sys2Proof/Machine/Translate.lean ====
section
/-! DEFINITION. Translation: the table walk (R291, R292), leaf entries (R293), accessed and dirty bits (R294), contiguous groups
(R295), TLBs (R296), the checks of a global element access in their order (R126, R284, R287, R288, R280, R282), and data
breakpoints (R313). -/

namespace Sys2Proof.Machine

open Sys2Proof

/-- The kinds of access a translation is made for (R112). -/
inductive Acc where
  | load | store | atomic | fetch
  deriving DecidableEq, Repr

/-- Subcode of NOTPRESENT (R112). -/
def Acc.sub : Acc → Nat
  | .load => 1
  | .store => 2
  | .atomic => 3
  | .fetch => 4

/-! ### Leaf entries (R293) -/

/-- FRAME, physical address bits [47:16]. -/
def pteFrame (p : Word) : Nat := p.toNat / 2 ^ 16 % 2 ^ 32
/-- KEY (R277). -/
def pteKey (p : Word) : Nat := p.toNat / 2 ^ 48 % 256
/-- PLACE (R128). -/
def ptePlace (p : Word) : Nat := p.toNat / 64 % 4
/-- PEERDIE (R284). -/
def ptePeer (p : Word) : DieId := Fin.ofNat 8 (p.toNat / 2 ^ 12)
/-- An access to remote memory (R278). -/
def pteFab (p : Word) : Bool := bit p 15
/-- The package of a FAB entry. -/
def ptePkg (p : Word) : Nat := p.toNat / 2 ^ 32 % 2 ^ 16
/-- The multicast group of a FAB entry, if it names one (R282). -/
def pteGroup (p : Word) : Option Nat := if pteFab p && 0xFF00 ≤ ptePkg p then some (ptePkg p - 0xFF00) else none
/-- An entry with V = 1 and R = W = X = 0 is a table pointer at L0 and L1 (R291). -/
def ptePointer (p : Word) : Bool := bit p 0 && !bit p 1 && !bit p 2 && !bit p 3

/-- Offset bits that a leaf of a level maps, or a TLB's mapping of a contiguous group (level 3; R295, R296). -/
def levelBits (level : Nat) : Nat := if level = 1 then 29 else if level = 3 then 21 else 16

/-- The physical address, or for a FAB entry the window page and offset as if they were one (R278, R291). -/
def leafPa (l : TlbEntry) (va : Nat) : Nat := pteFrame l.pte * 2 ^ 16 + va % 2 ^ levelBits l.level

/-- A leaf is present (R292, R293). One that maps the service OS's memory is not, for no strand reaches that (R334; DESIGN CHOICE, log 99). -/
def State.leafOk (s : State) (l : TlbEntry) : Bool :=
  let p := l.pte
  let lo := pteFrame p * 2 ^ 16
  bit p 0 && (bit p 1 || bit p 2 || bit p 3) && !(bit p 2 && !bit p 1) && (l.level == 2 || pteFrame p % 2 ^ 13 == 0)
    && !(pteFab p && bit p 11) && (bit p 11 || (ptePeer p).val == 0)
    && (pteFab p || (s.paOk lo && s.paOk (lo + 2 ^ levelBits l.level - 1) && !s.carved lo (2 ^ levelBits l.level)))

/-! ### The walk -/

/-- The walk from a table root to the entry that would be the leaf: `rd` reads an entry, `ok` says that an address exists.
A pointer outside every range is not present (DEDUCED, log 9). -/
def walkWith (rd : Nat → Word) (ok : Nat → Bool) (root va : Nat) : Option TlbEntry :=
  if root = 0 then none
  else
    let e0 := rd (root + 8 * (va / 2 ^ 42 % 8192))
    let t1 := pteFrame e0 * 2 ^ 16
    if !ptePointer e0 || !ok t1 then none
    else
      let a1 := t1 + 8 * (va / 2 ^ 29 % 8192)
      let e1 := rd a1
      if !ptePointer e1 then some { level := 1, vpn := va / 2 ^ 29, pte := e1, at_ := a1 }
      else
        let t2 := pteFrame e1 * 2 ^ 16
        let a2 := t2 + 8 * (va / 2 ^ 16 % 8192)
        if !ok t2 then none else some { level := 2, vpn := va / 2 ^ 16, pte := rd a2, at_ := a2 }

/-- A naturally aligned number of `n` ≤ 8 bytes as a die sees it. -/
def State.readWord (s : State) (d : DieId) (pa n : Nat) : Word := sectorTake (s.seenBy d (pa / 16)) (pa % 16) n

/-- The walker of a die ORs bits into a table entry: an atomic at pkg scope, at the home of the entry (R205, R294). -/
def State.orEntry (s : State) (d : DieId) (at_ : Nat) (m : Word) : State :=
  s.homeQueue (at_ / 16) (.atom { src := .die d 0, sec := at_ / 16, off := at_ % 16,
                                  args := { op := .or, w64 := true, x := m, y := 0, ret := false } })

/-- An entry equals another in every bit that R295 asks for; the accessed and dirty bits, which the device itself sets entry by
entry, are left out (DEDUCED, log 10). -/
def sameGroup (p q : Word) : Bool := (p ^^^ q) &&& ~~~(0x1F0030 : Word) == 0

/-- The entries of a contiguous group, by index (R295). -/
def groupOf (rd : Nat → Word) (l : TlbEntry) : List (Nat × Word) :=
  let base := l.at_ - 8 * (l.vpn % 32)
  ((below 32).map (fun i => (i, rd (base + 8 * i)))).filter (fun e => bit e.2 0 && bit e.2 8)

/-- A group keeps the rule of R295. -/
def groupOk (es : List (Nat × Word)) : Bool :=
  es.length == 32 && match es with
    | [] => true
    | e :: t => t.all (fun x => sameGroup e.2 x.2) && es.all (fun x => pteFrame x.2 % 32 == x.1)

/-- The leaf that translates an access once contiguous groups are taken into account: the entry itself where no entry of its
group has C = 1 or the group is consistent, else a free one of those with C = 1, its frame adjusted by index (R295). -/
def State.groupLeaf (s : State) (d : DieId) (l : TlbEntry) : State × TlbEntry :=
  if l.level = 1 then (s, l)
  else
    let rd := fun a => s.readWord d a 8
    let es := groupOf rd l
    if es.isEmpty || groupOk es then (s, l)
    else
      let e := es.getD (Config.freeGroupEntry s.free % es.length) (0, l.pte)
      let p := (e.2 &&& ~~~(0x1F0000 : Word)) ||| BitVec.ofNat 64 (l.vpn % 32 * 2 ^ 16)
      ({ s with free := s.free + 1 }, { l with pte := p, at_ := l.at_ - 8 * (l.vpn % 32) + 8 * e.1 })

/-- A walk of a die's tables for an address: the present leaf, with its accessed bit set (R292, R294). -/
def State.walk (s : State) (d : DieId) (va : Nat) : State × Option TlbEntry :=
  match walkWith (fun a => s.readWord d a 8) s.paOk (s.die d).ctl.root va with
  | none => (s, none)
  | some l =>
    let (s, l) := s.groupLeaf d l
    if !s.leafOk l then (s, none)
    else if bit l.pte 4 then (s, some l)
    else (s.orEntry d l.at_ 0x10, some { l with pte := l.pte ||| 0x10 })

/-! ### TLBs (R296) -/

/-- The entry maps the address. -/
def TlbEntry.maps (l : TlbEntry) (va : Nat) : Bool := l.vpn == va / 2 ^ levelBits l.level

/-- A translation lies in a range. -/
def TlbEntry.meets (l : TlbEntry) (va len : Nat) : Bool :=
  let lo := l.vpn * 2 ^ levelBits l.level
  lo < va + len && va < lo + 2 ^ levelBits l.level

/-- The order that counts for a store issued now: one that may have translated before an invalidation in progress counts as issued before
it, so that the invalidation waits for it (R289). -/
def State.sinceOf (s : State) (d : DieId) (l : TlbEntry) : Nat :=
  (s.die d).invals.foldl (fun n v => if l.meets v.va v.len then Nat.min n (v.seq - 1) else n) s.fresh

/-- Put an entry first, dropping the oldest beyond the capacity. -/
def tlbPut (n : Nat) (l : TlbEntry) (t : List TlbEntry) : List TlbEntry :=
  (l :: t.filter (fun e => !(e.level == l.level && e.vpn == l.vpn))).take n

/-- The entry that a core's or die's TLB holds for an address; once held it is used until it is dropped (DESIGN CHOICE, log 11). -/
def State.tlbFind (s : State) (d : DieId) (c : CoreId) (va : Nat) : Option TlbEntry :=
  match (s.core d c).tlb.find? (fun l => l.maps va) with
  | some l => some l
  | none => (s.die d).l2tlb.find? (fun l => l.maps va)

/-- The entry as a TLB holds it: a consistent contiguous group is held as one 2 MiB mapping when all its entries agree in the accessed
and dirty bits too and no write is left to set one of them (R295, R296; DESIGN CHOICE, log 11). -/
def State.widen (s : State) (d : DieId) (l : TlbEntry) : TlbEntry :=
  if l.level = 2 && bit l.pte 8 && bit l.pte 4 && (bit l.pte 5 || !bit l.pte 2 || bit l.pte 9) then
    let es := groupOf (fun a => s.readWord d a 8) l
    if groupOk es && es.all (fun e => (e.2 ^^^ l.pte) &&& 0x30 == 0) then
      { l with level := 3, vpn := l.vpn / 32, pte := l.pte &&& ~~~(0x1F0000 : Word) }
    else l
  else l

/-- Some TLB of a die holds an entry with MIG = 1 for an address (R288). -/
def State.migHeld (s : State) (d : DieId) (va : Nat) : Bool :=
  let has := fun (t : List TlbEntry) => t.any (fun l => l.maps va && bit l.pte 10)
  has (s.die d).l2tlb || (below 20).any (fun c => has (s.core d (Fin.ofNat 20 c)).tlb)

/-- The held writes of a die that no TLB of it keeps held translate again (R288). -/
def State.wakeMig (s : State) (d : DieId) : State :=
  let due := fun (x : Strand) => match x.park with
    | some (.wait (.mig va)) => (s.anyCrew x.crew).any (fun k => k.die == d) && !s.migHeld d va
    | _ => false
  if s.strands.any due then s.wake due else s

/-- Fill both TLBs; an entry that leaves them may free a held write. -/
def State.tlbFill (s : State) (d : DieId) (c : CoreId) (l : TlbEntry) : State :=
  ((s.modCore d c (fun k => { k with tlb := tlbPut 512 l k.tlb })).modDie d (fun x => { x with l2tlb := tlbPut 16384 l x.l2tlb })).wakeMig d

/-- Look up or walk. -/
def State.leafOf (s : State) (d : DieId) (c : CoreId) (va : Nat) : State × Option TlbEntry :=
  match s.tlbFind d c va with
  | some l => (s, some l)
  | none => match s.walk d va with
    | (s, none) => (s, none)
    | (s, some l) => (s.tlbFill d c (s.widen d l), some l)

/-- The dirty bit of a leaf is set, in the entry as memory has it now. An entry that is not present is never updated (R294), so a write
that was translated before does not wait for its bit. -/
def State.dirtySet (s : State) (l : TlbEntry) : Bool :=
  bit l.pte 5 || (let w := sectorTake (s.performed (l.at_ / 16)) (l.at_ % 16) 8; bit w 5 || !bit w 0)

/-- The walker's OR of a dirty bit is on its way to the entry's home. -/
def State.dirtyAsked (s : State) (l : TlbEntry) : Bool :=
  (s.home (s.homeOf (16 * (l.at_ / 16)))).queue.any (fun x => match x.2 with
    | .atom m => 16 * m.sec + m.off == l.at_ && m.args.op == .or && bit m.args.x 5
    | _ => false)

/-- The TLBs of a die hold an entry with its dirty bit set. -/
def State.tlbDirty (s : State) (d : DieId) (at_ : Nat) : State :=
  let upd := fun (t : List TlbEntry) => t.map (fun e => if e.at_ == at_ then { e with pte := e.pte ||| 0x20 } else e)
  s.modDie d (fun x =>
    { x with l2tlb := upd x.l2tlb,
             cores := (below 20).foldl (fun v i =>
               let i := Fin.ofNat 20 i
               v.set i { v[i] with tlb := upd v[i].tlb }) x.cores })

/-- The dirty bit of a leaf is to be set before a write through it (R294): the walker asks the entry's home for it once, and the TLBs
take it over when it is there, which `State.dirtySet` tells. -/
def State.markDirty (s : State) (d : DieId) (l : TlbEntry) : State :=
  if bit l.pte 5 then s
  else
    let s := if s.dirtySet l || s.dirtyAsked l then s else s.orEntry d l.at_ 0x20
    if s.dirtySet l then s.tlbDirty d l.at_ else s

/-- Set the dirty bits of several leaves; the second answer says that all of them are set. -/
def State.markAll (s : State) (d : DieId) (ls : List TlbEntry) : State × Bool :=
  let s := ls.foldl (fun s l => s.markDirty d l) s
  (s, ls.all s.dirtySet)

/-! ### The checks of R126 -/

/-- What the checks of an element come to. -/
inductive Tr where
  | bad (code sub : Nat)
  | hold (l : TlbEntry)
  | ok (l : TlbEntry)
  deriving DecidableEq, Repr

/-- The port that sends packets of a key: the lowest that is up and whose membership table has the key. Which port carries a
packet is not stated (DESIGN CHOICE, log 8). -/
def State.outPort (s : State) (key : BitVec 32) : Option PortId :=
  ((below 64).map (Fin.ofNat 64)).find? (fun p => s.ports[p].width != 0 && s.ports[p].member key)

/-- The key of a FAB entry: the key table's, 0 being empty (R277; DEDUCED, log 12). -/
def State.keyOf (s : State) (d : DieId) (p : Word) : Option (BitVec 32) :=
  match look (pteKey p) (s.die d).ctl.keytab with
  | some k => if k = 0 then none else some k
  | none => none

/-- Steps 2 to 4 of check 3 of R126, and the MIG hold (R280, R282, R284, R287, R288) (DEDUCED, log 35) (DEDUCED, log 39). -/
def State.permit (s : State) (d : DieId) (k : Acc) (l : TlbEntry) : Tr :=
  let p := l.pte
  let perm := match k with
    | .load => if bit p 1 then none else some 1
    | .fetch => if bit p 3 then none else some 3
    | _ => if bit p 9 then some 4 else if bit p 2 then none else some 2
  match perm with
  | some sub => .bad 0x06 sub
  | none =>
    let q := ptePeer p
    if bit p 11 && !(s.die q).present then .bad 0x07 1
    else if bit p 11 && !(s.die q).enabled then .bad 0x07 2
    else if bit p 11 && !((s.die d).ctl.partition.getLsbD q.val) then .bad 0x07 3
    else if pteFab p && k == .fetch then .bad 0x05 4
    else if (pteGroup p).isSome && k != .store then .bad 0x04 2
    else if pteFab p && ((s.keyOf d p).bind s.outPort).isNone then .bad 0x08 1
    else if bit p 10 && (k == .store || k == .atomic) then .hold l
    else .ok l

/-- Check 3 of R126. -/
def State.translate (s : State) (d : DieId) (c : CoreId) (k : Acc) (va : Nat) : State × Tr :=
  match s.leafOf d c va with
  | (s, none) => (s, .bad 0x05 k.sub)
  | (s, some l) => (s, s.permit d k l)

/-- The checks of R126 for an element of `size` bytes. -/
def State.checkElem (s : State) (d : DieId) (c : CoreId) (k : Acc) (size va : Nat) : State × Tr :=
  if 2 ^ 55 ≤ va then (s, .bad 0x04 0)
  else if va % size ≠ 0 then (s, .bad 0x03 1)
  else s.translate d c k va

/-! ### The elements of a strand's access -/

/-- An element that has passed its checks: its number or lane, address, leaf and physical address; `held` by MIG (R288). -/
structure Elem where
  lane : Nat
  va   : Nat
  leaf : TlbEntry
  pa   : Nat
  held : Bool
  deriving DecidableEq, Repr

/-- The first failing check of an access: code, subcode, lane, address. -/
structure Bad where
  code : Nat
  sub  : Nat
  lane : Nat
  va   : Nat
  deriving DecidableEq, Repr

/-- Check the elements of the issuing strand's access in their order, up to the first that fails. An element whose translation
has passed for this unit already is not translated again (R300). -/
def State.checkElems (s : State) (k : Acc) (size : Nat) : List (Nat × Nat) → State × List Elem × Option Bad
  | [] => (s, [], none)
  | (i, va) :: t =>
    match look i s.focus.checked with
    | some l =>
      let (s, es, b) := s.checkElems k size t
      (s, { lane := i, va := va, leaf := l, pa := leafPa l va, held := false } :: es, b)
    | none => match s.checkElem s.crew.die s.crew.core k size va with
      | (s, .bad c sub) => (s, [], some { code := c, sub := sub, lane := i, va := va })
      | (s, .hold l) =>
        let (s, es, b) := s.checkElems k size t
        (s, { lane := i, va := va, leaf := l, pa := leafPa l va, held := true } :: es, b)
      | (s, .ok l) =>
        let (s, es, b) := s.checkElems k size t
        (s, { lane := i, va := va, leaf := l, pa := leafPa l va, held := false } :: es, b)

/-- Remember the translations that have passed. -/
def State.keepChecked (s : State) (es : List Elem) : State :=
  s.setFocus { s.focus with checked := es.foldl (fun l e => put e.lane e.leaf l) s.focus.checked }

/-- Raise the fault of a failed check: a lane's for a vector access, lane 0 for a scalar one, which is its element's number
(R126, R301). -/
def State.raiseBad (s : State) (b : Bad) : State := s.raiseAt b.code b.sub b.lane (BitVec.ofNat 64 b.va)

/-! ### Breakpoints (R313) -/

/-- A breakpoint of one of the kinds matches an address. -/
def State.brkHit (s : State) (kinds : List Nat) (va : Nat) : Bool :=
  let c := (s.die s.crew.die).ctl
  bit s.crew.debug 0 && bit s.crew.debug 1 && !s.focus.skipBrk &&
    (below 4).any (fun i =>
      let b := c.brk[Fin.ofNat 4 i]
      kinds.contains b.kind && b.addr.toNat ≤ va && va < b.addr.toNat + 2 ^ b.mask)

/-- The first element of an access that a data breakpoint matches (DEDUCED, log 40). -/
def State.dataBrk (s : State) (k : Acc) (es : List Elem) : Option Elem :=
  let kinds := match k with
    | .load => [2, 4]
    | .store => [3, 4]
    | _ => [2, 3, 4]
  es.find? (fun e => s.brkHit kinds e.va)

end Sys2Proof.Machine
end

