-- ==== Sys2Proof/Machine/Coherence.lean ====
section
/-! DEFINITION. Tokens as the die caches use them (R199 to R214): sending and gaining tokens, transient requests, the pending
buffer (R222, R223), and what becomes of the strands that wait. The events that carry messages are in Tokens.lean. -/

namespace Sys2Proof.Machine

open Sys2Proof

/-- A wake event for a `waitc` (R240): it will look once more, at what the sector holds then. -/
def Strand.waitcWoken (x : Strand) : Strand := match x.park with
  | some (.wait (.waitc a b w _ n)) => { x with park := some (.wait (.waitc a b w true n)), fills := del w x.fills }
  | _ => x

/-- A store to a sector, a movement of its tokens: wake events of the `waitc`s that watch it on this base die (R240). -/
def State.wakeWaitc (s : State) (d : DieId) (sec : Nat) : State :=
  let near := fun (x : Strand) => match s.anyCrew x.crew with
    | some c => c.die == d || c.die == partner d
    | none => false
  s.modStrands (fun x => match x.park with
      | some (.wait (.waitc _ _ w _ _)) => w == sec && near x
      | _ => false)
    Strand.waitcWoken

/-- A die's strands that watch a sector see its tokens move. -/
def State.tokensMove (s : State) (who : Holder) (sec : Nat) : State :=
  match who with
  | .die d => s.wakeWaitc d sec
  | _ => s

/-- Send `n` tokens of a sector, with the owner token if `own`, and the data if `data`, under an activation if `p` (R199,
R207, R209). -/
def State.sendTokens (s : State) (who dst : Holder) (sec n : Nat) (own data p : Bool) : State :=
  (s.tokensMove who sec).passTokens who dst sec n own data p

/-- Send every token of a sector (R199, R207). -/
def State.sendAll (s : State) (who dst : Holder) (sec : Nat) (p : Bool) : State :=
  if (s.holdOf who sec).count = 0 then s else (s.tokensMove who sec).passAll who dst sec p

/-! ### Activations a holder remembers (R212) -/

/-- The active persistent request that a holder must serve for a sector (R202). -/
def Cache.activeFor (c : Cache) (sec : Nat) : Option ActSeen :=
  c.acts.find? (fun a => a.active && a.line == sec / 8 && a.mask.getLsbD (sec % 8))

/-- Where a holder sends tokens that it gives up: the active requester, else the home (R202, R207). -/
def State.giveUpTo (s : State) (who : Holder) (sec : Nat) : Holder × Bool :=
  match (s.cache who).activeFor sec with
  | some a => if a.req = who then (s.homeHolder sec, false) else (a.req, true)
  | none => (s.homeHolder sec, false)

/-- A die cache gives a sector up (R128, R207). A sector it has a GETX for is kept (R200). -/
def State.victimise (s : State) (d : DieId) (sec : Nat) : State :=
  let c := (s.die d).cache
  if c.reqs.any (fun r => r.sec == sec && r.x) then s
  else
    let to_ := s.giveUpTo (.die d) sec
    s.sendAll (.die d) to_.1 sec to_.2

/-! ### Transient requests (R201, R210) -/

/-- The predictor's bit of a holder (R210). -/
def holderBit : Holder → Nat
  | .die d => d.val
  | .agent k => 8 + k.val
  | .home _ => 12

/-- The requester entry of a holder in a Hasp table (R211). -/
def haspEntry : Holder → Nat := holderBit

/-- The holders that a predictor mask names, but for one; bit 12 is the home. -/
def holdersOf (mask : BitVec 13) (home me : Holder) : List Holder :=
  ((cacheHolders ++ [home]).filter (fun h => mask.getLsbD (holderBit h))).filter (fun h => h != me)

/-- Every holder of a sector but one. -/
def everyHolder (home me : Holder) : List Holder := (cacheHolders ++ [home]).filter (fun h => h != me)

/-- A request message for one sector. -/
def oneReq (src : Holder) (sec : Nat) : ReqMsg :=
  { src := src, line := sec / 8, mask := BitVec.ofNat 8 (2 ^ (sec % 8)) }

/-- Send a request to holders. -/
def State.askAll (s : State) (who : Holder) (sec : Nat) (x : Bool) (to_ : List Holder) : State :=
  to_.foldl (fun s h => s.sendTo h (if x then .getx (oneReq who sec) else .gets (oneReq who sec))) s

/-- The first targets of a request: the predicted set, the home alone where there is no prediction, every holder under
broadcast (R201, R210, R329). -/
def State.firstTargets (s : State) (who : Holder) (sec : Nat) : List Holder :=
  let home := s.homeHolder sec
  let pred := match look (sec / 256) (s.cache who).pred with
    | some m => holdersOf m home who
    | none => [home]
  match who with
  | .die d => if bit (s.die d).ctl.cohmode 20 then everyHolder home who else pred
  | _ => pred

/-- The two timeouts of a holder's requests in ns (R201, R329). -/
def State.timeouts (s : State) (who : Holder) : Nat × Nat :=
  match who with
  | .die d => let m := (s.die d).ctl.cohmode.toNat
    (m % 1024 * 10, m / 1024 % 1024 * 10)
  | _ => (300, 600)

/-- A request record at its first attempt. -/
def State.newReq (s : State) (who : Holder) (sec : Nat) (x : Bool) : CacheReq :=
  { sec := sec, x := x, stage := 0, at_ := s.time, t1 := (s.timeouts who).1, t2 := (s.timeouts who).2 }

/-- Put a request into a holder's table. -/
def Cache.putReq (c : Cache) (r : CacheReq) : Cache := { c with reqs := upsert (fun q => q.sec) r c.reqs }

/-- Issue a transient request for a sector, unless one that serves is outstanding already; a GETS gives way to a GETX, which begins
at its first attempt (DESIGN CHOICE, log 96). -/
def State.request (s : State) (who : Holder) (sec : Nat) (x : Bool) : State :=
  let have_ := match (s.cache who).reqs.find? (fun r => r.sec == sec) with
    | some r => r.x || !x
    | none => false
  if have_ then s
  else
    let r := s.newReq who sec x
    (s.modCache who (fun c => c.putReq r)).askAll who sec x (s.firstTargets who sec)

/-! ### The pending buffer (R203, R222, R223) -/

/-- The entry of a die for a sector. -/
def State.pendOf (s : State) (d : DieId) (sec : Nat) : Option PendEntry := (s.die d).pend.find? (fun e => e.sec == sec)

/-- The partner die has an earlier entry for the sector (R223). -/
def State.partnerFirst (s : State) (d : DieId) (sec : Nat) : Bool :=
  match s.pendOf (partner d) sec, s.pendOf d sec with
  | some b, some a => b.seq < a.seq
  | some _, none => true
  | none, _ => false

/-- This die has read the partner die's entry for the sector, which is performed before every later store of this die (R223). -/
def State.partnerSeen (s : State) (d : DieId) (sec : Nat) : Bool := (s.pendOf (partner d) sec).any (fun b => b.seen)

/-- A store of this die would merge into an entry that is performed before a later entry of the partner that it must follow: it waits
until the die's own entry has been performed (R223; DEDUCED, log 27). -/
def State.storeBlocked (s : State) (d : DieId) (sec : Nat) : Bool :=
  match s.pendOf (partner d) sec, s.pendOf d sec with
  | some b, some a => a.seq < b.seq && b.seen
  | _, _ => false

/-- A strand waits for pending entries: a full buffer, a release, what an acquire follows (R222, R226, R252). -/
def waitsPending (x : Strand) : Bool := match x.park with
  | some (.wait .pending) => true
  | some (.wait .fence) => true
  | _ => false

/-- Die `d` reads bytes of a sector under the pending entries of its base die: from now on it has read its partner's entry, if that has one
of them (R223). -/
def State.readPending (s : State) (d : DieId) (sec : Nat) (mask : BitVec 16) : State :=
  let p := fun (e : PendEntry) => e.sec == sec && !e.seen && (e.mask &&& mask) != 0
  if (s.die (partner d)).pend.any p then
    (s.modDie (partner d) (fun x => { x with pend := x.pend.map (fun e => if p e then { e with seen := true } else e) })).wake waitsPending
  else s

/-- An entry of the die's own half that is older than `n` and that the partner die has not read: a store of the partner may still be
performed before it (R203, R223). -/
def State.unseenBefore (s : State) (d : DieId) (n : Nat) : Bool := (s.die d).pend.any (fun e => e.since < n && !e.seen)

/-- Write bytes of a sector that a die cache holds whole: it becomes M (R203, R208). -/
def State.cacheWrite (s : State) (d : DieId) (sec : Nat) (mask : BitVec 16) (v : SectorData) : State :=
  let h := s.holdOf (.die d) sec
  s.putHold (.die d) { h with dirty := true, data := mergeSector mask v h.data }

/-- Sectors that a 256 MiB half of the die cache holds (R1, R3), and sectors of it that may be pinned, 192 MiB (R128). -/
def dieSectors : Nat := 16777216
def pinSectors : Nat := 12582912

/-- Pin a sector of PLACE 1 that the die cache holds, as far as the half may pin (R128). -/
def State.pinSector (s : State) (d : DieId) (sec : Nat) : State :=
  match (s.die d).cache.hold sec with
  | none => s
  | some h =>
    if h.pin || pinSectors ≤ ((s.die d).cache.holds.filter (fun x => x.pin)).length then s
    else s.modCache (.die d) (fun c => c.setHold { h with pin := true })

/-- A half that holds more sectors than it has room for gives one up: of those that are not pinned and that no request is for, but for
the one just taken, the lowest-numbered (R3, R207) (DESIGN CHOICE, log 34). -/
def State.makeRoom (s : State) (d : DieId) (sec : Nat) : State :=
  let c := (s.die d).cache
  if c.holds.length ≤ dieSectors then s
  else match c.holds.find? (fun h => !h.pin && h.sec != sec && !c.reqs.any (fun r => r.sec == h.sec)) with
    | some h => s.victimise d h.sec
    | none => s

/-- A die cache may write a sector: it holds all 16 tokens (R207). -/
def State.ownsAll (s : State) (d : DieId) (sec : Nat) : Bool := let h := s.holdOf (.die d) sec; h.count == 16 && h.known

/-- What a store brings to the die cache: who issued it (a strand, or nobody for an engine), the grids of its launch, the order in which
it was issued, and the hints of its page and prefix (R128). -/
structure StoreTag where
  by_  : List Nat
  grid : List Nat
  since : Nat
  st   : Bool
  pin  : Bool
  deriving DecidableEq, Repr

/-- Bytes stored reach the die cache: performed at once where the sector is held whole, else merged into the pending buffer with a GETX
on its way (R203, R222, R223). An entry of the partner die that this die has read is performed before (R223), and while the partner has
one the later half asks for no token. -/
def State.dieStore (s : State) (d : DieId) (t : StoreTag) (sec : Nat) (mask : BitVec 16) (v : SectorData) : State :=
  match s.pendOf d sec with
  | none =>
    if s.ownsAll d sec && !s.partnerSeen d sec then
      let s := (s.cacheWrite d sec mask v).wakeWaitc d sec
      let s := if t.pin then s.pinSector d sec else s
      if t.st then s.victimise d sec else s
    else
      let e : PendEntry := { sec := sec, mask := mask, data := v, seq := s.fresh, since := t.since, by_ := t.by_, grid := t.grid,
                             st := t.st, pin := t.pin, seen := false }
      let s := { (s.modDie d (fun x => { x with pend := x.pend ++ [e] })) with fresh := s.fresh + 1 }
      let s := s.wakeWaitc d sec
      if (s.pendOf (partner d) sec).isSome then s else s.request (.die d) sec true
  | some e =>
    let by_ := t.by_
    let grid := t.grid
    let e := { e with mask := e.mask ||| mask, data := mergeSector mask v e.data, since := Nat.min e.since t.since, st := t.st,
                      pin := e.pin || t.pin,
                      by_ := e.by_ ++ by_.filter (fun u => !e.by_.contains u),
                      grid := e.grid ++ grid.filter (fun u => !e.grid.contains u) }
    let s := (s.modDie d (fun x => { x with pend := x.pend.map (fun p => if p.seq == e.seq then e else p) })).wakeWaitc d sec
    if s.partnerFirst d sec then s else s.request (.die d) sec true

/-- Entries a die can still create (R222). -/
def State.pendRoom (s : State) (d : DieId) : Nat := 128 - (s.die d).pend.length

/-- A store to a sector reaches the die cache now: it is performed at once, merges, or finds a free entry, and no earlier entry of the
partner keeps it back (R203, R222, R223). -/
def State.storeFits (s : State) (d : DieId) (sec : Nat) : Bool :=
  !s.storeBlocked d sec && ((s.pendOf d sec).isSome || 0 < s.pendRoom d || (s.ownsAll d sec && !s.partnerSeen d sec))

/-! ### Stores that a core holds (R222): behind one of them every later store of the core waits, in their order -/

/-- The core of a strand on a die, and the number of its launch's grid. -/
def State.coreAt (s : State) (d : DieId) (x : Strand) : Option (CoreId × Nat) := match s.anyCrew x.crew with
  | some k => if k.die == d then some (k.core, k.slot.val) else none
  | none => none

/-- The stores that a core holds, with the strands that issued them. -/
def State.heldOn (s : State) (d : DieId) (c : CoreId) : List (Strand × HeldStore) :=
  (s.allStrands.filter (fun x => !x.heldSt.isEmpty && (s.coreAt d x).any (fun k => k.1 == c))).flatMap (fun x => x.heldSt.map (fun h => (x, h)))

/-- The oldest store that a core holds. -/
def State.oldestHeld (s : State) (d : DieId) (c : CoreId) : Option (Strand × HeldStore) := leastBy (fun (y : Strand × HeldStore) => y.2.seq) (s.heldOn d c)

/-- The stores that a core holds go to the die cache, oldest first, as far as it takes them. -/
def State.drainCore (s : State) (d : DieId) (c : CoreId) : Nat → State
  | 0 => s
  | n + 1 => match s.oldestHeld d c with
    | none => s
    | some (x, h) =>
      if s.storeFits d h.sec then
        let grid := ((s.coreAt d x).map (fun k => k.2)).toList
        let s := s.modStrands (fun y => y.uid == x.uid) (fun y => { y with heldSt := y.heldSt.filter (fun z => z.seq != h.seq) })
        (s.dieStore d { by_ := [x.uid], grid := grid, since := h.since, st := h.st, pin := h.pin } h.sec h.mask h.data).drainCore d c n
      else s

/-- Let every core of a die drain. -/
def State.drainDie (s : State) (d : DieId) : State :=
  if s.allStrands.all (fun x => x.heldSt.isEmpty) then s
  else (below 20).foldl (fun s c => s.drainCore d (Fin.ofNat 20 c) (s.heldOn d (Fin.ofNat 20 c)).length) s

/-- Merge the bytes that a core holds for a sector over it, oldest first. -/
def mergeHeld (hs : List HeldStore) (sec : Nat) (v : SectorData) : SectorData :=
  ((hs.filter (fun h => h.sec == sec)).foldr (fun h l => upsert (fun z => z.seq) h l) []).foldl (fun v h => mergeSector h.mask h.data v) v

/-- A store of a core to a sector is on its way to a home (R220): what the core reads of the sector waits for it. -/
def State.coreHst (s : State) (d : DieId) (c : CoreId) (sec : Nat) : Bool :=
  s.allStrands.any (fun x => x.hstOut.any (fun h => h.2 == sec) && (s.coreAt d x).any (fun k => k.1 == c))

/-- A core still has a store older than `n` of a strand that `p` names, held (R222) or on its way to a home (R220). -/
def State.coreOwes (s : State) (d : DieId) (c : CoreId) (p : Strand → Bool) (n : Nat) : Bool :=
  s.allStrands.any (fun x => p x && (x.heldSt.any (fun h => h.seq < n) || x.hstOut.any (fun h => h.1 < n)) && (s.coreAt d x).any (fun k => k.1 == c))

/-! ### L1 (R127, R253) -/

/-- Lines of 128 bytes that a 256 KiB L1 holds (R3, R127). -/
def l1Lines : Nat := 2048

/-- Change a core's L1. -/
def State.modL1 (s : State) (d : DieId) (c : CoreId) (f : List L1Copy → List L1Copy) : State :=
  s.modCore d c (fun k => { k with l1 := f k.l1 })

/-- Drop the copies of a line. -/
def State.dropL1Line (s : State) (d : DieId) (c : CoreId) (sec : Nat) : State :=
  s.modL1 d c (fun l => l.filter (fun x => x.sec / 8 != sec / 8))

/-- Write bytes into an L1 copy of them if there is one. -/
def State.patchL1 (s : State) (d : DieId) (c : CoreId) (sec : Nat) (mask : BitVec 16) (v : SectorData) : State :=
  s.modL1 d c (fun l => l.map (fun x => if x.sec == sec then { x with data := mergeSector (mask &&& x.have_) v x.data, wrote := s.fresh } else x))

/-- A copy is not too old to be used: not more than 4 µs (R253). -/
def State.l1Young (s : State) (x : L1Copy) : Bool := s.time ≤ x.filled + 4000

/-- An L1 with more lines than it has room for gives one up: the line of the sector that was filled longest ago (DESIGN CHOICE, log 97). -/
def trimL1 (l : List L1Copy) : List L1Copy :=
  if l.length ≤ l1Lines || (l.map (fun x => x.sec / 8)).eraseDups.length ≤ l1Lines then l
  else match l.getLast? with
    | some x => l.filter (fun y => y.sec / 8 != x.sec / 8)
    | none => l

/-- Fill bytes of an L1 copy: all 16 with a new copy, fewer beside those of a copy that may still be used (R127, R253). -/
def State.fillL1 (s : State) (d : DieId) (c : CoreId) (sec : Nat) (have_ : BitVec 16) (v : SectorData) : State :=
  s.modL1 d c (fun l =>
    let x : L1Copy := match l.find? (fun x => x.sec == sec && s.l1Young x && have_ != 0xFFFF) with
      | some x => { x with have_ := x.have_ ||| have_, data := mergeSector have_ v x.data, wrote := s.fresh }
      | none => { sec := sec, have_ := have_, data := v, filled := s.time, wrote := s.fresh }
    trimL1 (x :: l.filter (fun y => y.sec != sec)))

/-- A copy from which the L1 may serve bytes of a sector: it holds them and is not too old (R127, R253). -/
def State.l1Copy (s : State) (d : DieId) (c : CoreId) (sec : Nat) (mask : BitVec 16) : Option L1Copy :=
  (s.core d c).l1.find? (fun x => x.sec == sec && (x.have_ &&& mask) == mask && s.l1Young x)

/-- What a home has read for a core: it is written into the core's L1 copy, but one that was written after the read was asked for may be newer
and leaves instead (R127, R253). -/
def State.homeRead (s : State) (d : DieId) (c : CoreId) (txn sec : Nat) (mask : BitVec 16) (v : SectorData) : State :=
  if (s.core d c).l1.any (fun x => x.sec == sec && txn < x.wrote) then s.dropL1Line d c sec else s.patchL1 d c sec mask v

/-- The issuing strand may have read stores that its core has not yet brought to the die cache, or, where `base`, entries of its half that
the partner die has not read: its later accesses follow them (R252; DEDUCED, log 27). -/
def State.followRead (s : State) (base : Bool) : State :=
  let f := s.focus
  let core := s.coreOwes s.crew.die s.crew.core (fun x => x.uid != f.uid) s.fresh
  let half := base && (s.die s.crew.die).pend.any (fun e => e.by_ != [f.uid] && !e.seen)
  if core || half then
    { (s.setFocus { f with acqCore := if core then s.fresh else f.acqCore, acqBase := if half then s.fresh else f.acqBase })
      with fresh := s.fresh + 1 }
  else s

/-- The issuing strand's acquire at scope die or wider empties its core's L1 (R127, R226). A read at scope pkg or sys has taken nothing
that is not performed (R253); one at scope die or base may have. -/
def State.acquireL1 (s : State) (scope : Nat) (o : Order) : State :=
  if o.hasAcq && 2 ≤ scope then
    let s := s.modL1 s.crew.die s.crew.core (fun _ => [])
    if scope < 4 then s.followRead (scope == 3) else s
  else s

/-- What the issuing strand's later accesses follow since its acquires is still to come (R252; DEDUCED, log 27). -/
def State.readOwed (s : State) : Bool :=
  let f := s.focus
  s.coreOwes s.crew.die s.crew.core (fun x => x.uid != f.uid) f.acqCore ||
    (s.die s.crew.die).pend.any (fun e => e.since < f.acqBase && e.by_ != [f.uid] && !e.seen)

/-! ### What the strands of a die get when a request completes -/

/-- The stores that a core holds for a sector over a value of it (R222). -/
def State.underHeld (s : State) (d : DieId) (c : CoreId) (sec : Nat) (v : SectorData) : SectorData :=
  mergeHeld ((s.heldOn d c).map (fun y => y.2)) sec v

/-- What a core of a die takes of a sector now: performed data under the pending entries of the base die and the stores that the core
holds (R222, R223). -/
def State.captureFor (s : State) (d : DieId) (c : CoreId) (sec : Nat) : Option SectorData :=
  let h := s.holdOf (.die d) sec
  if h.count = 0 || !h.known then none else some (s.underHeld d c sec (mergePending (s.pendings d) sec h.data))

/-- Bytes of a sector that another strand than `uid` has pending on the base die or held in the core: a read at scope pkg or sys takes
none of them (R253). -/
def State.othersBytes (s : State) (d : DieId) (c : CoreId) (uid sec : Nat) (mask : BitVec 16) : Bool :=
  (s.pendings d).any (fun e => e.sec == sec && (e.mask &&& mask) != 0 && e.by_ != [uid]) ||
  (s.heldOn d c).any (fun y => y.2.sec == sec && (y.2.mask &&& mask) != 0 && y.1.uid != uid)

/-- A read that the L1 did not serve: it fills the L1 with the bytes `have_` of its sector, or writes those it read into the copy that is
there (R127, R253), and the die has then read the partner's pending bytes among them (R223). -/
def State.readL1 (s : State) (d : DieId) (c : CoreId) (fill : Bool) (sec : Nat) (have_ mask : BitVec 16) (v : SectorData) : State :=
  if fill then (s.fillL1 d c sec have_ v).readPending d sec have_ else (s.patchL1 d c sec mask v).readPending d sec mask

/-- Hand a sector to one strand that waits to read it: this is when its load reads, and when the L1 is filled. A load that must wait for a
store of its core on its way to a home, or at scope pkg or sys for another strand's pending bytes, asks anew (R220, R253). -/
def State.deliverTo (s : State) (d : DieId) (sec : Nat) (x : Strand) : State :=
  match look sec x.wants, s.coreAt d x with
  | some w, some (c, _) => match s.captureFor d c sec with
    | none => s
    | some v =>
      if s.coreHst d c sec || (w.wide && s.othersBytes d c x.uid sec w.mask) then
        s.modStrands (fun y => y.uid == x.uid) (fun y => { y with wants := del sec y.wants, stalled := false })
      else
        let s := s.modStrands (fun y => y.uid == x.uid) (fun y =>
          { y with wants := del sec y.wants, fills := put sec v y.fills, stalled := false })
        let s := s.readL1 d c w.fill sec 0xFFFF w.mask v
        if w.place = 1 then s.pinSector d sec else s
  | _, _ => s

/-- A cursor of an engine takes a sector it waits for. -/
def CopyOp.capture (o : CopyOp) (sec : Nat) (v : SectorData) : CopyOp :=
  if o.want = some sec then { o with want := none, fill := some (sec, v) } else o

/-- Some engine of a die waits for a sector. -/
def State.enginesWant (s : State) (d : DieId) (sec : Nat) : Bool :=
  let w := fun (o : CopyOp) => o.want == some sec
  s.crews.any (fun k => k.die == d && k.copies.any w) || (s.die d).key.sends.any (fun x => w x.cur) || (s.die d).key.recvs.any (fun x => w x.cur)

/-- The cursors of a die's engines that wait for a sector, each with the core of its crew. -/
def State.engineWaits (s : State) (d : DieId) (sec : Nat) : List (CoreId × CopyOp) :=
  let core := fun (u : Nat) => ((s.crews.find? (fun k => k.uid == u)).map (fun k => k.core)).getD 0
  ((s.crews.filter (fun k => k.die == d)).flatMap (fun k => k.copies.map (fun o => (k.core, o))) ++
    (s.die d).key.sends.map (fun x => (core x.send.crew, x.cur)) ++ (s.die d).key.recvs.map (fun x => (x.core, x.cur))).filter
      (fun y => y.2.want == some sec)

/-- An engine reads a sector for a crew: the core's L1 copy of it and the partner's entry follow as for a strand's read that the L1 does
not serve (R223, R253), and a page of PLACE 1 pins it (R128). -/
def State.engineReads (s : State) (d : DieId) (c : CoreId) (sec place : Nat) (mask : BitVec 16) (v : SectorData) : State :=
  let s := (if s.coreHst d c sec then s else s.patchL1 d c sec mask v).readPending d sec mask
  if place = 1 then s.pinSector d sec else s

/-- Hand a sector to the engines of a die: they see the pending entries of the base die (R223) and the stores that the core of their crew
holds. -/
def State.deliverEngines (s : State) (d : DieId) (sec : Nat) (v : SectorData) : State :=
  if !s.enginesWant d sec then s
  else
    let at_ := fun (c : CoreId) => s.underHeld d c sec v
    let core := fun (u : Nat) => ((s.crews.find? (fun k => k.uid == u)).map (fun k => k.core)).getD 0
    let s := (s.engineWaits d sec).foldl (fun s y =>
      s.engineReads d y.1 sec ((y.2.leaf.map (fun l => ptePlace l.pte)).getD 0) 0xFFFF (at_ y.1)) s
    let t : State := { s with crews := s.crews.map (fun (k : Crew) =>
      if k.die == d then { k with copies := k.copies.map (fun o => o.capture sec (at_ k.core)) } else k) }
    t.modKey d (fun y =>
      { y with sends := y.sends.map (fun (x : KSend) => { x with cur := x.cur.capture sec (at_ (core x.send.crew)) }),
               recvs := y.recvs.map (fun (x : Recv) => { x with cur := x.cur.capture sec (at_ x.core) }) })

/-- An access of the die's own agents to a sector in the die cache that has no reply yet. -/
def Far.waits (f : Far) (sec : Nat) : Bool := f.reply.isNone && match f.kind with
  | .cache n => n == sec
  | .near n _ _ => n == sec
  | _ => false

/-- Hand a sector to the die's own agents, which read at scope sys: what has come into the pending buffer since they asked is none of
theirs (R253, R316). -/
def State.deliverFar (s : State) (d : DieId) (sec : Nat) (v : SectorData) : State :=
  let mine := fun (f : Far) => f.kind = .cache sec && f.reply.isNone
  let s := if (s.die d).far.any (fun f => mine f && f.place == 1) then s.pinSector d sec else s
  s.modDie d (fun x => { x with far := x.far.map (fun f =>
    if mine f then { f with reply := some (0, (below 16).map (sectorByte v)) } else f) })

/-- Fill the L1 of the cores whose stream prefetchers asked for a sector (R198). -/
def State.deliverWarm (s : State) (d : DieId) (sec : Nat) : State :=
  (below 20).foldl (fun s i =>
    let c : CoreId := Fin.ofNat 20 i
    if (s.core d c).warm.contains sec then
      let s := s.modCore d c (fun k => { k with warm := k.warm.filter (fun x => x != sec) })
      match (if s.coreHst d c sec then none else s.captureFor d c sec) with
      | some v => s.readL1 d c true sec 0xFFFF 0xFFFF v
      | none => s
    else s) s

/-- A line is released after accesses of it (R128). For the strands that have just read it this is no wake event (R240): they keep what they
read. -/
def State.releaseRead (s : State) (d : DieId) (sec : Nat) : State :=
  let old := fun (u : Nat) => ((s.allStrands.find? (fun x => x.uid == u)).map (fun x => x.fills)).getD []
  let us := (s.allStrands.filter (fun x => (look sec x.fills).isSome && (s.coreAt d x).isSome)).map (fun x => x.uid)
  (s.victimise d sec).modStrands (fun y => us.contains y.uid) (fun y => { y with fills := old y.uid })

/-- Hand a sector to everyone of a die that waits to read it. -/
def State.deliverFills (s : State) (d : DieId) (sec : Nat) : State :=
  let h := s.holdOf (.die d) sec
  if h.count = 0 || !h.known then s
  else
    let xs := s.allStrands.filter (fun x => (look sec x.wants).isSome && (s.coreAt d x).isSome)
    let s := xs.foldl (fun s x => s.deliverTo d sec x) s
    let v := mergePending (s.pendings d) sec h.data
    ((s.deliverEngines d sec v).deliverFar d sec h.data).deliverWarm d sec

/-- A unit that is not ready may have become ready (R326). -/
def State.unstall (s : State) : State := s.modStrands (fun x => x.stalled) (fun x => { x with stalled := false })

/-! ### Atomics that gather tokens (R203, R219) -/

/-- An atomic executes in a die cache that holds the sector whole: it sets DIRTY and invalidates the L1 copy of the line on its core
(R127, R219). -/
def State.nearAtomic (s : State) (d : DieId) (c : CoreId) (sec off : Nat) (a : AtomArgs) : State × Word :=
  let h := s.holdOf (.die d) sec
  let r := atomSector a off h.data
  (((s.putHold (.die d) { h with dirty := true, data := r.2 }).dropL1Line d c sec).wakeWaitc d sec, r.1)

/-- The atomics of a die's strands that waited for the tokens of a sector execute, before they can leave again (R203). -/
def State.nearAtoms (s : State) (d : DieId) (sec : Nat) : State :=
  (s.allStrands.filter (fun x => x.near.any (fun a => a.sec == sec))).foldl (fun s x => match x.near, s.coreAt d x with
    | some a, some (c, _) =>
      if s.ownsAll d sec then
        let s := if a.pin then s.pinSector d sec else s
        let r := s.nearAtomic d c sec a.off a.args
        r.1.modStrands (fun y => y.uid == x.uid) (fun y => { y with near := none, got := put a.lane r.2 y.got, stalled := false })
      else s
    | _, _ => s) s

/-- The atomics of the die's own agents that waited for the tokens of a sector execute. -/
def State.nearFar (s : State) (d : DieId) (sec : Nat) : State :=
  (s.die d).far.foldl (fun s f => match f.kind with
    | .near n off a =>
      if n = sec && f.reply.isNone && s.ownsAll d sec then
        let s := if f.place = 1 then s.pinSector d sec else s
        let r := atomSector a off (s.holdOf (.die d) sec).data
        ((s.cacheWrite d sec 0xFFFF r.2).wakeWaitc d sec).modDie d (fun x => { x with far := x.far.map (fun g =>
          if g.key == f.key then { g with reply := some (0, leBytes 8 r.1.toNat) } else g) })
      else s
    | _ => s) s

/-- The request of a holder is complete (R201). -/
def State.requestDone (s : State) (who : Holder) (r : CacheReq) : Bool :=
  let h := s.holdOf who r.sec
  if r.x then h.count == 16 && h.known else h.count != 0 && h.known

/-- A host access of a link that is not complete needs sectors of an activation (R202, R224). -/
def State.hostNeeds (s : State) (who : Holder) (line : Nat) (mask : BitVec 8) : Bool := match who with
  | .agent k => s.hostAccs.any (fun a => a.link == k && a.line / 2 == line && (mask >>> (4 * (a.line % 2))) &&& 0xF != 0)
  | _ => false

/-- PDONE for an activation that this holder is the requester of and has nothing left to ask for, every access it was for performed
(R202, R212); it keeps the tokens it holds, subject to the next activation. -/
def State.pdoneIfIdle (s : State) (who : Holder) : State :=
  match (s.cache who).acts.find? (fun a => a.active && !a.done && a.req == who && !s.hostNeeds who a.line a.mask
      && !(s.cache who).reqs.any (fun r => r.sec / 8 == a.line && a.mask.getLsbD (r.sec % 8))) with
  | none => s
  | some a =>
    let s := s.modCache who (fun c => { c with acts := c.acts.map (fun b => if b.home == a.home then { b with done := true } else b) })
    s.sendTo (.home a.home) (.pdone a.home a.epoch)

/-! ### What happens when tokens have come -/

/-- The pending entry of a die for a sector is performed if nothing keeps it: written into the die cache (R203, R222, R223). -/
def State.performEntry (s : State) (d : DieId) (sec : Nat) : State :=
  match s.pendOf d sec with
  | none => s
  | some e =>
    if s.partnerFirst d sec || !s.ownsAll d sec then s
    else
      let s := (s.cacheWrite d sec e.mask e.data).wakeWaitc d sec
      let s := s.modDie d (fun x => { x with pend := x.pend.filter (fun p => p.seq != e.seq) })
      if e.pin then s.pinSector d sec else s

/-- After an entry of a die for a sector was performed: stores that the cores held may take its place, what waited for it looks again, and
the partner's entry asks for tokens (R222, R223). -/
def State.entryGone (s : State) (d : DieId) (sec : Nat) : State :=
  let s := ((s.drainDie d).drainDie (partner d)).unstall.wake waitsPending
  if (s.pendOf (partner d) sec).isSome then s.request (.die (partner d)) sec true else s

/-- The accesses of a die to a sector that wait for its tokens or data and give the line up when they are done (R128), but for the strands'
loads: the pending entry, atomics, accesses of the die's own agents. -/
def State.streamers (s : State) (d : DieId) (sec : Nat) : Nat :=
  let xs := s.allStrands.filter (fun x => (s.coreAt d x).isSome)
  ((s.die d).pend.filter (fun e => e.sec == sec && e.st)).length +
    (xs.filter (fun x => x.near.any (fun a => a.sec == sec && a.st))).length +
    ((s.die d).far.filter (fun f => f.waits sec && f.place == 2)).length

/-- Between `s` and `t` a streaming access of a die to a sector was done. -/
def State.streamed (s t : State) (d : DieId) (sec : Nat) : Bool :=
  t.streamers d sec < s.streamers d sec ||
  s.allStrands.any (fun x => (look sec x.wants).any (fun w => w.rel) && (s.coreAt d x).isSome &&
    t.allStrands.any (fun y => y.uid == x.uid && (look sec y.fills).isSome))

/-- A die cache that has the sector serves everyone who waits: the pending entry, atomics, reads. Only when all of them are done is the line
released, if one of them was streaming (R128, R202). -/
def State.serveSector (s : State) (d : DieId) (sec : Nat) : State :=
  let t := (((s.performEntry d sec).nearAtoms d sec).nearFar d sec).deliverFills d sec
  let u := if (t.die d).pend.length < (s.die d).pend.length then t.entryGone d sec else t
  if s.streamed t d sec then u.releaseRead d sec else u

/-- After tokens came: complete the die's request for the sector, perform what waited for it, hand the data over, and send
PDONE only then (R201 to R203). -/
def State.settle (s : State) (d : DieId) (sec : Nat) : State :=
  let s := s.wakeWaitc d sec
  match (s.die d).cache.reqs.find? (fun r => r.sec == sec) with
  | none => s.serveSector d sec
  | some r =>
    if s.requestDone (.die d) r then
      let s := s.modCache (.die d) (fun c => { c with reqs := c.reqs.filter (fun q => q.sec != sec) })
      (s.serveSector d sec).pdoneIfIdle (.die d)
    else s

/-! ### Writes of engines and of the device -/

/-- An engine's store of bytes for a crew (R205): each sector's bytes go to the die cache together and drop the L1 copies of its line on
the crew's core (R253, R270). The first number bounds the sectors. -/
def State.engineSectors (s : State) (d : DieId) (c : CoreId) (t : StoreTag) (pa : Nat) (bs : List Byte) : Nat → State
  | 0 => s
  | n + 1 =>
    if bs.isEmpty then s
    else
      let o := pa % 16
      let k := Nat.min bs.length (16 - o)
      let v : SectorData := sectorOf (fun i => if o ≤ i then bs.getD (i - o) 0 else 0)
      ((s.dieStore d t (pa / 16) (sectorMask o k) v).dropL1Line d c (pa / 16)).engineSectors d c t (pa + k) (bs.drop k) n

/-- An engine's store of bytes for a crew. -/
def State.engineStore (s : State) (d : DieId) (c : CoreId) (grid : List Nat) (pa : Nat) (bs : List Byte) (st pin : Bool) : State :=
  s.engineSectors d c { by_ := [], grid := grid, since := s.fresh, st := st, pin := pin } pa bs (bs.length / 16 + 2)

end Sys2Proof.Machine
end

