-- ==== Sys2Proof/Machine/Access.lean ====
section
/-! DEFINITION. Performing a strand's accesses: loads through the L1 and the die cache (R127, R128, R223, R253), stores into the
die cache (R203, R222), accesses to homes (R219, R220), remote packets (R221, R276 to R279, R282), what a release waits for
(R222, R226, R283), and atomic operations (R228 to R230). -/

namespace Sys2Proof.Machine

open Sys2Proof

/-! ### Waiting before an access -/

/-- An acquire load from a remote package has not returned: no later access is performed (R226). -/
def State.acqOutstanding (s : State) : Bool := s.focus.remotes.any (fun m => m.acq)

/-- The sequence number that bounds what a release in hand waits for: fixed when it first issues (R222). -/
def State.startRelease (s : State) : State :=
  match s.focus.relSeq with
  | some _ => s
  | none => { (s.setFocus { s.focus with relSeq := some s.fresh }) with fresh := s.fresh + 1 }

/-- Some pending entry of the base die holds a store that is older than the release (R222; both halves, DEDUCED, log 13). -/
def State.olderPending (s : State) : Bool :=
  match s.focus.relSeq with
  | some n => (s.pendings s.crew.die).any (fun e => e.since < n)
  | none => false

/-- Some entry of its own half that is older than the release, and that the strand may have read, could still be overtaken by a store of the
partner die, which has not read it (R203, R252; DEDUCED, log 27). -/
def State.olderUnseen (s : State) : Bool := match s.focus.relSeq with
  | some n => s.unseenBefore s.crew.die n
  | none => false

/-- Some store of the core that is older than the release, and that the strand may have read, has not come to the die cache or its home
(R252; DEDUCED, log 27). -/
def State.olderStores (s : State) : Bool := match s.focus.relSeq with
  | some n => s.coreOwes s.crew.die s.crew.core (fun _ => true) n
  | none => false

/-- Every earlier access of the issuing strand is complete to a scope (R226), and at scope die and wider what it may have read with it (R252;
DEDUCED, log 27). What has left the core for a home or another package is complete to crew scope and wider only when it has been
acknowledged, for the strands of that scope could read past it (R251; DEDUCED, log 28). -/
def State.completeTo (s : State) (scope : Nat) : Bool :=
  !(s.focus.remotes.any (fun m => m.reads)) && (scope < 4 || !s.olderPending) && (scope < 3 || !s.olderUnseen) && (scope < 2 || !s.olderStores) &&
  (scope < 1 || (s.focus.hstOut.isEmpty && s.focus.heldSt.isEmpty && !(s.focus.remotes.any (fun m => m.store)) && match s.focus.mcast with
    | some m => m.await.isEmpty
    | none => true))

/-- A deferred failure of a store, raised at the next release at sys scope (R280, R281). -/
def State.deferredStore (s : State) : Option Deferred := s.focus.deferred.find? (fun x => x.store)

/-- Raise a deferred failure (R281, R299). -/
def State.raiseDeferred (s : State) (x : Deferred) : State :=
  let t := s.setFocus { s.focus with deferred := s.focus.deferred.filter (fun y => y != x) }
  t.takeFault (t.faultRec 0x08 x.sub.toNat (BitVec.ofNat 8 x.lane) x.pc x.va true)

/-- The stores of the issuing strand's core that the die cache takes now reach it. -/
def State.drainMine (s : State) : State :=
  let hs := s.heldOn s.crew.die s.crew.core
  if hs.isEmpty then s else s.drainCore s.crew.die s.crew.core hs.length

/-- A release at a scope goes on only when every earlier access is complete to it (R226, R234). -/
def State.releaseGate (s : State) (scope : Nat) (k : State → State) : State :=
  let s := s.startRelease.drainMine
  if !s.completeTo scope then s.parkRetry (.wait .fence)
  else match (if 5 ≤ scope then s.deferredStore else none) with
    | some x => s.raiseDeferred x
    | none => k s

/-- Before any access to memory: acquire loads that are outstanding have returned, the core holds no store of the strand any more
(R222), what its acquires may have read has come as far as the others of their scope can tell (R252), and a release order is honoured
(R226). -/
def State.memGate (s : State) (k : State → State) : State :=
  if s.acqOutstanding then s.parkRetry .remoteLoad
  else
    let s := s.drainMine
    if !s.focus.heldSt.isEmpty || s.readOwed then s.parkRetry (.wait .pending)
    else if s.order.hasRel then s.releaseGate s.scope k
    else k s

/-- Before an access that writes: every remote load and atomic of the strand has read its value, for a store performed ahead of it could
let another strand feed that read (NO-LOAD-BUFFERING, R251; DEDUCED, log 98). -/
def State.writeGate (s : State) (k : State → State) : State :=
  if s.focus.got.isEmpty && s.focus.remotes.any (fun m => m.reads) then s.parkRetry .remoteLoad else s.memGate k

/-- What has been obtained of the unit's elements so far. -/
def State.keepGot (s : State) (l : List (Nat × Word)) : State :=
  s.setFocus { s.focus with got := l.foldl (fun g x => put x.1 x.2 g) s.focus.got }

/-! ### Requests to homes (R209, R219, R220) -/

/-- Ask a home for element `i` of the unit in hand, once. -/
def State.askHome (s : State) (i : Nat) (sec : Nat) (mk : Requester → Msg) : State :=
  if (look i s.focus.asked).isSome then s
  else
    let txn := s.fresh
    let s := { s with fresh := s.fresh + 1 }
    let s := s.setFocus { s.focus with asked := put i txn s.focus.asked }
    s.sendTo (s.homeHolder sec) (mk (.die s.crew.die txn))

/-- A store of the issuing strand's core to a sector is on its way to a home. -/
def State.hstPending (s : State) (sec : Nat) : Bool := s.coreHst s.crew.die s.crew.core sec

/-! ### Loads -/

/-- A load may be served by the L1 and fill it (R127). -/
def State.l1Serves (s : State) (place : Nat) : Bool := s.scope < 4 && !s.hintNl1 && !s.hintSt && place < 2
/-- A load may fill the L1 (R127). -/
def State.l1Fills (s : State) (place : Nat) : Bool := !s.hintNl1 && !s.hintSt && place < 2

/-- The strand waits for a sector, of which it reads the bytes of `mask`. -/
def State.want (s : State) (place sec : Nat) (mask : BitVec 16) (fill rel : Bool) : State :=
  let old := match look sec s.focus.wants with
    | some w => w.mask
    | none => 0
  let w : Want := { mask := old ||| mask, wide := decide (4 ≤ s.scope), place := place, fill := fill, rel := rel }
  s.setFocus { s.focus with wants := put sec w s.focus.wants }

/-- A sector as the die cache gives it to the issuing strand now: its data where the bytes asked for are there, or nothing, with
a GETS on its way (R201, R207, R223, R253). `fill` says that the read fills the L1, `rel` that the line is released after it. -/
def State.readSector (s : State) (place sec : Nat) (mask : BitVec 16) (fill rel : Bool) : State × Option SectorData :=
  let d := s.crew.die
  let c := s.crew.core
  let h := s.holdOf (.die d) sec
  let ps := (s.pendings d).filter (fun e => e.sec == sec)
  let hs := (s.heldOn d c).filter (fun y => y.2.sec == sec)
  let held := mergeHeld (hs.map (fun y => y.2)) sec
  let covered := hs.foldl (fun m y => m ||| y.2.mask) (ps.foldl (fun m e => m ||| e.mask) (0 : BitVec 16))
  match look sec s.focus.fills with
  | some v => (s, some v)
  | none =>
    if 4 ≤ s.scope && s.othersBytes d c s.focus.uid sec mask then (s, none)
    else if h.count != 0 && h.known then
      let v := held (mergePending ps sec h.data)
      let s := s.readL1 d c fill sec 0xFFFF mask v
      let s := if place = 1 then s.pinSector d sec else s
      (if rel then s.victimise d sec else s, some v)
    else if (covered &&& mask) == mask then
      let v := held (mergePending ps sec 0)
      (s.readL1 d c fill sec covered mask v, some v)
    else ((s.want place sec mask fill rel).request (.die d) sec false, none)

/-- One element of a global load in this package: its value, or nothing yet. `l1` says that the L1 may serve it and the hints of the
QUAL prefix act: not for `waitc` (R51, R127, R227). While a store of the core to the sector is on its way to a home, or, for a read at the
home, one waits in the base die or the core, it waits (R220, R251). -/
def State.loadLocal (s : State) (l1 : Bool) (size : Nat) (e : Elem) : State × Option Word :=
  let sec := e.pa / 16
  let mask := sectorMask (e.pa % 16) size
  let place := ptePlace e.leaf.pte
  match look e.lane s.focus.got with
  | some v => (s, some v)
  | none =>
    if s.hstPending sec then (s, none)
    else if place = 3 then
      if (s.pendings s.crew.die).any (fun p => p.sec == sec) || (s.heldOn s.crew.die s.crew.core).any (fun y => y.2.sec == sec)
          || (look e.lane s.focus.asked).isSome then (s, none)
      else
        let s := s.setFocus { s.focus with homeReads := s.focus.homeReads ++ [(s.fresh, e.pa, size)] }
        (s.askHome e.lane sec (fun r => .hld { src := r, sec := sec, mask := mask }), none)
    else match (if l1 && s.l1Serves place then s.l1Copy s.crew.die s.crew.core sec mask else none) with
      | some c => (s, some (sectorTake c.data (e.pa % 16) size))
      | none => match s.readSector place sec mask (l1 && s.l1Fills place) (place == 2 || (l1 && s.hintSt)) with
        | (s, some v) => (s, some (sectorTake v (e.pa % 16) size))
        | (s, none) => (s, none)

/-- The elements of a load in their order; what has been read is kept until all of it is there. -/
def State.loadAll (s : State) (l1 : Bool) (size : Nat) : List Elem → State × List (Nat × Word) × Bool
  | [] => (s, [], true)
  | e :: t => match s.loadLocal l1 size e with
    | (s, some v) =>
      let (s, vs, ok) := s.loadAll l1 size t
      (s, (e.lane, v) :: vs, ok)
    | (s, none) =>
      let (s, vs, _) := s.loadAll l1 size t
      (s, vs, false)

/-- Load every element, then go on with the values; until all are there the unit is not ready (R326). -/
def State.loadThen (s : State) (l1 : Bool) (size : Nat) (es : List Elem) (k : State → List (Nat × Word) → State) : State :=
  match s.loadAll l1 size es with
  | (s, vs, true) => k s vs
  | (s, vs, false) => ((s.keepChecked es).keepGot vs).notReady

/-! ### Packets (R276) -/

/-- A packet of the issuing strand's die to the package of a FAB entry. -/
def State.packet (s : State) (key : BitVec 32) (dpkg : BitVec 16) (page off : Nat) (kind : Nat) (txn nbytes : Nat)
    (atom : Option AtomArgs) (payload : List Byte) : Packet :=
  { key := key, dpkg := dpkg, ddie := 0, kind := BitVec.ofNat 8 kind, spkg := s.pkgId, sdie := s.crew.die, status := 0,
    nbytes := BitVec.ofNat 16 nbytes, txn := BitVec.ofNat 16 txn,
    addr := BitVec.ofNat 64 (page % 65536 * 65536 + off), frag := 0, khdr := none, atom := atom, payload := payload }

/-- Put a packet on its port; a port whose table lacks the key drops and counts it (R277). -/
def State.emit (s : State) (p : PortId) (pk : Packet) : State :=
  if s.ports[p].member pk.key then { s with outbox := s.outbox ++ [(p, pk)] }
  else { s with ports := s.ports.set p { s.ports[p] with drop := s.ports[p].drop + 1 } }

/-- The elements of an access that go to another package. -/
def fabElems (es : List Elem) : List Elem := es.filter (fun e => pteFab e.leaf.pte)
/-- The elements that stay in this package. -/
def localElems (es : List Elem) : List Elem := es.filter (fun e => !(pteFab e.leaf.pte))

/-! ### Program order of remote accesses (R279) -/

/-- Two packets name a byte of one remote location (R278). -/
def sameLocation (a b : PortId × Packet) : Bool :=
  a.2.dpkg == b.2.dpkg && a.2.addr.toNat < b.2.addr.toNat + b.2.nbytes.toNat && b.2.addr.toNat < a.2.addr.toNat + a.2.nbytes.toNat

/-- The elements of a strand's remote accesses that are not answered. -/
def Strand.parts (f : Strand) : List RemotePart := f.remotes.flatMap (fun m => m.parts) ++ match f.mcast with
  | some m => m.await.map (fun a => a.2)
  | none => []

/-- An earlier access of the strand to the location of a part is not answered (R279). -/
def Strand.keepsBack (f : Strand) (p : RemotePart) : Bool := f.parts.any (fun q => q.seq < p.seq && match q.out, p.out with
  | some a, some b => sameLocation a b
  | _, _ => false)

/-- The packet of a part leaves. -/
def State.emitPart (s : State) (p : RemotePart) : State := match p.out with
  | some o => s.emit o.1 o.2
  | none => s

/-- Send every packet of a strand that nothing keeps back: accesses to one remote location leave one after the other, each when
the one before has been answered, which keeps them in program order (R279; DEDUCED, log 29). Lanes that share an element share its one
packet (R109, R136). -/
def State.sendHeld (s : State) (f : Strand) : State × Strand :=
  let go := (f.parts.filter (fun p => p.held && !f.keepsBack p)).foldr (fun p l => upsert (fun q => q.seq) p l) []
  let out := fun (p : RemotePart) => if go.any (fun q => q.seq == p.seq) then { p with held := false, sent := s.time } else p
  (go.foldl State.emitPart s,
   { f with remotes := f.remotes.map (fun m => { m with parts := m.parts.map out }),
            mcast := f.mcast.map (fun m => { m with await := m.await.map (fun a => (a.1, out a.2)) }) })

/-- The issuing strand's packets that may leave do. -/
def State.sendMine (s : State) : State :=
  let r := s.sendHeld s.focus
  r.1.setFocus r.2

/-- The packet of a FAB element with its port: kind, transaction, operands and data; the window page is the entry's, counted on
from the block's first page (R278). -/
def State.elemPacket (s : State) (e : Elem) (kind txn size : Nat) (atom : Option AtomArgs) (data : List Byte) :
    Option (PortId × Packet) :=
  match s.keyOf s.crew.die e.leaf.pte with
  | none => none
  | some key => (s.outPort key).map (fun p =>
      (p, s.packet key (BitVec.ofNat 16 (ptePkg e.leaf.pte)) (e.pa / 65536) (e.pa % 65536) kind txn size atom data))

/-- The parts of a remote access, numbered from `n` on. -/
def State.remoteParts (s : State) (kind size : Nat) (mk : Elem → Option AtomArgs × List Byte) : Nat → List Elem → List RemotePart
  | _, [] => []
  | n, e :: t =>
    { seq := n, txn := n % 65536, lane := e.lane, va := BitVec.ofNat 64 e.va,
      out := s.elemPacket e kind (n % 65536) size (mk e).1 (mk e).2, held := true, sent := s.time } :: s.remoteParts kind size mk (n + 1) t

/-- Issue a remote access of several elements with its record (R279): `mk` gives each element's operands and data. Only a write packet
(kind 2) reads nothing. -/
def State.remoteIssue (s : State) (es : List Elem) (kind size : Nat) (load store acq : Bool) (dest : Dest)
    (mk : Elem → Option AtomArgs × List Byte) : State :=
  let r : Remote := { load := load, store := store, reads := kind != 2, acq := acq, acqAt := if acq then s.scope else 0, dest := dest, pc := s.focus.unitPc,
                      parts := s.remoteParts kind size mk s.fresh es }
  ({ (s.setFocus { s.focus with remotes := s.focus.remotes ++ [r] }) with fresh := s.fresh + es.length } : State).sendMine

/-- Outstanding remote loads (R279). -/
def State.remoteLoads (s : State) : Nat := (s.focus.remotes.filter (fun m => m.load)).length

/-- A remote load, gather or returning atomic goes on unless 16 are outstanding (R279). -/
def State.remoteRoom (s : State) (es : List Elem) (k : State → State) : State :=
  if !(fabElems es).isEmpty && 16 ≤ s.remoteLoads then (s.keepChecked es).parkRetry .remoteLoad else k s

/-! ### Stores -/

/-- The bytes of an element. -/
def elemBytes (size : Nat) (v : Nat) : List Byte := leBytes size v

/-- One element of a store inside this package: to the home for PLACE 3, else into the die cache; the core's own L1 copy of its
bytes is updated (R127, R203, R220). A store that the die cache cannot take now, and every later one of the core, is held by the core
(R222; DEDUCED, log 33). -/
def State.storeLocal (s : State) (size : Nat) (e : Elem) (v : Nat) : State :=
  let d := s.crew.die
  let sec := e.pa / 16
  let mask := sectorMask (e.pa % 16) size
  let data := sectorPlace (e.pa % 16) size (BitVec.ofNat 64 v)
  let s := s.patchL1 d s.crew.core sec mask data
  let since := if (look e.lane s.focus.checked).isSome then s.sinceOf d e.leaf else s.fresh
  let st := s.hintSt || ptePlace e.leaf.pte == 2
  let pin := ptePlace e.leaf.pte == 1
  if ptePlace e.leaf.pte = 3 then
    let txn := s.fresh
    let s := { (s.setFocus { s.focus with hstOut := s.focus.hstOut ++ [(txn, sec)] }) with fresh := txn + 1 }
    s.sendTo (s.homeHolder sec) (.hst { src := .die d txn, sec := sec, mask := mask, data := data })
  else if s.storeFits d sec && (s.heldOn d s.crew.core).isEmpty then
    s.dieStore d { by_ := [s.focus.uid], grid := [s.crew.slot.val], since := since, st := st, pin := pin } sec mask data
  else
    let h : HeldStore := { sec := sec, mask := mask, data := data, st := st, pin := pin, seq := s.fresh, since := since }
    { (s.setFocus { s.focus with heldSt := s.focus.heldSt ++ [h] }) with fresh := s.fresh + 1 }

/-- A store must wait: an earlier store of the core to the same sector is on its way to a home, or it goes to a home itself and one to that
sector waits in the base die or in the core (R220, R222, R223, R251). -/
def State.storeStalls (s : State) (es : List Elem) : Bool :=
  (localElems es).any (fun e => s.hstPending (e.pa / 16) || (ptePlace e.leaf.pte == 3 &&
    ((s.pendings s.crew.die).any (fun p => p.sec == e.pa / 16) || (s.heldOn s.crew.die s.crew.core).any (fun y => y.2.sec == e.pa / 16))))

/-- The multicast group of a store, if it has one. -/
def groupOfElems (es : List Elem) : Option Nat := es.findSome? (fun e => pteGroup e.leaf.pte)

/-- The members of a group (R282): number, package, window page. -/
def State.members (s : State) (d : DieId) (g : Nat) : List (Nat × Nat × Nat) :=
  (below 64).filterMap (fun m => match look (64 * g + m) (s.die d).ctl.mcgrp with
    | some w => if bit w 63 then some (m, w.toNat / 2 ^ 32 % 2 ^ 16, w.toNat / 2 ^ 16 % 2 ^ 16) else none
    | none => none)

/-- Send one store element to every member of its group and record the acknowledgements awaited (R282, R283). -/
def State.multicast (s : State) (size : Nat) (e : Elem) (v : Nat) (g : Nat) : State :=
  match s.keyOf s.crew.die e.leaf.pte with
  | none => s
  | some key => match s.outPort key with
    | none => s
    | some p =>
      (s.members s.crew.die g).foldl (fun s m =>
        let n := s.fresh
        let page := m.2.2 + (if e.leaf.level = 1 then e.va / 65536 % 8192 else 0)
        let x : RemotePart :=
          { seq := n, txn := n % 65536, lane := e.lane, va := BitVec.ofNat 64 e.va, held := true, sent := s.time,
            out := some (p, s.packet key (BitVec.ofNat 16 m.2.1) page (e.va % 65536) 9 n size none (elemBytes size v)) }
        let old := s.focus.mcast.getD { group := BitVec.ofNat 8 g, await := [], failed := 0 }
        ({ (s.setFocus { s.focus with mcast := some { old with group := BitVec.ofNat 8 g, await := old.await ++ [(m.1, x)] } })
          with fresh := n + 1 } : State).sendMine) s

/-- One remote store element: a write packet, or a multicast write to each member (R278, R282). -/
def State.storeFab (s : State) (size : Nat) (e : Elem) (v : Nat) : State :=
  match pteGroup e.leaf.pte with
  | some g => s.multicast size e v g
  | none => s.remoteIssue [e] 2 size false true false .none (fun _ => (none, elemBytes size v))

/-- A multicast store meets another group's record (R283): it parks until the acknowledgements are in, and then traps
MCAST_PARTIAL subcode 2 when members have failed (DESIGN CHOICE, log 89). -/
def State.mcastGate (s : State) (es : List Elem) (k : State → State) : State :=
  match groupOfElems es, s.focus.mcast with
  | some g, some m =>
    if m.group.toNat = g then k s
    else if !m.await.isEmpty then (s.keepChecked es).parkRetry (.wait .mcast)
    else if m.failed != 0 then
      let t := s.setFocus { s.focus with mcast := none, mcerr := m.failed }
      t.takeFault { t.faultRec 0x0F 2 0 t.focus.unitPc (BitVec.ofNat 64 m.group.toNat) true with lane := 0 }
    else k (s.setFocus { s.focus with mcast := none })
  | _, _ => k s

/-- One store element wherever it goes. -/
def State.storeElem (s : State) (size : Nat) (e : Elem) (v : Nat) : State :=
  if pteFab e.leaf.pte then s.storeFab size e v else s.storeLocal size e v

/-- The elements up to the first of another multicast group than the one before it, and the rest (R283). -/
def mcSplit : Option Nat → List Elem → List Elem × List Elem
  | _, [] => ([], [])
  | g, e :: t => match g, pteGroup e.leaf.pte with
    | some a, some b => if a = b then let r := mcSplit g t; (e :: r.1, r.2) else ([], e :: t)
    | none, some b => let r := mcSplit (some b) t; (e :: r.1, r.2)
    | _, none => let r := mcSplit g t; (e :: r.1, r.2)

/-- Elements have been performed: they are kept as such, and with them those of `all` whose address one of them has replaced (R136). -/
def State.keepStored (s : State) (all es : List Elem) : State :=
  s.keepGot ((all.filter (fun e => es.any (fun x => x.va == e.va))).map (fun e => (e.lane, 0)))

/-- Store the elements, in their order: those of a second multicast group once the acknowledgements of the first are in (R283). `all` are
the elements of the access that these stand for. -/
def State.storeGroups (s : State) (size : Nat) (all : List Elem) (val : Nat → Nat) (k : State → State) : Nat → List Elem → State
  | 0, _ => k s
  | n + 1, es => s.mcastGate es (fun s =>
    let r := mcSplit none es
    let s := r.1.foldl (fun s e => s.storeElem size e (val e.lane)) s
    if r.2.isEmpty then k s else (s.keepStored all r.1).storeGroups size all val k n r.2)

/-- Store the elements, in their order, once nothing keeps them back and the dirty bits of their pages are set (R294). `val` gives an
element's value. -/
def State.storeThen (s : State) (size : Nat) (all es : List Elem) (val : Nat → Nat) (k : State → State) : State :=
  if s.storeStalls es then (s.keepChecked es).parkRetry (.wait .pending)
  else
    let r := s.markAll s.crew.die (es.map (fun e => e.leaf))
    if !r.2 then (r.1.keepChecked es).parkRetry (.wait .pending)
    else r.1.storeGroups size all val k (es.length + 1) es

/-! ### Atomics (R228 to R233) -/

/-- One atomic element inside this package: its old value, or nothing yet. Near where the die cache holds the sector in E or M,
else far at the home (R219, R220); on host memory the die cache gathers the tokens and it executes near (DEDUCED, log 14). It
waits until the base die's pending entries for the sector are performed (R228, R253; DEDUCED, log 14). -/
def State.atomElem (s : State) (e : Elem) (a : AtomArgs) : State × Option Word :=
  let d := s.crew.die
  let sec := e.pa / 16
  let place := ptePlace e.leaf.pte
  match look e.lane s.focus.got with
  | some v => (s, some v)
  | none =>
    if (look e.lane s.focus.asked).isSome then (s, none)
    else if s.hstPending sec || (s.pendings d).any (fun p => p.sec == sec) || (s.heldOn d s.crew.core).any (fun y => y.2.sec == sec) then (s, none)
    else
      let s := s.markDirty d e.leaf
      if !s.dirtySet e.leaf then (s, none)
      else if place != 3 && s.ownsAll d sec then
        let r := s.nearAtomic d s.crew.core sec (e.pa % 16) a
        let s := r.1.setFocus { r.1.focus with near := none }
        let s := if place = 1 then s.pinSector d sec else s
        ((if place = 2 then s.victimise d sec else s).keepGot [(e.lane, r.2)], some r.2)
      else if inHost e.pa && place != 3 then
        let x : NearAtom := { lane := e.lane, sec := sec, off := e.pa % 16, args := a, st := place == 2, pin := place == 1 }
        ((s.setFocus { s.focus with near := some x }).request (.die d) sec true, none)
      else
        let s := if place = 3 then s else s.sendAll (.die d) (s.homeHolder sec) sec false
        (s.askHome e.lane sec (fun r => .atom { src := r, sec := sec, off := e.pa % 16, args := a }), none)

/-- A lane of an atomic on another package leaves, its page's dirty bit set: lanes of one instruction share one record (R231, R279). -/
def State.atomFar (s : State) (size : Nat) (ret : Bool) (dest : Dest) (e : Elem) (a : AtomArgs) : State :=
  if (look e.lane s.focus.got).isSome then s
  else
    let ps := s.remoteParts 4 size (fun _ => (some a, [])) s.fresh [e]
    let mine := fun (m : Remote) => m.pc == s.focus.unitPc && m.dest == dest && m.load == ret && m.parts.any (fun p => (look p.lane s.focus.got).isSome)
    let s := match s.focus.remotes.find? mine with
      | some _ =>
        let s := s.setFocus { s.focus with remotes := s.focus.remotes.map (fun m => if mine m then { m with parts := m.parts ++ ps } else m) }
        ({ s with fresh := s.fresh + 1 } : State).sendMine
      | none => s.remoteIssue [e] 4 size ret (!ret) s.order.hasAcq dest (fun _ => (some a, []))
    s.keepGot [(e.lane, 0)]

/-- The lanes of an atomic, one after the other in ascending order (R228, R231, R246): the old values of those in this package once all
are there; those of other packages leave in their turn. -/
def State.atomAll (s : State) (size : Nat) (ret : Bool) (dest : Dest) (args : Nat → AtomArgs) : List Elem → State × List (Nat × Word) × Bool
  | [] => (s, [], true)
  | e :: t =>
    if pteFab e.leaf.pte then
      let s := s.markDirty s.crew.die e.leaf
      if s.dirtySet e.leaf then (s.atomFar size ret dest e (args e.lane)).atomAll size ret dest args t else (s, [], false)
    else match s.atomElem e (args e.lane) with
      | (s, none) => (s, [], false)
      | (s, some v) =>
        let (s, vs, ok) := s.atomAll size ret dest args t
        (s, (e.lane, v) :: vs, ok)

/-! ### Scratchpad elements (R129 to R131) -/

/-- A scratchpad address is valid (R129). -/
def State.spOk (s : State) (a size : Nat) : Bool := a < s.crew.hdr.scratch && a + size ≤ s.crew.hdr.scratch && a % size == 0

/-- Kill lanes with their addresses, lowest lane first (R130, R131). -/
def State.kill (s : State) (ks : List (Nat × Nat)) : State :=
  match ks with
  | [] => s
  | (_, a) :: _ =>
    let m := maskOf (ks.map (fun x => x.1))
    let c := s.crew
    let s := s.setCrew (if c.kills = 0 then { c with kills := m, firstOff := BitVec.ofNat 64 a, firstPc := s.focus.unitPc }
                        else { c with kills := c.kills ||| m })
    s.setFocus { s.focus with live := s.focus.live &&& ~~~m, lfault := s.focus.lfault ||| m }

end Sys2Proof.Machine
end

