-- ==== Sys2Proof/Machine/Fetch.lean ====
section
/-! DEFINITION. Fetching: the kernel image (R47), the words of an issue unit and the checks made before its instruction (R43,
R44, R46, R50 to R52, R55, R56), execute breakpoints (R313) and the owed step event (R312). -/

namespace Sys2Proof.Machine

open Sys2Proof

/-! ### The kernel image (R47) -/

/-- The admitted launch in a grid slot of a die. -/
def State.gridAt (s : State) (d : DieId) (slot : GridSlot) : Option Grid := (s.die d).port.grids.find? (fun g => g.slot == slot)

/-- Change an admitted launch. -/
def State.modGrid (s : State) (d : DieId) (slot : GridSlot) (f : Grid → Grid) : State :=
  s.modPort d (fun p => { p with grids := p.grids.map (fun g => if g.slot == slot then f g else g) })

/-- Replace the bytes of a sector in a memory listing. -/
def overlay (blank : Nat → Byte) (mem : List Host.Cell) (sec : Nat) (mask : BitVec 16) (v : SectorData) : List Host.Cell :=
  (below 16).foldl (fun m k =>
    if mask.getLsbD k then
      let a := 16 * sec + k
      if sectorByte v k = blank a then del a m else put a (sectorByte v k) m
    else m) mem

/-- Memory as a die sees it now, as a listing: memory, under the dirty sectors, under the pending entries of the base die (DEDUCED, log 93). -/
def State.snapshot (s : State) (d : DieId) : List Host.Cell :=
  let dirty := cacheHolders.foldl (fun l h => l ++ (s.cache h).holds.filter (fun x => x.own && x.dirty)) []
  let m := dirty.foldl (fun m x => overlay s.blank m x.sec 0xFFFF x.data) s.mem
  let fly := s.net.filterMap (fun f => match f.msg with
    | .tok t _ => if t.own && t.dirty then t.data.map (fun v => (t.sec, v)) else none
    | _ => none)
  let m := fly.foldl (fun m x => overlay s.blank m x.1 0xFFFF x.2) m
  (s.pendings d).foldl (fun m e => overlay s.blank m e.sec e.mask e.data) m

/-- `n` bytes of an image as a number. -/
def State.imageRead (s : State) (img : List Host.Cell) (pa n : Nat) : Nat :=
  leNat ((below n).map (fun k => (look (pa + k) img).getD (s.blank (pa + k))))

/-- The walk through the tables that an image holds. -/
def State.imageWalk (s : State) (img : List Host.Cell) (root va : Nat) : Option TlbEntry :=
  walkWith (fun a => BitVec.ofNat 64 (s.imageRead img a 8)) s.paOk root va

/-- The physical address of a word of a launch's image: where the tables of the image map it, else where the tables map it now. -/
def State.imagePa (s : State) (g : Grid) (va now : Nat) : Nat :=
  match s.imageWalk g.image g.imgRoot va with
  | some l => if s.leafOk l && !pteFab l.pte then leafPa l va else now
  | none => now

/-- The result of fetching one word: the word, the fault of the fetch, or neither while its data comes from the host. -/
inductive Got where
  | word (w : W32)
  | bad (code sub : Nat)
  | wait
  deriving DecidableEq, Repr

/-- The word of a launch's image at a virtual address. A sector of host memory that the image does not hold, on a page that no table mapped
at the admission, is asked of the host at its first fetch (DEDUCED, log 93). -/
def State.imageWord (s : State) (g : Grid) (va now : Nat) : State × Got :=
  let pa := s.imagePa g va now
  if !inHost pa || g.known.contains (pa / 16) then (s, .word (BitVec.ofNat 32 (s.imageRead g.image pa 4)))
  else if s.homeReady (s.homeOf pa) (pa / 16) false then (s, .word (BitVec.ofNat 32 (s.readWord s.crew.die pa 4).toNat))
  else (s.askHost (s.homeOf pa) (pa / 16) false, .wait)

/-! ### What the image needs before the first crew's admission (R47) -/

/-- The entries that a table has in a listing of memory, by number. -/
def tableEntries (img : List Host.Cell) (base : Nat) : List Nat :=
  (img.filter (fun c => base ≤ c.1 && c.1 < base + 65536)).foldl (fun l c =>
    if l.head? = some ((c.1 - base) / 8) then l else (c.1 - base) / 8 :: l) []

/-- The executable leaves of this package's memory that the tables of an image map. -/
def State.execLeaves (s : State) (img : List Host.Cell) (root : Nat) : List TlbEntry :=
  let rd := fun a => BitVec.ofNat 64 (s.imageRead img a 8)
  let under := fun (e : Word) => if ptePointer e then tableEntries img (pteFrame e * 2 ^ 16) else []
  let vas := (if root = 0 then [] else tableEntries img root).flatMap (fun i =>
    let e := rd (root + 8 * i)
    (under e).flatMap (fun j =>
      let f := rd (pteFrame e * 2 ^ 16 + 8 * j)
      let va := i * 2 ^ 42 + j * 2 ^ 29
      if ptePointer f then (under f).map (fun k => va + k * 2 ^ 16) else [va]))
  (vas.filterMap (s.imageWalk img root)).filter (fun l => s.leafOk l && bit l.pte 3 && !pteFab l.pte)

/-- The sectors of a die's executable pages whose bytes the host may have newer than the device: of host memory, those that its home has not
obtained; of device memory, those that a host agent holds whole (R47, R224). -/
def State.imageMissing (s : State) (d : DieId) : List Nat :=
  let ls := s.execLeaves (s.snapshot d) (s.die d).ctl.root
  let first := fun (l : TlbEntry) => pteFrame l.pte * 2 ^ 12
  let size := fun (l : TlbEntry) => 2 ^ levelBits l.level / 16
  let host := (ls.filter (fun l => inHost (pteFrame l.pte * 2 ^ 16))).flatMap (fun l =>
    ((below (size l)).map (fun i => first l + i)).filter (fun n => !s.homeReady (s.homeOf (16 * n)) n false))
  let held := ((below 4).flatMap (fun k => (s.cache (.agent (Fin.ofNat 4 k))).holds.filter (fun x => x.count == 16))).map (fun x => x.sec)
  host ++ held.filter (fun n => ls.any (fun l => first l ≤ n && n < first l + size l))

/-- The host is asked for the sectors that the image needs: RdShared for its own memory, a GETS for the device's, which makes the host agent
snoop the host (R47, R224). -/
def State.imageAsk (s : State) (d : DieId) (secs : List Nat) : State :=
  secs.foldl (fun s n => if inHost (16 * n) then s.askHost (s.homeOf (16 * n)) n false else s.request (.die d) n false) s

/-- The sectors of host memory whose data their homes have. -/
def State.hostKnown (s : State) : List Nat := (below 4).flatMap (fun k => (s.home (.agent (Fin.ofNat 4 k))).hostHeld.map (fun x => x.1))

/-- Fetch the word at an address for a crew (R47): the fault of a fetch that cannot complete, else the word of the image, which
is the same for every fetch of the launch. -/
def State.fetchWord (s : State) (va : Nat) : State × Got :=
  if 2 ^ 55 ≤ va then (s, .bad 0x04 0)
  else match s.translate s.crew.die s.crew.core .fetch va with
    | (s, .bad c sub) => (s, .bad c sub)
    | (s, .hold _) => (s, .bad 0x05 4)
    | (s, .ok l) => match s.gridAt s.crew.die s.crew.slot with
      | none => (s, .word (BitVec.ofNat 32 (s.readWord s.crew.die (leafPa l va) 4).toNat))
      | some g => match look va g.fetched with
        | some w => (s, .word w)
        | none => match s.imageWord g va (leafPa l va) with
          | (s, .word w) => (s.modGrid s.crew.die s.crew.slot (fun g => { g with fetched := put va w g.fetched }), .word w)
          | r => r

/-! ### Eligibility for prefixes (R50, R51), by the major and the function code of a word that is listed (DEDUCED, log 15) -/

/-- The major opcode of a word. -/
def majorOf (w : W32) : Nat := w.toNat / 2 ^ 25 % 64

/-- A prefix word. -/
def isPrefix (w : W32) : Bool := majorOf w == 0x27 || majorOf w == 0x28

/-- The word's major and function are listed in R53 or R54 (R55). -/
def listed (w : W32) : Bool := match decodeWord w with
  | .error (.illegal 1) => false
  | .error (.illegal 2) => false
  | _ => true

/-- The route fields that an instruction of a major gives an operand: A, B, C; `none` where it takes no ROUTE prefix (R50). -/
def routeSlots (w : W32) : Option (Bool × Bool × Bool) :=
  let fn4 := w.toNat / 2 ^ 21 % 16
  match majorOf w with
  | 0x18 => some (true, true, false)
  | 0x1D => some (true, fn4 < 6 || fn4 == 9, false)
  | 0x21 => some (true, fn4 == 2 || fn4 == 3 || fn4 == 5, false)
  | 0x1A => some (true, fn4 == 8 || fn4 == 9, fn4 == 9)
  | 0x20 => some (true, false, false)
  | 0x19 => some (true, false, false)
  | 0x1E => some (true, false, false)
  | 0x1B => some (true, false, false)
  | 0x1F => some (true, true, true)
  | 0x22 => some (true, true, false)
  | 0x23 => some (true, true, false)
  | 0x25 => some (fn4 == 0 || fn4 == 1 || fn4 == 6 || fn4 == 7 || fn4 == 11, false, false)
  | 0x2A => some (false, false, true)
  | 0x2D => some (false, false, true)
  | 0x2F => some (false, false, true)
  | 0x2B => some (false, true, false)
  | 0x30 => some (false, true, false)
  | 0x2C => some (false, true, true)
  | 0x31 => some (false, true, true)
  | 0x3D => if w.toNat / 2 ^ 23 % 4 = 1 then some (true, false, false) else none
  | _ => none

/-- The majors of the instructions that take a QUAL prefix (R51). -/
def qualTakes (w : W32) : Bool :=
  let m := majorOf w
  (0x29 ≤ m && m ≤ 0x36) || (m == 0 && w.toNat / 2 ^ 18 % 128 == 6)

/-- The codes of a ROUTE word fall in fields with an operand. -/
def routeFits (r : W32) (slots : Bool × Bool × Bool) : Bool :=
  (slots.1 || r.toNat / 2 ^ 17 % 256 == 0) && (slots.2.1 || r.toNat / 2 ^ 9 % 256 == 0)
    && (slots.2.2 || r.toNat / 2 % 256 == 0)

/-- One prefix suits the instruction word: a listed instruction that takes it (R50 to R52). -/
def prefixFits (p w : W32) : Bool :=
  if !listed w then false
  else if majorOf p = 0x28 then qualTakes w
  else match routeSlots w with
    | some sl => routeFits p sl
    | none => false

/-- The prefixes of a unit break no rule of R52. -/
def prefixesOk (ps : List W32) (w : W32) : Bool :=
  !isPrefix w && ps.all (fun p => !p.getLsbD 31 && prefixFits p w) && match ps with
    | [a, b] => majorOf a == 0x27 && majorOf b == 0x28
    | _ => true

/-! ### The issue unit -/

/-- A fetched unit: its prefixes and its instruction, or the state in which its fault has been taken or its words are still to come. -/
inductive FUnit where
  | unit (s : State) (ps : List Instr) (i : Instr)
  | stop (s : State)

/-- The words of the unit in hand, first to last: at most two prefixes and the word after them; or code, subcode and address of a fault, or
none of these while a word comes from the host. `run` counts the words of the run before this one. -/
def State.fetchWords (s : State) : Nat → Nat → Nat → List W32 → State × Except (Option (Nat × Nat × Nat)) (List W32)
  | 0, _, _, ws => (s, .ok ws)
  | n + 1, va, run, ws =>
    if 24 ≤ run && !s.crew.hdr.step then (s, .error (some (0x0A, 2, 0)))
    else match s.fetchWord va with
      | (s, .wait) => (s, .error none)
      | (s, .bad c sub) => (s, .error (some (c, sub, va)))
      | (s, .word w) =>
        if isPrefix w && n != 0 then s.fetchWords n ((va + 4) % 2 ^ 64) (run + 1) (ws ++ [w]) else (s, .ok (ws ++ [w]))

/-- The subcode of a decoding error. -/
def DecErr.sub : DecErr → Option Nat
  | .illegal n => some n
  | _ => none

/-- The lowest ILLEGAL subcode of the words of a unit that are no instruction (R56). -/
def lowestIllegal (ws : List W32) : Option Nat :=
  (ws.filterMap (fun w => match decodeWord w with
    | .error (.illegal n) => some n
    | _ => none)).foldl (fun a n => match a with
      | none => some n
      | some m => some (Nat.min m n)) none

/-- Decode the words of a unit, in the order of R56: PREFIX, RUNEND, ILLEGAL. -/
def State.decodeUnit (s : State) (ws : List W32) : FUnit :=
  match ws.reverse with
  | [] => .stop s
  | w :: rp =>
    let ps := rp.reverse
    if !prefixesOk ps w then .stop (s.raise 0x0A 1 0)
    else match decodeWord w with
      | .error .runEnd => .stop (s.raise 0x0A 3 0)
      | r => match lowestIllegal ws with
        | some n => .stop (s.illegal n)
        | none => match r with
          | .ok i => .unit s (ps.filterMap (fun p => (decodeWord p).toOption)) i
          | .error _ => .stop (s.raise 0x0A 1 0)

/-- The unit proper: execute breakpoints, then its words. -/
def State.afterDue (s : State) : FUnit :=
  let s := s.setFocus { s.focus with stepDue := none }
  if s.brkHit [1] s.focus.pc.toNat then .stop (s.raise 0x0D 3 0)
  else match s.fetchWords 3 s.focus.pc.toNat s.focus.run [] with
    | (s, .error none) => .stop s.notReady
    | (s, .error (some (0x0A, sub, _))) => .stop (s.raise 0x0A sub 0)
    | (s, .error (some (c, sub, va))) =>
      .stop (s.takeFault { s.faultRec c sub s.guardLane (BitVec.ofNat 64 va) (BitVec.ofNat 64 va) false with pc := BitVec.ofNat 64 va })
    | (s, .ok ws) => s.decodeUnit ws

/-- Fetch and decode the unit at the issuing strand's PC (R43, R47, R52, R56). A fetch fault's PC and ADDRESS are the fetch
address (DEDUCED, log 36). -/
def State.fetchUnit (s : State) : FUnit :=
  let s := s.setFocus { s.focus with unitPc := s.focus.pc, unitLane := s.guardLane }
  match s.focus.stepDue with
  | some u =>
    if s.crew.hdr.step && bit s.crew.debug 0 then
      .stop (s.takeFault (s.faultRec 0x0D 2 s.guardLane s.focus.pc u false))
    else s.afterDue
  | none => s.afterDue

end Sys2Proof.Machine
end

