-- ==== Sys2Proof/Machine/Sync.lean ====
section
/-! DEFINITION. Strands meeting strands: crew barriers (R237), the grid barrier (R239), waking at Hinges (R166), and a strand's
retirement with what it does to its parent, its crew and its quarter (R22, R23, R25, R34). -/

namespace Sys2Proof.Machine

open Sys2Proof

/-- A strand by name, the issuing one among them. -/
def State.anyStrand (s : State) (u : Nat) : Option Strand := s.allStrands.find? (fun x => x.uid == u)

/-- Change one strand. -/
def State.modStrand (s : State) (u : Nat) (f : Strand → Strand) : State := s.modStrands (fun x => x.uid == u) f

/-- A crew's participants in barriers: root strands in neither EJECT-WAIT nor DONE (R237). -/
def State.participants (s : State) (c : Nat) : List Strand :=
  s.allStrands.filter (fun x => x.crew == c && x.parent.isNone && x.state != .done && x.state != .ejectWait)

/-- A crew's participants in Hinges: root strands that have not reached DONE (R166). -/
def State.hingeParticipants (s : State) (c : Nat) : List Strand :=
  s.allStrands.filter (fun x => x.crew == c && x.parent.isNone && x.state != .done)

/-- Change a barrier of a crew. -/
def Crew.modBar (c : Crew) (id : BitVec 4) (f : Barrier → Barrier) : Crew :=
  { c with bars := c.bars.set id.toNat (f (c.bars[id.toNat]'(id.isLt))) (id.isLt) }

/-- A barrier of a crew. -/
def Crew.bar (c : Crew) (id : BitVec 4) : Barrier := c.bars[id.toNat]'(id.isLt)

/-- Change a Hinge of a crew. -/
def Crew.modHinge (c : Crew) (h : BitVec 4) (f : Hinge → Hinge) : Crew :=
  { c with hinges := c.hinges.set h.toNat (f (c.hinges[h.toNat]'(h.isLt))) (h.isLt) }

/-- A Hinge of a crew. -/
def Crew.hinge (c : Crew) (h : BitVec 4) : Hinge := c.hinges[h.toNat]'(h.isLt)

/-- A vector of 16 counts read by STRAND. -/
def at16 {α : Type} (v : Vector α 16) (i : Nat) : α := v[Fin.ofNat 16 i]
/-- Write one of 16. -/
def set16 {α : Type} (v : Vector α 16) (i : Nat) (x : α) : Vector α 16 := v.set (Fin.ofNat 16 i) x

/-- A strand waits in `bar` or `bar.wait` for the phase of barrier `id` it last arrived in (R237). -/
def waitsBar (c : Nat) (id : BitVec 4) (x : Strand) : Bool :=
  x.crew == c && x.state == .parked && x.park == some (.barrier (some id)) && match x.cur with
    | .bar _ => true
    | .barWait _ => true
    | _ => false

/-- A strand waits to arrive a second time (R237). -/
def waitsArrive (c : Nat) (id : BitVec 4) (x : Strand) : Bool :=
  x.crew == c && x.state == .parked && x.park == some (.barrier (some id)) && !waitsBar c id x

/-- Take a barrier's count again: where every participant has arrived the phase completes, its waiting strands complete their
instructions, and those that wait to arrive again may do so (R237). -/
def State.barCheck (s : State) (c : Nat) (id : BitVec 4) : State :=
  match s.anyCrew c with
  | none => s
  | some k =>
    let b := k.bar id
    if b.arrived != 0 && (s.participants c).all (fun x => b.arrived.getLsbD x.idx) then
      let s := s.modCrew c (fun k => k.modBar id (fun b => { b with phase := b.phase + 1, arrived := 0 }))
      let s := { (s.modStrands (waitsBar c id) (fun x => x.completeParked s.fresh)) with fresh := s.fresh + 1 }
      s.wake (waitsArrive c id)
    else s

/-- The crews of an admitted launch that have not completed. -/
def State.crewsOf (s : State) (d : DieId) (slot : GridSlot) : List Crew := s.allCrews.filter (fun c => c.die == d && c.slot == slot)

/-- The pre-emption of a crew has begun: the service OS has asked for it, and for a COOP grid for that of every crew of the grid, which
are pre-empted together (R239, R306). -/
def State.halting (s : State) (k : Crew) : Bool :=
  k.stopping.isSome && (!k.hdr.coop || (s.crewsOf k.die k.slot).all (fun x => x.stopping.isSome || x.preempted))

/-- Crews of a launch that have a started strand; the others count as complete (R31). -/
def crewCount (h : Header) (r : LaunchRec) : Nat :=
  let n := r.nx * r.ny * r.nz
  let w := h.strands * h.lanes
  if r.extent = 0 then n else Nat.min n ((r.extent.toNat + w - 1) / w)

/-- Take the grid barrier's count again (R239). A crew that is not admitted yet has not arrived. -/
def State.gbarCheck (s : State) (d : DieId) (slot : GridSlot) : State :=
  match s.gridAt d slot with
  | none => s
  | some g =>
    let cs := s.crewsOf d slot
    let all := g.next == crewCount g.hdr g.rec_ &&
      cs.all (fun c => (s.participants c.uid).all (fun x => c.garrived.getLsbD x.idx))
    if all && cs.any (fun c => c.garrived != 0) then
      let s := s.modGrid d slot (fun g => { g with gphase := g.gphase + 1 })
      let s := cs.foldl (fun s c => s.modCrew c.uid (fun k => { k with garrived := 0 })) s
      let mine := fun (x : Strand) => x.state == .parked && x.park == some (.barrier none) && cs.any (fun c => c.uid == x.crew)
      { (s.modStrands mine (fun x => x.completeParked s.fresh)) with fresh := s.fresh + 1 }
    else s

/-- An `mhwait` of a crew's context at a Hinge completes: every participant has arrived once more than MC (R166). -/
def State.hingeFull (s : State) (k : Crew) (h : BitVec 4) : Bool :=
  (s.hingeParticipants k.uid).all (fun x => (k.hinge h).mc + 1 ≤ at16 (k.hinge h).ac x.idx)

/-- An `mharr` of a crew's context at a Hinge goes on: no participant would have more than 255 releases not taken (R166). -/
def State.hingeFree (s : State) (k : Crew) (h : BitVec 4) : Bool :=
  (s.hingeParticipants k.uid).all (fun x => (k.hinge h).rc + 1 - at16 (k.hinge h).wc x.idx ≤ 255)

/-- What a crew's context waits for has come (R166, R174). -/
def State.hingeMet (s : State) (k : Crew) : Bool := match k.seq.state with
  | .waiting => s.hingeFull k k.seq.hinge
  | .holding => s.hingeFree k k.seq.hinge
  | _ => false

/-- A `hgarrive` of a root strand at a Hinge goes on: MC has come near enough to its arrivals (R166). -/
def Crew.arriveFree (k : Crew) (h : BitVec 4) (i : Nat) : Bool := at16 (k.hinge h).ac i - (k.hinge h).mc < 255

/-- A `hgwait` of a root strand at a Hinge completes: there is a release that it has not taken (R166). -/
def Crew.releaseDue (k : Crew) (h : BitVec 4) (i : Nat) : Bool := at16 (k.hinge h).wc i + 1 ≤ (k.hinge h).rc

/-- What a strand parked at a Hinge waits for has come (R166). -/
def Crew.hingeDue (k : Crew) (x : Strand) : Bool := match x.park, x.cur with
  | some (.hinge h), .hgarrive _ _ => k.arriveFree h x.idx
  | some (.hinge h), _ => k.releaseDue h x.idx
  | _, _ => false

/-- Something moved at a crew's Hinges: its context and the strands parked there go on where what they wait for has come (R166). -/
def State.hingeMoved (s : State) (c : Nat) : State :=
  let s := s.modCrew c (fun k => if s.hingeMet k then { k with seq := { k.seq with state := .running } } else k)
  s.wake (fun x => x.crew == c && (s.anyCrew c).any (fun k => k.hingeDue x))

/-- A participant of a crew has left or arrived: every count is taken again (R166, R237, R239). -/
def State.recount (s : State) (c : Nat) : State :=
  let s := (below 16).foldl (fun s i => s.barCheck c (BitVec.ofNat 4 i)) s
  let s := s.hingeMoved c
  match s.anyCrew c with
  | some k => s.gbarCheck k.die k.slot
  | none => s

/-- What a remnant's retirement does to its parent (R22, R23, R25). -/
def Strand.childGone (p x : Strand) (returns : Bool) : Strand :=
  { p with joins := p.joins - 1, fflags := p.fflags ||| x.fflags, lfault := p.lfault ||| x.lfault,
           returned := if returns then p.returned ||| x.live else p.returned,
           stklo := if p.joins = 1 then p.stkKeep else p.stklo }

/-- Loads of the strand have not returned: remote ones, what it has asked of a home, and sectors that it waits for (R76). -/
def Strand.loading (x : Strand) : Bool := x.remotes.any (fun m => m.load) || !x.asked.isEmpty || !x.wants.isEmpty

/-- What the strand's outstanding loads return is discarded (R76). -/
def Strand.discardLoads (x : Strand) : Strand := { x with remotes := x.remotes.map (fun m => { m with dest := .none, acqAt := 0 }) }

/-- A strand in EJECT-WAIT has nothing left to wait for (R25, R76). -/
def Strand.leaving (x : Strand) : Bool := x.state == .ejectWait && x.joins = 0 && !x.loading

/-- Retire a strand to DONE, and after it the ancestors that wait in EJECT-WAIT for it; a parent parked in `join` may go on
(R23, R24, R25). -/
def State.retireChain (s : State) (u : Nat) (returns : Bool) : Nat → State
  | 0 => s
  | n + 1 => match s.anyStrand u with
    | none => s
    | some x =>
      let s := s.modStrand u (fun x => { x with state := .done, park := none })
      match x.parent with
      | none => s
      | some p =>
        let s := s.modStrand p (fun y => y.childGone x returns)
        match s.anyStrand p with
        | none => s
        | some y =>
          if y.leaving then s.retireChain p false n
          else if y.joins = 0 then s.wake (fun z => z.uid == p && z.park == some .join)
          else s

/-- Every strand of a crew has been released. -/
def State.crewIdle (s : State) (c : Nat) : Bool := s.allStrands.all (fun x => x.crew != c || x.state == .done)

/-- The array of a crew's core is at an operation of the crew (R168). -/
def State.arrayOf (s : State) (k : Crew) : Bool := (s.core k.die k.core).array.any (fun a => a.crew == k.uid)

/-- A crew's sequencer context stops, unless it has faulted, once no tile operation that it has begun is in the array: then it stops when that
ends (R77, R170). -/
def State.stopSeq (s : State) (c : Nat) : State :=
  s.modCrew c (fun k => if k.seq.state == .faulted || s.arrayOf k then k else { k with seq := { k.seq with state := .stopped } })

/-- Once every strand of a crew has been released, its sequencer context stops (R77, R170). -/
def State.stopIdle (s : State) (c : Nat) : State := if s.crewIdle c then s.stopSeq c else s

/-- Retire a strand, take the crew's counts again, and serve the acquires of its quarter if its family is gone (R25, R34). -/
def State.retire (s : State) (u : Nat) (returns : Bool) : State :=
  match s.anyStrand u with
  | none => s
  | some x =>
    let s := ((s.retireChain u returns (s.allStrands.length + 1)).recount x.crew).stopIdle x.crew
    if s.familyLive x.root then s
    else match s.anyCrew x.crew with
      | some c => s.serveAcquires c.die c.core x.quarter (s.allStrands.length)
      | none => s

/-- A strand that may leave EJECT-WAIT now retires (R25, R76). -/
def State.leaveNow (s : State) (u : Nat) : State := match s.anyStrand u with
  | some x => if x.leaving then s.retire u false else s
  | none => s

end Sys2Proof.Machine
end

