-- ==== Sys2Proof/Machine/Scalar.lean ====
section
/-! DEFINITION. The scalar ALU (R67 to R71). Each instruction reads its registers, writes one and goes on; it waits only for a
register that an outstanding operation still owes (R12, R182). -/

namespace Sys2Proof.Machine

open Sys2Proof

/-- 1 or 0. -/
def flag (p : Prop) [Decidable p] : Word := if p then 1 else 0

/-- Signed division truncated toward zero, all ones for a zero divisor (R69); −2^63 ÷ −1 wraps to −2^63. -/
def wdiv (a b : Word) : Word := if b = 0 then ~~~0 else BitVec.ofInt 64 (Int.tdiv a.toInt b.toInt)

/-- Signed remainder with the dividend's sign; the dividend for a zero divisor (R69). -/
def wrem (a b : Word) : Word := if b = 0 then a else BitVec.ofInt 64 (Int.tmod a.toInt b.toInt)

/-- `bfx` (R68): position and length come from `b`. -/
def bitField (a b : Word) : Word :=
  let pos := b.toNat % 64
  let len := Nat.min (b.toNat / 64 % 128) 64
  BitVec.ofNat 64 (a.toNat / 2 ^ pos % 2 ^ len)

/-- A scalar operation of two registers (R68): both are read before the destination is written (R58). -/
def State.alu2 (s : State) (e : Bool) (rd ra rb : SReg) (f : Word → Word → Word) : State :=
  s.gate [ra, rb] [rd] [] (fun s => (s.wrS rd (f (s.rdS ra) (s.rdS rb))).finish e)

/-- A scalar operation of one register. -/
def State.alu1 (s : State) (e : Bool) (rd ra : SReg) (f : Word → Word) : State :=
  s.gate [ra] [rd] [] (fun s => (s.wrS rd (f (s.rdS ra))).finish e)

/-- A scalar operation of a register and a sign-extended immediate (R70). -/
def State.aluI (s : State) (e : Bool) (rd ra : SReg) (imm : BitVec 13) (f : Word → Word → Word) : State :=
  s.alu1 e rd ra (fun a => f a (sext imm))

/-- A shift by an immediate; outside 0 to 63 it traps ILLEGAL subcode 4 (R70). -/
def State.aluShift (s : State) (e : Bool) (rd ra : SReg) (imm : BitVec 13) (f : Word → Nat → Word) : State :=
  if shiftImmOk imm then s.alu1 e rd ra (fun a => f a imm.toNat) else s.illegal 4

/-- add (R68). -/
def execAdd (e : Bool) (rd ra rb : SReg) (s : State) : Host.Outcome State Fault Refusal :=
  .next (s.alu2 e rd ra rb (fun a b => a + b))

/-- sub (R68). -/
def execSub (e : Bool) (rd ra rb : SReg) (s : State) : Host.Outcome State Fault Refusal :=
  .next (s.alu2 e rd ra rb (fun a b => a - b))

/-- mul (R68). -/
def execMul (e : Bool) (rd ra rb : SReg) (s : State) : Host.Outcome State Fault Refusal :=
  .next (s.alu2 e rd ra rb (fun a b => a * b))

/-- mulh (R68). -/
def execMulh (e : Bool) (rd ra rb : SReg) (s : State) : Host.Outcome State Fault Refusal :=
  .next (s.alu2 e rd ra rb (fun a b => BitVec.ofInt 64 (a.toInt * b.toInt / 2 ^ 64)))

/-- mulhu (R68). -/
def execMulhu (e : Bool) (rd ra rb : SReg) (s : State) : Host.Outcome State Fault Refusal :=
  .next (s.alu2 e rd ra rb (fun a b => BitVec.ofNat 64 (a.toNat * b.toNat / 2 ^ 64)))

/-- div (R68, R69). -/
def execDiv (e : Bool) (rd ra rb : SReg) (s : State) : Host.Outcome State Fault Refusal :=
  .next (s.alu2 e rd ra rb (fun a b => wdiv a b))

/-- divu (R68, R69). -/
def execDivu (e : Bool) (rd ra rb : SReg) (s : State) : Host.Outcome State Fault Refusal :=
  .next (s.alu2 e rd ra rb (fun a b => if b = 0 then ~~~0 else BitVec.ofNat 64 (a.toNat / b.toNat)))

/-- rem (R68, R69). -/
def execRem (e : Bool) (rd ra rb : SReg) (s : State) : Host.Outcome State Fault Refusal :=
  .next (s.alu2 e rd ra rb (fun a b => wrem a b))

/-- remu (R68, R69). -/
def execRemu (e : Bool) (rd ra rb : SReg) (s : State) : Host.Outcome State Fault Refusal :=
  .next (s.alu2 e rd ra rb (fun a b => if b = 0 then a else BitVec.ofNat 64 (a.toNat % b.toNat)))

/-- and (R68). -/
def execAnd (e : Bool) (rd ra rb : SReg) (s : State) : Host.Outcome State Fault Refusal :=
  .next (s.alu2 e rd ra rb (fun a b => a &&& b))

/-- or (R68). -/
def execOr (e : Bool) (rd ra rb : SReg) (s : State) : Host.Outcome State Fault Refusal :=
  .next (s.alu2 e rd ra rb (fun a b => a ||| b))

/-- xor (R68). -/
def execXor (e : Bool) (rd ra rb : SReg) (s : State) : Host.Outcome State Fault Refusal :=
  .next (s.alu2 e rd ra rb (fun a b => a ^^^ b))

/-- andn (R68). -/
def execAndn (e : Bool) (rd ra rb : SReg) (s : State) : Host.Outcome State Fault Refusal :=
  .next (s.alu2 e rd ra rb (fun a b => a &&& ~~~b))

/-- shl (R68). -/
def execShl (e : Bool) (rd ra rb : SReg) (s : State) : Host.Outcome State Fault Refusal :=
  .next (s.alu2 e rd ra rb (fun a b => a <<< (b.toNat % 64)))

/-- shr (R68). -/
def execShr (e : Bool) (rd ra rb : SReg) (s : State) : Host.Outcome State Fault Refusal :=
  .next (s.alu2 e rd ra rb (fun a b => a >>> (b.toNat % 64)))

/-- sra (R68). -/
def execSra (e : Bool) (rd ra rb : SReg) (s : State) : Host.Outcome State Fault Refusal :=
  .next (s.alu2 e rd ra rb (fun a b => a.sshiftRight (b.toNat % 64)))

/-- min (R68). -/
def execMin (e : Bool) (rd ra rb : SReg) (s : State) : Host.Outcome State Fault Refusal :=
  .next (s.alu2 e rd ra rb (fun a b => if a.toInt ≤ b.toInt then a else b))

/-- max (R68). -/
def execMax (e : Bool) (rd ra rb : SReg) (s : State) : Host.Outcome State Fault Refusal :=
  .next (s.alu2 e rd ra rb (fun a b => if b.toInt ≤ a.toInt then a else b))

/-- minu (R68). -/
def execMinu (e : Bool) (rd ra rb : SReg) (s : State) : Host.Outcome State Fault Refusal :=
  .next (s.alu2 e rd ra rb (fun a b => if a.toNat ≤ b.toNat then a else b))

/-- maxu (R68). -/
def execMaxu (e : Bool) (rd ra rb : SReg) (s : State) : Host.Outcome State Fault Refusal :=
  .next (s.alu2 e rd ra rb (fun a b => if b.toNat ≤ a.toNat then a else b))

/-- slt (R68). -/
def execSlt (e : Bool) (rd ra rb : SReg) (s : State) : Host.Outcome State Fault Refusal :=
  .next (s.alu2 e rd ra rb (fun a b => flag (a.toInt < b.toInt)))

/-- sltu (R68). -/
def execSltu (e : Bool) (rd ra rb : SReg) (s : State) : Host.Outcome State Fault Refusal :=
  .next (s.alu2 e rd ra rb (fun a b => flag (a.toNat < b.toNat)))

/-- seq (R68). -/
def execSeq (e : Bool) (rd ra rb : SReg) (s : State) : Host.Outcome State Fault Refusal :=
  .next (s.alu2 e rd ra rb (fun a b => flag (a = b)))

/-- sne (R68). -/
def execSne (e : Bool) (rd ra rb : SReg) (s : State) : Host.Outcome State Fault Refusal :=
  .next (s.alu2 e rd ra rb (fun a b => flag (a ≠ b)))

/-- bfx (R68). -/
def execBfx (e : Bool) (rd ra rb : SReg) (s : State) : Host.Outcome State Fault Refusal :=
  .next (s.alu2 e rd ra rb (fun a b => bitField a b))

/-- popc (R68). -/
def execPopc (e : Bool) (rd ra : SReg) (s : State) : Host.Outcome State Fault Refusal :=
  .next (s.alu1 e rd ra (fun a => BitVec.ofNat 64 (popCount 64 a.toNat)))

/-- clz (R68). -/
def execClz (e : Bool) (rd ra : SReg) (s : State) : Host.Outcome State Fault Refusal :=
  .next (s.alu1 e rd ra (fun a => BitVec.ofNat 64 (leadZeros 64 a.toNat)))

/-- ctz (R68). -/
def execCtz (e : Bool) (rd ra : SReg) (s : State) : Host.Outcome State Fault Refusal :=
  .next (s.alu1 e rd ra (fun a => BitVec.ofNat 64 (trailZeros 64 0 a.toNat)))

/-- brev (R68). -/
def execBrev (e : Bool) (rd ra : SReg) (s : State) : Host.Outcome State Fault Refusal :=
  .next (s.alu1 e rd ra (fun a => BitVec.ofNat 64 (revBits 64 a.toNat)))

/-- addi (R70). -/
def execAddi (e : Bool) (rd ra : SReg) (imm : BitVec 13) (s : State) : Host.Outcome State Fault Refusal :=
  .next (s.aluI e rd ra imm (fun a k => a + k))

/-- andi (R70). -/
def execAndi (e : Bool) (rd ra : SReg) (imm : BitVec 13) (s : State) : Host.Outcome State Fault Refusal :=
  .next (s.aluI e rd ra imm (fun a k => a &&& k))

/-- ori (R70). -/
def execOri (e : Bool) (rd ra : SReg) (imm : BitVec 13) (s : State) : Host.Outcome State Fault Refusal :=
  .next (s.aluI e rd ra imm (fun a k => a ||| k))

/-- xori (R70). -/
def execXori (e : Bool) (rd ra : SReg) (imm : BitVec 13) (s : State) : Host.Outcome State Fault Refusal :=
  .next (s.aluI e rd ra imm (fun a k => a ^^^ k))

/-- slti (R70). -/
def execSlti (e : Bool) (rd ra : SReg) (imm : BitVec 13) (s : State) : Host.Outcome State Fault Refusal :=
  .next (s.aluI e rd ra imm (fun a k => flag (a.toInt < k.toInt)))

/-- sltiu (R70). -/
def execSltiu (e : Bool) (rd ra : SReg) (imm : BitVec 13) (s : State) : Host.Outcome State Fault Refusal :=
  .next (s.aluI e rd ra imm (fun a k => flag (a.toNat < k.toNat)))

/-- shli (R70). -/
def execShli (e : Bool) (rd ra : SReg) (imm : BitVec 13) (s : State) : Host.Outcome State Fault Refusal :=
  .next (s.aluShift e rd ra imm (fun a n => a <<< n))

/-- shri (R70). -/
def execShri (e : Bool) (rd ra : SReg) (imm : BitVec 13) (s : State) : Host.Outcome State Fault Refusal :=
  .next (s.aluShift e rd ra imm (fun a n => a >>> n))

/-- srai (R70). -/
def execSrai (e : Bool) (rd ra : SReg) (imm : BitVec 13) (s : State) : Host.Outcome State Fault Refusal :=
  .next (s.aluShift e rd ra imm (fun a n => a.sshiftRight n))

/-- li (R71). -/
def execLi (e : Bool) (rd : SReg) (imm : BitVec 19) (s : State) : Host.Outcome State Fault Refusal :=
  .next (s.gate [] [rd] [] (fun s => (s.wrS rd (sext imm)).finish e))

/-- lui (R71). -/
def execLui (e : Bool) (rd : SReg) (imm : BitVec 19) (s : State) : Host.Outcome State Fault Refusal :=
  .next (s.gate [] [rd] [] (fun s => (s.wrS rd (sext imm <<< 19)).finish e))

/-- lsi (R71): it reads its own destination. -/
def execLsi (e : Bool) (rd : SReg) (imm : BitVec 19) (s : State) : Host.Outcome State Fault Refusal :=
  .next (s.alu1 e rd rd (fun a => (a <<< 19) ||| imm.setWidth 64))

end Sys2Proof.Machine
end

