-- ==== Sys2Proof/Machine/Control.lean ====
section
/-! DEFINITION. Control transfer, ejection, join and exit (R20 to R26, R72 to R76). Every instruction here ends its run. -/

namespace Sys2Proof.Machine

open Sys2Proof

/-- The target of a word displacement: the instruction word's own address plus four times it (R49). -/
def State.target {w : Nat} (s : State) (disp : BitVec w) : Word := s.focus.pc + (disp.signExtend 64) * 4

/-- A conditional branch (R72). -/
def State.branch (s : State) (ra : SReg) (disp : BitVec 16) (cond : Int → Bool) : State :=
  s.gate [ra] [] [] (fun s => if cond (s.rdS ra).toInt then s.complete true (s.target disp) else s.finish true)

/-- bz (R72). -/
def execBz (ra : SReg) (disp : BitVec 16) (s : State) : Host.Outcome State Fault Refusal := .next (s.branch ra disp (fun x => x = 0))

/-- bnz (R72). -/
def execBnz (ra : SReg) (disp : BitVec 16) (s : State) : Host.Outcome State Fault Refusal := .next (s.branch ra disp (fun x => x ≠ 0))

/-- bltz (R72). -/
def execBltz (ra : SReg) (disp : BitVec 16) (s : State) : Host.Outcome State Fault Refusal := .next (s.branch ra disp (fun x => x < 0))

/-- bgez (R72). -/
def execBgez (ra : SReg) (disp : BitVec 16) (s : State) : Host.Outcome State Fault Refusal := .next (s.branch ra disp (fun x => 0 ≤ x))

/-- bgtz (R72). -/
def execBgtz (ra : SReg) (disp : BitVec 16) (s : State) : Host.Outcome State Fault Refusal := .next (s.branch ra disp (fun x => 0 < x))

/-- blez (R72). -/
def execBlez (ra : SReg) (disp : BitVec 16) (s : State) : Host.Outcome State Fault Refusal := .next (s.branch ra disp (fun x => x ≤ 0))

/-- jmp (R73). -/
def execJmp (disp : BitVec 25) (s : State) : Host.Outcome State Fault Refusal := .next (s.complete true (s.target disp))

/-- call (R73): the link register s62 takes the next word's address. -/
def execCall (disp : BitVec 25) (s : State) : Host.Outcome State Fault Refusal :=
  .next (s.gate [] [62] [] (fun s => (s.wrS 62 (s.focus.pc + 4)).complete true (s.target disp)))

/-- Go on at an address held in a register, or trap ALIGN subcode 2 (R74). -/
def State.indirect (s : State) (ra : SReg) (link : Bool) : State :=
  s.gate [ra] (if link then [62] else []) [] (fun s =>
    let t := s.rdS ra
    if t.toNat % 4 ≠ 0 then s.raise 0x03 2 t
    else (if link then s.wrS 62 (s.focus.pc + 4) else s).complete true t)

/-- jr (R74). -/
def execJr (ra : SReg) (s : State) : Host.Outcome State Fault Refusal := .next (s.indirect ra false)

/-- calli (R74): the target is read before the link is written. -/
def execCalli (ra : SReg) (s : State) : Host.Outcome State Fault Refusal := .next (s.indirect ra true)

/-- ret (R74). -/
def execRet (s : State) : Host.Outcome State Fault Refusal := .next (s.indirect 62 false)

/-! ### Ejection (R20 to R22) -/

/-- The remnant context a new remnant of the issuing strand takes: one of the four reserved for its family, else one of the
quarter's pool of 64 (R320). -/
def State.remnantCtx (s : State) : Option CtxKind :=
  let live := s.allStrands.filter (fun x => x.parent.isSome && x.state != .done)
  let mine := live.filter (fun x => x.root == s.focus.root && x.ctx == .reserved)
  let pool := live.filter (fun x => x.ctx == .pooled && x.quarter == s.focus.quarter && match s.anyCrew x.crew with
    | some c => c.die == s.crew.die && c.core == s.crew.core && !c.preempted
    | none => false)
  if mine.length < 4 then some .reserved else if pool.length < 64 then some .pooled else none

/-- The remnant's stack pointer: the lower half of the parent's free stack (R22). -/
def splitStack (lo sp : Word) : Word := lo + BitVec.ofNat 64 ((sp - lo).toNat / 32 * 16)

/-- The remnant that takes lanes `m` from the issuing strand (R21). -/
def State.remnantOf (s : State) (m t : Word) (k : CtxKind) : Strand :=
  let f := s.focus.clearUnit
  let sp := splitStack f.stklo (f.rdS 63)
  { (f.wrS 63 sp) with
    uid := s.fresh, parent := some f.uid, live := m, returned := 0, joins := 0, pc := t, unitPc := t, lfault := 0, mcerr := 0,
    mcast := none, state := .ready, park := none, run := 0, remotes := [], deferred := [], hstOut := [], stkKeep := 0,
    cls := f.baseCls, passes := 0, joinSeq := s.fresh, ctx := k, faulted := none }

/-- eject (R20, R75). A remnant copies every register, and what the strand did before happens before the remnant (R249), so an
ejection that makes one waits for outstanding remote loads and for stores on their way to homes and other packages (DEDUCED, log
17, log 28); it reads the stack pointer s63 (R22), and waits for it where it is busy or awaits a remote load (R182, R279). -/
def execEject (rd : SReg) (p : PReg) (disp : BitVec 16) (s : State) : Host.Outcome State Fault Refusal :=
  let stay := fun (s : State) => s.gate [] [rd] [] (fun s => (s.wrS rd 0).finish true)
  .next (match s.waits [] [rd] [] with
  | some t => t
  | none =>
    let m := s.focus.rdP p &&& s.focus.live
    let t := s.target disp
    if m = 0 then stay s
    else if m = s.focus.live then s.gate [] [rd] [] (fun s => (s.wrS rd 0).complete true t)
    else if s.focus.joins = 4 then stay s
    else match s.remnantCtx with
      | none => stay s
      | some k =>
        s.gate [63] [rd] [] (fun s => s.releaseGate 1 (fun s =>
          let r := s.remnantOf m t k
          let f := s.focus
          let f := { f with live := f.live &&& ~~~m, joins := f.joins + 1, stkKeep := if f.joins = 0 then f.stklo else f.stkKeep,
                            stklo := r.rdS 63 }
          let s := { (s.setFocus f) with strands := s.strands ++ [r], fresh := s.fresh + 1 }
          (s.wrS rd 1).finish true)))

/-! ### join and exit (R23 to R25, R283) -/

/-- MCAST_PARTIAL at the issuing strand: MCERR names the failed members and the record is cleared (R283) (DEDUCED, log 90). -/
def State.mcastTrap (s : State) (m : McRec) (sub : Nat) : State :=
  let t := s.setFocus { s.focus with mcast := none, mcerr := m.failed }
  t.takeFault (t.faultRec 0x0F sub 0 t.focus.unitPc (BitVec.ofNat 64 m.group.toNat) true)

/-- Wait for every acknowledgement of the strand's multicast stores, and trap when members have failed (R283). -/
def State.mcastDrain (s : State) (k : State → State) : State :=
  match s.focus.mcast with
  | none => k s
  | some m =>
    if !m.await.isEmpty then s.parkRetry (.wait .mcast)
    else if m.failed != 0 then s.mcastTrap m 1
    else k (s.setFocus { s.focus with mcast := none })

/-- A remnant passes no multicast store to its parent (R283). -/
def State.leaveGate (s : State) (k : State → State) : State := if s.focus.isRemnant then s.mcastDrain k else k s

/-- The returned lanes become the strand's (R23, R24). -/
def Strand.takeBack (f : Strand) : Strand := { f with live := f.live ||| f.returned, returned := 0 }

/-- join (R23, R24, R76). What a remnant did happens before its parent goes on (R249; log 28). -/
def execJoin (s : State) : Host.Outcome State Fault Refusal :=
  .next (if s.focus.joins ≠ 0 then s.parkRetry .join
    else s.leaveGate (fun s =>
      if s.focus.isRemnant then s.releaseGate 1 (fun s =>
        let s := s.setFocus s.focus.takeBack
        (s.setFocus s.focus.clearUnit).retire s.focus.uid true)
      else (s.setFocus s.focus.takeBack).finish true))

/-- exit (R25, R76): with remnants outstanding the strand waits in EJECT-WAIT, for them and for its loads, whose values are discarded; with
none it parks until its loads have returned, and then it is DONE (DEDUCED, log 86). -/
def execExit (s : State) : Host.Outcome State Fault Refusal :=
  .next (if s.focus.joins ≠ 0 then s.leaveGate (fun s =>
      (s.setFocus { s.focus.clearUnit.discardLoads with state := .ejectWait, park := none }).recount s.crew.uid)
    else if s.focus.remotes.any (fun m => m.load) then s.parkRetry .remoteLoad
    else s.leaveGate (fun s => (s.setFocus s.focus.clearUnit).retire s.focus.uid false))

end Sys2Proof.Machine
end

