-- ==== Sys2Proof/Machine/System.lean ====
section
/-! DEFINITION. Strand control, special registers, MODE and system calls (R36, R37, R78 to R85). -/

namespace Sys2Proof.Machine

open Sys2Proof

/-- nop (R78). -/
def execNop (e : Bool) (s : State) : Host.Outcome State Fault Refusal := .next (s.finish e)

/-- yield (R78): the run ends and the strand joins the tail of its class. -/
def execYield (s : State) : Host.Outcome State Fault Refusal := .next (s.finish true)

/-- The cycles a `pause` holds the strand off (R78). -/
def pauseCount (x : Word) : Nat := Nat.min x.toNat 1048576

/-- pause (R78). -/
def execPause (ra : SReg) (s : State) : Host.Outcome State Fault Refusal :=
  .next (s.gate [ra] [] [] (fun s =>
    let c := pauseCount (s.rdS ra)
    if c = 0 then s.finish true
    else s.parkIn (.pause ra) (.wait (.pause ((s.die s.crew.die).clock + c)))))

/-- ebreak (R79): DEBUG subcode 1 under a debugger; the strand then stands at the next word. -/
def execEbreak (e : Bool) (s : State) : Host.Outcome State Fault Refusal :=
  .next (if bit s.crew.debug 0 then
      let n := s.focus.pc + 4
      let t := s.raise 0x0D 1 0
      t.setFocus { t.focus with pc := n }
    else s.finish e)

/-- A remnant may not use what belongs to the crew (R26). -/
def State.rootGate (s : State) (k : State → State) : State := if s.focus.isRemnant then s.raise 0x0B 1 0 else k s

/-- acquire (R33, R80). -/
def execAcquire (s : State) : Host.Outcome State Fault Refusal := .next (s.rootGate (fun s => s.acquireThen (fun s => s.finish true)))

/-! ### Special registers (R36) -/

/-- CREWX, CREWY and CREWZ of a linear crew number (R31). -/
def Crew.coords (c : Crew) : Nat × Nat × Nat :=
  (c.num % c.rec_.nx, c.num / c.rec_.nx % c.rec_.ny, c.num / c.rec_.nx / c.rec_.ny)

/-- The value of a special register (R36). -/
def State.srRead (s : State) (n : BitVec 6) : Word :=
  let c := s.crew
  let f := s.focus
  let w := fun (x : Nat) => BitVec.ofNat 64 x
  match n.toNat with
  | 0 => w f.idx
  | 1 => w c.num
  | 2 => w c.coords.1
  | 3 => w c.coords.2.1
  | 4 => w c.coords.2.2
  | 5 => w c.rec_.nx
  | 6 => w c.rec_.ny
  | 7 => w c.rec_.nz
  | 8 => w s.lanes
  | 9 => w s.vregsNow
  | 10 => w c.die.val
  | 11 => w (s.die c.die).clock
  | 12 => w s.time
  | 13 => c.energy
  | 14 => f.lfault
  | 15 => f.fflags
  | 16 => f.progress
  | 17 => f.mcerr
  | 18 => w f.joins
  | 19 => c.rec_.args
  | 20 => c.debug
  | _ => f.stklo

/-- Reading ENERGY: the counters have moved on by an amount the manual does not fix (R321, log 3) (DESIGN CHOICE, log 81). -/
def State.meter (s : State) : State :=
  { (s.setCrew { s.crew with energy := s.crew.energy + Config.freeEnergy s.free }) with free := s.free + 1 }

/-- getsr (R81). -/
def execGetsr (e : Bool) (rd : SReg) (n : BitVec 6) (s : State) : Host.Outcome State Fault Refusal :=
  .next (if !srListed n then s.illegal 4
    else s.gate [] [rd] [] (fun s =>
      let s := if n = 13 then s.meter else s
      (s.wrS rd (s.srRead n)).finish e))

/-- What `setsr` writes (R81). -/
def Strand.srWrite (f : Strand) (n : BitVec 6) (x : Word) : Strand :=
  match n.toNat with
  | 14 => { f with lfault := f.lfault &&& x }
  | 15 => { f with fflags := x &&& 0x1F }
  | 16 => { f with progress := x }
  | _ => { f with mcerr := x }

/-- setsr (R81). -/
def execSetsr (e : Bool) (ra : SReg) (n : BitVec 6) (s : State) : Host.Outcome State Fault Refusal :=
  .next (if !srWritable n then s.illegal 4
    else s.gate [ra] [] [] (fun s => (s.setFocus (s.focus.srWrite n (s.rdS ra))).finish e))

/-- getm (R82). -/
def execGetm (e : Bool) (rd : SReg) (s : State) : Host.Outcome State Fault Refusal :=
  .next (s.gate [] [rd] [] (fun s => (s.wrS rd (s.focus.mode.setWidth 64)).finish e))

/-- setmr (R19, R82). -/
def execSetmr (e : Bool) (ra : SReg) (s : State) : Host.Outcome State Fault Refusal :=
  .next (s.gate [ra] [] [] (fun s =>
    let x := s.rdS ra
    if x.toNat / 2 ^ 13 ≠ 0 then s.illegal 4
    else (s.setFocus { s.focus with mode := x.setWidth 32 }).finish e))

/-- setm (R19, R82). -/
def execSetm (e : Bool) (imm : BitVec 13) (s : State) : Host.Outcome State Fault Refusal :=
  .next ((s.setFocus { s.focus with mode := imm.setWidth 32 }).finish e)

/-! ### trap (R83 to R85) -/

/-- The 64 bytes of a call record (R84). -/
def callRecord (c : Crew) (f : Strand) (n : Nat) : List Byte :=
  leBytes 8 (f.idx % 16 * 2 ^ 60 + (if f.isRemnant then 2 ^ 59 else 0) + f.pc.toNat % 2 ^ 55 / 4 * 4)
    ++ leBytes 8 (c.slot.val * 2 ^ 59 + n % 2 ^ 19 * 2 ^ 40 + c.num % 2 ^ 40)
    ++ ([1, 2, 3, 4, 5, 6] : List Nat).flatMap (fun i => leBytes 8 (f.rdS (BitVec.ofNat 6 i)).toNat)

/-- Write a call record at the trap ring's tail: the strand then waits for the response that names the record's index in the
ring (R83, R334; the index is the record's place, DEDUCED, log 16). -/
def State.writeCall (s : State) (d : DieId) (u : Nat) (bytes : List Byte) : State :=
  let g := (s.die d).ctl.trap
  let i := g.tail % 2 ^ g.log
  let s := (s.devWrite d (g.at_ 64 g.tail) bytes).modCtl d (fun c =>
    { c with trap := { c.trap with tail := (c.trap.tail + 1) % 2 ^ 32 }, trapOut := c.trapOut ++ [(i, u)] })
  s.modStrand u (fun x => { x with park := some (.trap (some i)) })

/-- trap (R83): the record goes into the die's trap ring, at once or, where the ring is full, when a record frees. -/
def execTrap (n : BitVec 19) (s : State) : Host.Outcome State Fault Refusal :=
  .next (s.gate [1, 2, 3, 4, 5, 6] [1, 2, 3, 4] [] (fun s =>
    let d := s.crew.die
    let c := (s.die d).ctl
    let t := s.parkIn (.trap n) (.trap none)
    if c.trap.full || !c.trapWait.isEmpty then t.modCtl d (fun c => { c with trapWait := c.trapWait ++ [s.focus.uid] })
    else t.writeCall d s.focus.uid (callRecord s.crew s.focus n.toNat)))

end Sys2Proof.Machine
end

