-- ==== Sys2Proof/Machine/VectorInt.lean ====
section
/-! DEFINITION. Vector integer arithmetic, moves, select and immediates (R90 to R98). Every instruction checks itself by
`State.vgate`, computes from the registers as they stood, and writes the lanes of its guard (R16, R58). -/

namespace Sys2Proof.Machine

open Sys2Proof

/-- The last operand of a three-operand form: a vector register, or the scalar register of a VS form. -/
inductive VSrc where
  | vec (v : VReg)
  | sca (r : SReg)
  deriving DecidableEq, Repr

/-- The vector registers it names. -/
def srcVecs (pair : Bool) : VSrc → List (Nat × Bool)
  | .vec v => [(v.toNat, pair)]
  | .sca _ => []

/-- The scalar registers it names. -/
def srcScas : VSrc → List SReg
  | .vec _ => []
  | .sca r => [r]

/-- An element of operand A, read at the width of the type (R91). -/
def State.opA (s : State) (t : Ty) (va : VReg) (i : Nat) : Nat := s.routed 0 t.pair va.toNat i % 2 ^ t.width

/-- An element of the last operand (R91): routed by field B, or the low bits of a scalar register in every lane. -/
def State.opB (s : State) (t : Ty) (b : VSrc) (i : Nat) : Nat :=
  (match b with
   | .vec v => s.routed 1 t.pair v.toNat i
   | .sca r => (s.rdS r).toNat) % 2 ^ t.width

/-- An element of the accumulator input, routed by field C (R96, R101). -/
def State.opC (s : State) (t : Ty) (vd : VReg) (i : Nat) : Nat := s.routed 2 t.pair vd.toNat i % 2 ^ t.width

/-- Write the results of a list of lanes and OR their flags into FFLAGS (R16, R92). -/
def State.putLanes (s : State) (pair : Bool) (vd : Nat) (ls : List Nat) (f : Nat → Nat × Flags) : State :=
  let rs := ls.map (fun i => (i, f i))
  (s.putElems pair vd (rs.map (fun r => (r.1, r.2.1)))).orFlags (flagsOf (rs.map (fun r => (r.1, r.2.2))))

/-- A result that raises no flag. -/
def quiet (x : Nat) : Nat × Flags := (x, Flags.none)

/-- A vector operation of one source over the guard. -/
def State.vmap1 (s : State) (ok : Bool) (e : Bool) (vd va : VReg) (f : Nat → Nat × Flags) : State :=
  let t := s.focus.ty
  s.vgate ok [(vd.toNat, t.pair), (va.toNat, t.pair)] [] [] (fun s =>
    (s.putLanes t.pair vd.toNat s.guardLanes (fun i => f (s.opA t va i))).finish e)

/-- A vector operation of two sources over the guard. -/
def State.vmap2 (s : State) (ok : Bool) (e : Bool) (vd va : VReg) (b : VSrc) (f : Nat → Nat → Nat × Flags) : State :=
  let t := s.focus.ty
  s.vgate ok ([(vd.toNat, t.pair), (va.toNat, t.pair)] ++ srcVecs t.pair b) (srcScas b) [] (fun s =>
    (s.putLanes t.pair vd.toNat s.guardLanes (fun i => f (s.opA t va i) (s.opB t b i))).finish e)

/-- A vector operation of two sources and the destination's old value over the guard. -/
def State.vmap3 (s : State) (ok : Bool) (e : Bool) (vd va vb : VReg) (f : Nat → Nat → Nat → Nat × Flags) : State :=
  let t := s.focus.ty
  s.vgate ok [(vd.toNat, t.pair), (va.toNat, t.pair), (vb.toNat, t.pair)] [] [] (fun s =>
    (s.putLanes t.pair vd.toNat s.guardLanes (fun i => f (s.opA t va i) (s.opB t (.vec vb) i) (s.opC t vd i))).finish e)

/-! ### Integer functions of one lane (R93, R95, R96). Elements are numbers below 2^w. -/

/-- vadd (R95). -/
def laneAdd (t : Ty) (sat : Bool) (a b : Nat) : Nat := t.narrow sat (t.intVal a + t.intVal b)
/-- vsub (R95). -/
def laneSub (t : Ty) (sat : Bool) (a b : Nat) : Nat := t.narrow sat (t.intVal a - t.intVal b)
/-- vmul (R95). -/
def laneMul (t : Ty) (sat : Bool) (a b : Nat) : Nat := t.narrow sat (t.intVal a * t.intVal b)
/-- vmulh (R95): both operands signed. -/
def laneMulh (t : Ty) (a b : Nat) : Nat := wrap t.width (sInt t.width a * sInt t.width b / (2 ^ t.width : Nat))
/-- vmulhu (R95). -/
def laneMulhu (t : Ty) (a b : Nat) : Nat := a * b / 2 ^ t.width
/-- vshl (R95). -/
def laneShl (t : Ty) (a b : Nat) : Nat := a * 2 ^ (b % t.width) % 2 ^ t.width
/-- vshr (R95). -/
def laneShr (t : Ty) (a b : Nat) : Nat := a / 2 ^ (b % t.width)
/-- vsra (R95). -/
def laneSra (t : Ty) (a b : Nat) : Nat := wrap t.width (sInt t.width a / (2 ^ (b % t.width) : Nat))
/-- vmin (R95): signed. -/
def laneMin (t : Ty) (a b : Nat) : Nat := if sInt t.width a ≤ sInt t.width b then a else b
/-- vmax (R95): signed. -/
def laneMax (t : Ty) (a b : Nat) : Nat := if sInt t.width a ≤ sInt t.width b then b else a
/-- vabsd (R95): the exact difference's magnitude. -/
def laneAbsd (t : Ty) (sat : Bool) (a b : Nat) : Nat := t.narrow sat ((t.intVal a - t.intVal b).natAbs : Int)
/-- vneg (R96). -/
def laneNeg (t : Ty) (sat : Bool) (a : Nat) : Nat := t.narrow sat (-(t.intVal a))
/-- vabs (R96). -/
def laneAbs (t : Ty) (sat : Bool) (a : Nat) : Nat := t.narrow sat ((t.intVal a).natAbs : Int)
/-- vmad (R96). -/
def laneMad (t : Ty) (sat : Bool) (a b c : Nat) : Nat := t.narrow sat (t.intVal a * t.intVal b + t.intVal c)

/-- vadd (R95). -/
def execVadd (e : Bool) (vd va vb : VReg) (s : State) : Host.Outcome State Fault Refusal :=
  .next (s.vmap2 s.focus.ty.isInt e vd va (.vec vb) (fun a b => quiet (laneAdd s.focus.ty s.focus.sat a b)))

/-- vsub (R95). -/
def execVsub (e : Bool) (vd va vb : VReg) (s : State) : Host.Outcome State Fault Refusal :=
  .next (s.vmap2 s.focus.ty.isInt e vd va (.vec vb) (fun a b => quiet (laneSub s.focus.ty s.focus.sat a b)))

/-- vmul (R95). -/
def execVmul (e : Bool) (vd va vb : VReg) (s : State) : Host.Outcome State Fault Refusal :=
  .next (s.vmap2 s.focus.ty.isInt e vd va (.vec vb) (fun a b => quiet (laneMul s.focus.ty s.focus.sat a b)))

/-- vmulh (R95). -/
def execVmulh (e : Bool) (vd va vb : VReg) (s : State) : Host.Outcome State Fault Refusal :=
  .next (s.vmap2 s.focus.ty.isInt e vd va (.vec vb) (fun a b => quiet (laneMulh s.focus.ty a b)))

/-- vmulhu (R95). -/
def execVmulhu (e : Bool) (vd va vb : VReg) (s : State) : Host.Outcome State Fault Refusal :=
  .next (s.vmap2 s.focus.ty.isInt e vd va (.vec vb) (fun a b => quiet (laneMulhu s.focus.ty a b)))

/-- vand (R95). -/
def execVand (e : Bool) (vd va vb : VReg) (s : State) : Host.Outcome State Fault Refusal :=
  .next (s.vmap2 s.focus.ty.isInt e vd va (.vec vb) (fun a b => quiet (a &&& b)))

/-- vor (R95). -/
def execVor (e : Bool) (vd va vb : VReg) (s : State) : Host.Outcome State Fault Refusal :=
  .next (s.vmap2 s.focus.ty.isInt e vd va (.vec vb) (fun a b => quiet (a ||| b)))

/-- vxor (R95). -/
def execVxor (e : Bool) (vd va vb : VReg) (s : State) : Host.Outcome State Fault Refusal :=
  .next (s.vmap2 s.focus.ty.isInt e vd va (.vec vb) (fun a b => quiet (a ^^^ b)))

/-- vshl (R95). -/
def execVshl (e : Bool) (vd va vb : VReg) (s : State) : Host.Outcome State Fault Refusal :=
  .next (s.vmap2 s.focus.ty.isInt e vd va (.vec vb) (fun a b => quiet (laneShl s.focus.ty a b)))

/-- vshr (R95). -/
def execVshr (e : Bool) (vd va vb : VReg) (s : State) : Host.Outcome State Fault Refusal :=
  .next (s.vmap2 s.focus.ty.isInt e vd va (.vec vb) (fun a b => quiet (laneShr s.focus.ty a b)))

/-- vsra (R95). -/
def execVsra (e : Bool) (vd va vb : VReg) (s : State) : Host.Outcome State Fault Refusal :=
  .next (s.vmap2 s.focus.ty.isInt e vd va (.vec vb) (fun a b => quiet (laneSra s.focus.ty a b)))

/-- vmin (R95). -/
def execVmin (e : Bool) (vd va vb : VReg) (s : State) : Host.Outcome State Fault Refusal :=
  .next (s.vmap2 s.focus.ty.isInt e vd va (.vec vb) (fun a b => quiet (laneMin s.focus.ty a b)))

/-- vmax (R95). -/
def execVmax (e : Bool) (vd va vb : VReg) (s : State) : Host.Outcome State Fault Refusal :=
  .next (s.vmap2 s.focus.ty.isInt e vd va (.vec vb) (fun a b => quiet (laneMax s.focus.ty a b)))

/-- vminu (R95). -/
def execVminu (e : Bool) (vd va vb : VReg) (s : State) : Host.Outcome State Fault Refusal :=
  .next (s.vmap2 s.focus.ty.isInt e vd va (.vec vb) (fun a b => quiet (Nat.min a b)))

/-- vmaxu (R95). -/
def execVmaxu (e : Bool) (vd va vb : VReg) (s : State) : Host.Outcome State Fault Refusal :=
  .next (s.vmap2 s.focus.ty.isInt e vd va (.vec vb) (fun a b => quiet (Nat.max a b)))

/-- vabsd (R95). -/
def execVabsd (e : Bool) (vd va vb : VReg) (s : State) : Host.Outcome State Fault Refusal :=
  .next (s.vmap2 s.focus.ty.isInt e vd va (.vec vb) (fun a b => quiet (laneAbsd s.focus.ty s.focus.sat a b)))

/-- vadd, scalar-operand form (R95). -/
def execVaddS (e : Bool) (vd va : VReg) (sb : SReg) (s : State) : Host.Outcome State Fault Refusal :=
  .next (s.vmap2 s.focus.ty.isInt e vd va (.sca sb) (fun a b => quiet (laneAdd s.focus.ty s.focus.sat a b)))

/-- vsub, scalar-operand form (R95). -/
def execVsubS (e : Bool) (vd va : VReg) (sb : SReg) (s : State) : Host.Outcome State Fault Refusal :=
  .next (s.vmap2 s.focus.ty.isInt e vd va (.sca sb) (fun a b => quiet (laneSub s.focus.ty s.focus.sat a b)))

/-- vmul, scalar-operand form (R95). -/
def execVmulS (e : Bool) (vd va : VReg) (sb : SReg) (s : State) : Host.Outcome State Fault Refusal :=
  .next (s.vmap2 s.focus.ty.isInt e vd va (.sca sb) (fun a b => quiet (laneMul s.focus.ty s.focus.sat a b)))

/-- vmulh, scalar-operand form (R95). -/
def execVmulhS (e : Bool) (vd va : VReg) (sb : SReg) (s : State) : Host.Outcome State Fault Refusal :=
  .next (s.vmap2 s.focus.ty.isInt e vd va (.sca sb) (fun a b => quiet (laneMulh s.focus.ty a b)))

/-- vmulhu, scalar-operand form (R95). -/
def execVmulhuS (e : Bool) (vd va : VReg) (sb : SReg) (s : State) : Host.Outcome State Fault Refusal :=
  .next (s.vmap2 s.focus.ty.isInt e vd va (.sca sb) (fun a b => quiet (laneMulhu s.focus.ty a b)))

/-- vand, scalar-operand form (R95). -/
def execVandS (e : Bool) (vd va : VReg) (sb : SReg) (s : State) : Host.Outcome State Fault Refusal :=
  .next (s.vmap2 s.focus.ty.isInt e vd va (.sca sb) (fun a b => quiet (a &&& b)))

/-- vor, scalar-operand form (R95). -/
def execVorS (e : Bool) (vd va : VReg) (sb : SReg) (s : State) : Host.Outcome State Fault Refusal :=
  .next (s.vmap2 s.focus.ty.isInt e vd va (.sca sb) (fun a b => quiet (a ||| b)))

/-- vxor, scalar-operand form (R95). -/
def execVxorS (e : Bool) (vd va : VReg) (sb : SReg) (s : State) : Host.Outcome State Fault Refusal :=
  .next (s.vmap2 s.focus.ty.isInt e vd va (.sca sb) (fun a b => quiet (a ^^^ b)))

/-- vshl, scalar-operand form (R95). -/
def execVshlS (e : Bool) (vd va : VReg) (sb : SReg) (s : State) : Host.Outcome State Fault Refusal :=
  .next (s.vmap2 s.focus.ty.isInt e vd va (.sca sb) (fun a b => quiet (laneShl s.focus.ty a b)))

/-- vshr, scalar-operand form (R95). -/
def execVshrS (e : Bool) (vd va : VReg) (sb : SReg) (s : State) : Host.Outcome State Fault Refusal :=
  .next (s.vmap2 s.focus.ty.isInt e vd va (.sca sb) (fun a b => quiet (laneShr s.focus.ty a b)))

/-- vsra, scalar-operand form (R95). -/
def execVsraS (e : Bool) (vd va : VReg) (sb : SReg) (s : State) : Host.Outcome State Fault Refusal :=
  .next (s.vmap2 s.focus.ty.isInt e vd va (.sca sb) (fun a b => quiet (laneSra s.focus.ty a b)))

/-- vmin, scalar-operand form (R95). -/
def execVminS (e : Bool) (vd va : VReg) (sb : SReg) (s : State) : Host.Outcome State Fault Refusal :=
  .next (s.vmap2 s.focus.ty.isInt e vd va (.sca sb) (fun a b => quiet (laneMin s.focus.ty a b)))

/-- vmax, scalar-operand form (R95). -/
def execVmaxS (e : Bool) (vd va : VReg) (sb : SReg) (s : State) : Host.Outcome State Fault Refusal :=
  .next (s.vmap2 s.focus.ty.isInt e vd va (.sca sb) (fun a b => quiet (laneMax s.focus.ty a b)))

/-- vminu, scalar-operand form (R95). -/
def execVminuS (e : Bool) (vd va : VReg) (sb : SReg) (s : State) : Host.Outcome State Fault Refusal :=
  .next (s.vmap2 s.focus.ty.isInt e vd va (.sca sb) (fun a b => quiet (Nat.min a b)))

/-- vmaxu, scalar-operand form (R95). -/
def execVmaxuS (e : Bool) (vd va : VReg) (sb : SReg) (s : State) : Host.Outcome State Fault Refusal :=
  .next (s.vmap2 s.focus.ty.isInt e vd va (.sca sb) (fun a b => quiet (Nat.max a b)))

/-- vabsd, scalar-operand form (R95). -/
def execVabsdS (e : Bool) (vd va : VReg) (sb : SReg) (s : State) : Host.Outcome State Fault Refusal :=
  .next (s.vmap2 s.focus.ty.isInt e vd va (.sca sb) (fun a b => quiet (laneAbsd s.focus.ty s.focus.sat a b)))

/-- vneg (R96). -/
def execVneg (e : Bool) (vd va : VReg) (s : State) : Host.Outcome State Fault Refusal :=
  .next (s.vmap1 s.focus.ty.isInt e vd va (fun a => quiet (laneNeg s.focus.ty s.focus.sat a)))

/-- vabs (R96). -/
def execVabs (e : Bool) (vd va : VReg) (s : State) : Host.Outcome State Fault Refusal :=
  .next (s.vmap1 s.focus.ty.isInt e vd va (fun a => quiet (laneAbs s.focus.ty s.focus.sat a)))

/-- vnot (R96). -/
def execVnot (e : Bool) (vd va : VReg) (s : State) : Host.Outcome State Fault Refusal :=
  .next (s.vmap1 s.focus.ty.isInt e vd va (fun a => quiet (2 ^ s.focus.ty.width - 1 - a)))

/-- vpopc (R96). -/
def execVpopc (e : Bool) (vd va : VReg) (s : State) : Host.Outcome State Fault Refusal :=
  .next (s.vmap1 s.focus.ty.isInt e vd va (fun a => quiet (popCount s.focus.ty.width a)))

/-- vclz (R96). -/
def execVclz (e : Bool) (vd va : VReg) (s : State) : Host.Outcome State Fault Refusal :=
  .next (s.vmap1 s.focus.ty.isInt e vd va (fun a => quiet (leadZeros s.focus.ty.width a)))

/-- vctz (R96). -/
def execVctz (e : Bool) (vd va : VReg) (s : State) : Host.Outcome State Fault Refusal :=
  .next (s.vmap1 s.focus.ty.isInt e vd va (fun a => quiet (trailZeros s.focus.ty.width 0 a)))

/-- vbrev (R96). -/
def execVbrev (e : Bool) (vd va : VReg) (s : State) : Host.Outcome State Fault Refusal :=
  .next (s.vmap1 s.focus.ty.isInt e vd va (fun a => quiet (revBits s.focus.ty.width a)))

/-- vmov (R96): a, as bits, for every TYPE. -/
def execVmov (e : Bool) (vd va : VReg) (s : State) : Host.Outcome State Fault Refusal :=
  .next (s.vmap1 true e vd va quiet)

/-- vsel (R96): every live lane is written, from a in lanes of the guard and from b outside it. -/
def execVsel (e : Bool) (vd va vb : VReg) (s : State) : Host.Outcome State Fault Refusal :=
  let t := s.focus.ty
  .next (s.vgate true [(vd.toNat, t.pair), (va.toNat, t.pair), (vb.toNat, t.pair)] [] [] (fun s =>
    (s.putLanes t.pair vd.toNat (lanesOf s.lanes s.focus.live) (fun i =>
      quiet (if bit s.focus.guard i then s.opA t va i else s.opB t (.vec vb) i))).finish e))

/-- vmad (R96). -/
def execVmad (e : Bool) (vd va vb : VReg) (s : State) : Host.Outcome State Fault Refusal :=
  .next (s.vmap3 s.focus.ty.isInt e vd va vb (fun a b c => quiet (laneMad s.focus.ty s.focus.sat a b c)))

/-- vaddi (R97). -/
def execVaddi (e : Bool) (vd va : VReg) (imm : BitVec 11) (s : State) : Host.Outcome State Fault Refusal :=
  .next (s.vmap1 s.focus.ty.isInt e vd va (fun a => quiet (s.focus.ty.narrow s.focus.sat (s.focus.ty.intVal a + imm.toInt))))

/-- vli (R98): the pattern as bits, across the pair for a 64-bit TYPE. -/
def execVli (e : Bool) (vd : VReg) (imm : BitVec 18) (s : State) : Host.Outcome State Fault Refusal :=
  let t := s.focus.ty
  .next (s.vgate true [(vd.toNat, t.pair)] [] [] (fun s =>
    (s.putLanes t.pair vd.toNat s.guardLanes (fun _ => quiet (wrap t.width imm.toInt))).finish e))

end Sys2Proof.Machine
end

