-- ==== Sys2Proof/Machine/VectorFloat.lean ====
section
/-! DEFINITION. Vector floating-point arithmetic, conversion and the log domain (R90 to R92, R99 to R104). -/

namespace Sys2Proof.Machine

open Sys2Proof

/-- The rounding context of MODE (R19, R92); what overflows gives what IEEE 754-2019 gives, whatever SAT says. -/
def Strand.rc (f : Strand) : Rnd := { rnd := f.rnd, ftz := f.ftz }

/-- The format of the strand's floating-point TYPE. -/
def Strand.fmt (f : Strand) : Fmt := f.ty.fmt.getD fmtF32

/-- An element read as a value of the strand's TYPE, subnormals as zeros under FTZ (R92). -/
def Strand.fval (f : Strand) (x : Nat) : FVal := f.fmt.read f.ftz x

/-- vfadd (R99). -/
def laneFadd (f : Strand) (a b : Nat) : Nat × Flags := f.fmt.addV f.rc (f.fval a) (f.fval b)
/-- vfsub (R92, R99): a + (−b). -/
def laneFsub (f : Strand) (a b : Nat) : Nat × Flags := f.fmt.addV f.rc (f.fval a) (f.fval b).negate
/-- vfmul (R99). -/
def laneFmul (f : Strand) (a b : Nat) : Nat × Flags := f.fmt.mulV f.rc (f.fval a) (f.fval b)
/-- vfdiv (R99). -/
def laneFdiv (f : Strand) (a b : Nat) : Nat × Flags := f.fmt.divV f.rc (f.fval a) (f.fval b)
/-- vfmin (R99). -/
def laneFmin (f : Strand) (a b : Nat) : Nat × Flags := f.fmt.minmax f.ftz false a b
/-- vfmax (R99). -/
def laneFmax (f : Strand) (a b : Nat) : Nat × Flags := f.fmt.minmax f.ftz true a b
/-- The fused operations (R101): the product's and the addend's signs inverted as they say. -/
def laneFma (f : Strand) (np nc : Bool) (a b c : Nat) : Nat × Flags :=
  let x := f.fval a
  let z := f.fval c
  f.fmt.fmaV f.rc (if np then x.negate else x) (f.fval b) (if nc then z.negate else z)

/-- vfabs (R99): the sign bit cleared; bits only. -/
def laneFabs (f : Strand) (a : Nat) : Nat := a % 2 ^ (f.ty.width - 1)
/-- vfneg (R99): the sign bit inverted; bits only. -/
def laneFneg (f : Strand) (a : Nat) : Nat := a ^^^ 2 ^ (f.ty.width - 1)
/-- vfsgn (R99): a with the sign bit of b; bits only. -/
def laneFsgn (f : Strand) (a b : Nat) : Nat := a % 2 ^ (f.ty.width - 1) + b / 2 ^ (f.ty.width - 1) * 2 ^ (f.ty.width - 1)

/-- vfadd (R99). -/
def execVfadd (e : Bool) (vd va vb : VReg) (s : State) : Host.Outcome State Fault Refusal :=
  .next (s.vmap2 s.focus.ty.isFp e vd va (.vec vb) (laneFadd s.focus))

/-- vfsub (R99). -/
def execVfsub (e : Bool) (vd va vb : VReg) (s : State) : Host.Outcome State Fault Refusal :=
  .next (s.vmap2 s.focus.ty.isFp e vd va (.vec vb) (laneFsub s.focus))

/-- vfmul (R99). -/
def execVfmul (e : Bool) (vd va vb : VReg) (s : State) : Host.Outcome State Fault Refusal :=
  .next (s.vmap2 s.focus.ty.isFp e vd va (.vec vb) (laneFmul s.focus))

/-- vfdiv (R99). -/
def execVfdiv (e : Bool) (vd va vb : VReg) (s : State) : Host.Outcome State Fault Refusal :=
  .next (s.vmap2 s.focus.ty.isFp e vd va (.vec vb) (laneFdiv s.focus))

/-- vfmin (R99). -/
def execVfmin (e : Bool) (vd va vb : VReg) (s : State) : Host.Outcome State Fault Refusal :=
  .next (s.vmap2 s.focus.ty.isFp e vd va (.vec vb) (laneFmin s.focus))

/-- vfmax (R99). -/
def execVfmax (e : Bool) (vd va vb : VReg) (s : State) : Host.Outcome State Fault Refusal :=
  .next (s.vmap2 s.focus.ty.isFp e vd va (.vec vb) (laneFmax s.focus))

/-- vfadd, scalar-operand form (R100). -/
def execVfaddS (e : Bool) (vd va : VReg) (sb : SReg) (s : State) : Host.Outcome State Fault Refusal :=
  .next (s.vmap2 s.focus.ty.isFp e vd va (.sca sb) (laneFadd s.focus))

/-- vfsub, scalar-operand form (R100). -/
def execVfsubS (e : Bool) (vd va : VReg) (sb : SReg) (s : State) : Host.Outcome State Fault Refusal :=
  .next (s.vmap2 s.focus.ty.isFp e vd va (.sca sb) (laneFsub s.focus))

/-- vfmul, scalar-operand form (R100). -/
def execVfmulS (e : Bool) (vd va : VReg) (sb : SReg) (s : State) : Host.Outcome State Fault Refusal :=
  .next (s.vmap2 s.focus.ty.isFp e vd va (.sca sb) (laneFmul s.focus))

/-- vfdiv, scalar-operand form (R100). -/
def execVfdivS (e : Bool) (vd va : VReg) (sb : SReg) (s : State) : Host.Outcome State Fault Refusal :=
  .next (s.vmap2 s.focus.ty.isFp e vd va (.sca sb) (laneFdiv s.focus))

/-- vfmin, scalar-operand form (R100). -/
def execVfminS (e : Bool) (vd va : VReg) (sb : SReg) (s : State) : Host.Outcome State Fault Refusal :=
  .next (s.vmap2 s.focus.ty.isFp e vd va (.sca sb) (laneFmin s.focus))

/-- vfmax, scalar-operand form (R100). -/
def execVfmaxS (e : Bool) (vd va : VReg) (sb : SReg) (s : State) : Host.Outcome State Fault Refusal :=
  .next (s.vmap2 s.focus.ty.isFp e vd va (.sca sb) (laneFmax s.focus))

/-- vfsqrt (R99). -/
def execVfsqrt (e : Bool) (vd va : VReg) (s : State) : Host.Outcome State Fault Refusal :=
  .next (s.vmap1 s.focus.ty.isFp e vd va (fun a => s.focus.fmt.sqrtV s.focus.rc (s.focus.fval a)))

/-- vfabs (R99). -/
def execVfabs (e : Bool) (vd va : VReg) (s : State) : Host.Outcome State Fault Refusal :=
  .next (s.vmap1 s.focus.ty.isFp e vd va (fun a => quiet (laneFabs s.focus a)))

/-- vfneg (R99). -/
def execVfneg (e : Bool) (vd va : VReg) (s : State) : Host.Outcome State Fault Refusal :=
  .next (s.vmap1 s.focus.ty.isFp e vd va (fun a => quiet (laneFneg s.focus a)))

/-- vfsgn (R99). -/
def execVfsgn (e : Bool) (vd va vb : VReg) (s : State) : Host.Outcome State Fault Refusal :=
  .next (s.vmap2 s.focus.ty.isFp e vd va (.vec vb) (fun a b => quiet (laneFsgn s.focus a b)))

/-- vfrint (R99). -/
def execVfrint (e : Bool) (vd va : VReg) (s : State) : Host.Outcome State Fault Refusal :=
  .next (s.vmap1 s.focus.ty.isFp e vd va (fun a => s.focus.fmt.rintV s.focus.rc (s.focus.fval a)))

/-- vfclass (R99): the whole lane, or the pair, takes the mask; a narrow type's lane is written whole as well. -/
def execVfclass (e : Bool) (vd va : VReg) (s : State) : Host.Outcome State Fault Refusal :=
  .next (s.vmap1 s.focus.ty.isFp e vd va (fun a => quiet (s.focus.fmt.classOf a)))

/-- vfma (R101). -/
def execVfma (e : Bool) (vd va vb : VReg) (s : State) : Host.Outcome State Fault Refusal :=
  .next (s.vmap3 s.focus.ty.isFp e vd va vb (laneFma s.focus false false))

/-- vfms (R101). -/
def execVfms (e : Bool) (vd va vb : VReg) (s : State) : Host.Outcome State Fault Refusal :=
  .next (s.vmap3 s.focus.ty.isFp e vd va vb (laneFma s.focus false true))

/-- vfnma (R101). -/
def execVfnma (e : Bool) (vd va vb : VReg) (s : State) : Host.Outcome State Fault Refusal :=
  .next (s.vmap3 s.focus.ty.isFp e vd va vb (laneFma s.focus true true))

/-- vfnms (R101). -/
def execVfnms (e : Bool) (vd va vb : VReg) (s : State) : Host.Outcome State Fault Refusal :=
  .next (s.vmap3 s.focus.ty.isFp e vd va vb (laneFma s.focus true false))

/-! ### Conversion -/

/-- vcvt (R102): source and destination each at its own width; L32 is no source (ILLEGAL subcode 4) and no destination
(subcode 5). -/
def execVcvt (e : Bool) (src : Ty) (vd va : VReg) (s : State) : Host.Outcome State Fault Refusal :=
  let t := s.focus.ty
  .next (if src == .l32 then s.illegal 4
    else s.vgate (t != .l32) [(vd.toNat, t.pair), (va.toNat, src.pair)] [] [] (fun s =>
      (s.putLanes t.pair vd.toNat s.guardLanes (fun i =>
        convert src t s.focus.rnd s.focus.sat s.focus.ftz (s.opA src va i))).finish e))

/-! ### The log domain (R103, R104): single lanes of 32 bits -/

/-- vtolog (R103, R104). -/
def execVtolog (e : Bool) (vd va : VReg) (s : State) : Host.Outcome State Fault Refusal :=
  .next (s.vmap1 (s.focus.ty == .l32) e vd va (vToLog s.focus.ftz))

/-- vfromlog (R103, R104). -/
def execVfromlog (e : Bool) (vd va : VReg) (s : State) : Host.Outcome State Fault Refusal :=
  .next (s.vmap1 (s.focus.ty == .l32) e vd va (vFromLog s.focus.ftz))

/-- vlsqrt (R103, R104). -/
def execVlsqrt (e : Bool) (vd va : VReg) (s : State) : Host.Outcome State Fault Refusal :=
  .next (s.vmap1 (s.focus.ty == .l32) e vd va (vlSqrt))

/-- vexp2 (R103, R104). -/
def execVexp2 (e : Bool) (vd va : VReg) (s : State) : Host.Outcome State Fault Refusal :=
  .next (s.vmap1 (s.focus.ty == .l32) e vd va (vExp2 s.focus.ftz))

/-- vlog2 (R103, R104). -/
def execVlog2 (e : Bool) (vd va : VReg) (s : State) : Host.Outcome State Fault Refusal :=
  .next (s.vmap1 (s.focus.ty == .l32) e vd va (vLog2))

/-- vlmul (R103, R104). -/
def execVlmul (e : Bool) (vd va vb : VReg) (s : State) : Host.Outcome State Fault Refusal :=
  .next (s.vmap2 (s.focus.ty == .l32) e vd va (.vec vb) (vlMulDiv false))

/-- vldiv (R103, R104). -/
def execVldiv (e : Bool) (vd va vb : VReg) (s : State) : Host.Outcome State Fault Refusal :=
  .next (s.vmap2 (s.focus.ty == .l32) e vd va (.vec vb) (vlMulDiv true))

/-- vlpow (R103, R104). -/
def execVlpow (e : Bool) (vd va vb : VReg) (s : State) : Host.Outcome State Fault Refusal :=
  .next (s.vmap2 (s.focus.ty == .l32) e vd va (.vec vb) (vlPow))

end Sys2Proof.Machine
end

