-- ==== Sys2Proof/Machine/CrossLane.lean ====
section
/-! DEFINITION. Compares (R105, R106), predicate operations (R107), and the cross-lane group (R120 to R124). -/

namespace Sys2Proof.Machine

open Sys2Proof

/-- The condition of `vcmp` at width w (R105). -/
def cmpHolds (c : Cmp) (w a b : Nat) : Bool :=
  match c with
  | .eq => a == b
  | .ne => a != b
  | .lt => sInt w a < sInt w b
  | .le => sInt w a ≤ sInt w b
  | .gt => sInt w b < sInt w a
  | .ge => sInt w b ≤ sInt w a
  | .ltu => a < b
  | .leu => a ≤ b
  | .gtu => b < a
  | .geu => b ≤ a

/-- Write the guarded bits of a predicate; the others keep their values (R16). -/
def State.putP (s : State) (pd : PReg) (ls : List Nat) (f : Nat → Bool) : State :=
  let g := maskOf ls
  let v := maskOf (ls.filter f)
  s.setFocus (s.focus.wrP pd ((s.focus.rdP pd &&& ~~~g) ||| v))

/-- vcmp (R105). -/
def execVcmp (e : Bool) (c : Cmp) (pd : PReg) (va vb : VReg) (s : State) : Host.Outcome State Fault Refusal :=
  let t := s.focus.ty
  .next (if pd == 0 then s.illegal 4
    else s.vgate t.isInt [(va.toNat, t.pair), (vb.toNat, t.pair)] [] [] (fun s =>
      (s.putP pd s.guardLanes (fun i => cmpHolds c t.width (s.opA t va i) (s.opB t (.vec vb) i))).finish e))

/-- vfcmp (R106). -/
def execVfcmp (e : Bool) (c : FCmp) (pd : PReg) (va vb : VReg) (s : State) : Host.Outcome State Fault Refusal :=
  let t := s.focus.ty
  .next (if pd == 0 then s.illegal 4
    else s.vgate t.isFp [(va.toNat, t.pair), (vb.toNat, t.pair)] [] [] (fun s =>
      let r := fun (i : Nat) => fcompare c (s.focus.fval (s.opA t va i)) (s.focus.fval (s.opB t (.vec vb) i))
      ((s.putP pd s.guardLanes (fun i => (r i).1)).orFlags (flagsOf (s.guardLanes.map (fun i => (i, (r i).2))))).finish e))

/-! ### Predicate operations (R107): MODE plays no part; pd is written whole -/

/-- A predicate operation: bits at and above LANES stay zero (R16); p0 as destination traps ILLEGAL subcode 4. -/
def State.predOp (s : State) (e : Bool) (pd : PReg) (rs : List SReg) (f : State → Word) : State :=
  if pd == 0 then s.illegal 4
  else s.gate rs [] [] (fun s => (s.setFocus (s.focus.wrP pd (f s &&& lowMask s.lanes))).finish e)

/-- The lowest set bit of a mask among the lanes, alone (R107). -/
def lowestBit (n : Nat) (m : Word) : Word := match lanesOf n m with
  | i :: _ => (1 : Word) <<< i
  | [] => 0

/-- pand (R107). -/
def execPand (e : Bool) (pd pa pb : PReg) (s : State) : Host.Outcome State Fault Refusal :=
  .next (s.predOp e pd [] (fun s => s.focus.rdP pa &&& s.focus.rdP pb))

/-- por (R107). -/
def execPor (e : Bool) (pd pa pb : PReg) (s : State) : Host.Outcome State Fault Refusal :=
  .next (s.predOp e pd [] (fun s => s.focus.rdP pa ||| s.focus.rdP pb))

/-- pxor (R107). -/
def execPxor (e : Bool) (pd pa pb : PReg) (s : State) : Host.Outcome State Fault Refusal :=
  .next (s.predOp e pd [] (fun s => s.focus.rdP pa ^^^ s.focus.rdP pb))

/-- pandn (R107). -/
def execPandn (e : Bool) (pd pa pb : PReg) (s : State) : Host.Outcome State Fault Refusal :=
  .next (s.predOp e pd [] (fun s => s.focus.rdP pa &&& ~~~(s.focus.rdP pb)))

/-- pnot (R107). -/
def execPnot (e : Bool) (pd pa : PReg) (s : State) : Host.Outcome State Fault Refusal :=
  .next (s.predOp e pd [] (fun s => ~~~(s.focus.rdP pa)))

/-- pmov (R107). -/
def execPmov (e : Bool) (pd pa : PReg) (s : State) : Host.Outcome State Fault Refusal :=
  .next (s.predOp e pd [] (fun s => s.focus.rdP pa))

/-- pfirst (R107). -/
def execPfirst (e : Bool) (pd pa : PReg) (s : State) : Host.Outcome State Fault Refusal :=
  .next (s.predOp e pd [] (fun s => lowestBit s.lanes (s.focus.rdP pa &&& s.focus.live)))

/-- pfroms (R107). -/
def execPfroms (e : Bool) (pd : PReg) (ra : SReg) (s : State) : Host.Outcome State Fault Refusal :=
  .next (s.predOp e pd [ra] (fun s => s.rdS ra))

/-! ### Reduction and scan (R121) -/

/-- The identity of an operator (R121). -/
def redIdentity (op : RedOp) (t : Ty) : Nat :=
  let f := t.fmt.getD fmtF32
  match op with
  | .add => 0
  | .min => if t.isFp then f.infPat false else wrap t.width t.hi
  | .max => if t.isFp then f.infPat true else wrap t.width t.lo
  | .and => 2 ^ t.width - 1
  | .or => 0
  | .xor => 0

/-- One step x ⊕ y (R121). -/
def redStep (op : RedOp) (f : Strand) (x y : Nat) : Nat × Flags :=
  let t := f.ty
  match op with
  | .add => if t.isFp then laneFadd f x y else quiet (laneAdd t f.sat x y)
  | .min => if t.isFp then laneFmin f x y else quiet (if t.isI then laneMin t x y else Nat.min x y)
  | .max => if t.isFp then laneFmax f x y else quiet (if t.isI then laneMax t x y else Nat.max x y)
  | .and => quiet (x &&& y)
  | .or => quiet (x ||| y)
  | .xor => quiet (x ^^^ y)

/-- The types an operator accepts (R120, R121). -/
def redOk (op : RedOp) (t : Ty) : Bool := t.isInt || (t.isFp && match op with
  | .add => true
  | .min => true
  | .max => true
  | _ => false)

/-- Fold in ascending lane order: the running results, the last one and the flags. -/
def redFold (op : RedOp) (f : Strand) (rd : Nat → Nat) : List Nat → Nat → Flags → List (Nat × Nat) × Nat × Flags
  | [], acc, fl => ([], acc, fl)
  | i :: t, acc, fl =>
    let r := redStep op f acc (rd i)
    let (l, a, g) := redFold op f rd t r.1 (fl.or r.2)
    ((i, r.1) :: l, a, g)

/-- A scalar result of the width of the TYPE: sign-extended for the I types, zero-extended for the others (R120); L32 among them
(DESIGN CHOICE, log 103). -/
def extendTy (t : Ty) (x : Nat) : Word := if t.isI then BitVec.ofInt 64 (sInt t.width x) else BitVec.ofNat 64 (x % 2 ^ t.width)

/-- vred (R121). -/
def execVred (e : Bool) (op : RedOp) (rd : SReg) (va : VReg) (s : State) : Host.Outcome State Fault Refusal :=
  let t := s.focus.ty
  .next (s.vgate (redOk op t) [(va.toNat, t.pair)] [] [rd] (fun s =>
    let r := redFold op s.focus (s.opA t va) s.guardLanes (redIdentity op t) Flags.none
    ((s.wrS rd (extendTy t r.2.1)).orFlags r.2.2).finish e))

/-- vscan (R121). -/
def execVscan (e : Bool) (op : RedOp) (vd va : VReg) (s : State) : Host.Outcome State Fault Refusal :=
  let t := s.focus.ty
  .next (s.vgate (redOk op t) [(vd.toNat, t.pair), (va.toNat, t.pair)] [] [] (fun s =>
    let r := redFold op s.focus (s.opA t va) s.guardLanes (redIdentity op t) Flags.none
    ((s.putElems t.pair vd.toNat r.1).orFlags r.2.2).finish e))

/-! ### Predicates to scalars (R122): MODE plays no part -/

/-- A scalar result computed from a predicate ANDed with the live mask. -/
def State.fromPred (s : State) (e : Bool) (rd : SReg) (pa : PReg) (f : State → Word → Word) : State :=
  s.gate [] [rd] [] (fun s => (s.wrS rd (f s (s.focus.rdP pa &&& s.focus.live))).finish e)

/-- vballot (R122). -/
def execVballot (e : Bool) (rd : SReg) (pa : PReg) (s : State) : Host.Outcome State Fault Refusal :=
  .next (s.fromPred e rd pa (fun _ m => m))

/-- vpcnt (R122). -/
def execVpcnt (e : Bool) (rd : SReg) (pa : PReg) (s : State) : Host.Outcome State Fault Refusal :=
  .next (s.fromPred e rd pa (fun _ m => BitVec.ofNat 64 (popCount 64 m.toNat)))

/-- vany (R122). -/
def execVany (e : Bool) (rd : SReg) (pa : PReg) (s : State) : Host.Outcome State Fault Refusal :=
  .next (s.fromPred e rd pa (fun _ m => flag (m ≠ 0)))

/-- vall (R122). -/
def execVall (e : Bool) (rd : SReg) (pa : PReg) (s : State) : Host.Outcome State Fault Refusal :=
  .next (s.fromPred e rd pa (fun s m => flag (m = s.focus.live)))

/-! ### Packing within a register (R123) -/

/-- vcompress (R123): the selected lanes, guard or not, packed from lane 0; the rest of the guard takes 0. -/
def execVcompress (e : Bool) (vd va : VReg) (p : PReg) (s : State) : Host.Outcome State Fault Refusal :=
  let t := s.focus.ty
  .next (s.vgate true [(vd.toNat, t.pair), (va.toNat, t.pair)] [] [] (fun s =>
    let m := lanesOf s.lanes (s.focus.rdP p &&& s.focus.live)
    (s.putLanes t.pair vd.toNat s.guardLanes (fun i => quiet (match m[i]? with
      | some j => s.opA t va j
      | none => 0))).finish e))

/-- The value of va at lane j read by lane i (R120). -/
def State.srcVal (s : State) (t : Ty) (va : VReg) (j i : Nat) : Nat :=
  if bit s.focus.live j then s.opA t va j
  else if s.focus.rfill then s.elem t.pair va.toNat i % 2 ^ t.width else 0

/-- vexpand (R123): guarded lanes outside the selector keep their contents. -/
def execVexpand (e : Bool) (vd va : VReg) (p : PReg) (s : State) : Host.Outcome State Fault Refusal :=
  let t := s.focus.ty
  .next (s.vgate true [(vd.toNat, t.pair), (va.toNat, t.pair)] [] [] (fun s =>
    let m := lanesOf s.lanes (s.focus.rdP p &&& s.focus.live)
    (s.putLanes t.pair vd.toNat (s.guardLanes.filter (bit (s.focus.rdP p))) (fun i =>
      quiet (s.srcVal t va (m.filter (fun k => k < i)).length i))).finish e))

/-! ### Lane numbers and single lanes (R124) -/

/-- vlaneid (R124). -/
def execVlaneid (e : Bool) (vd : VReg) (s : State) : Host.Outcome State Fault Refusal :=
  let t := s.focus.ty
  .next (s.vgate t.isInt [(vd.toNat, t.pair)] [] [] (fun s =>
    (s.putLanes t.pair vd.toNat s.guardLanes quiet).finish e))

/-- The low bits of a scalar register at the width of a type (R124). -/
def State.scalarElem (s : State) (t : Ty) (ra : SReg) : Nat := (s.rdS ra).toNat % 2 ^ t.width

/-- vfill (R124). -/
def execVfill (e : Bool) (vd : VReg) (ra : SReg) (s : State) : Host.Outcome State Fault Refusal :=
  let t := s.focus.ty
  .next (s.vgate true [(vd.toNat, t.pair)] [ra] [] (fun s =>
    (s.putLanes t.pair vd.toNat s.guardLanes (fun _ => quiet (s.scalarElem t ra))).finish e))

/-- vins (R124): the lowest selected lane of the guard alone. -/
def execVins (e : Bool) (vd : VReg) (ra : SReg) (p : PReg) (s : State) : Host.Outcome State Fault Refusal :=
  let t := s.focus.ty
  .next (s.vgate true [(vd.toNat, t.pair)] [ra] [] (fun s =>
    (s.putLanes t.pair vd.toNat ((s.guardLanes.filter (bit (s.focus.rdP p))).take 1) (fun _ => quiet (s.scalarElem t ra))).finish e))

/-- vext (R124): the lowest selected live lane, whatever the guard; 0 where there is none. -/
def execVext (e : Bool) (rd : SReg) (va : VReg) (p : PReg) (s : State) : Host.Outcome State Fault Refusal :=
  let t := s.focus.ty
  .next (s.vgate true [(va.toNat, t.pair)] [] [rd] (fun s =>
    (s.wrS rd (match lanesOf s.lanes (s.focus.rdP p &&& s.focus.live) with
      | j :: _ => extendTy t (s.opA t va j)
      | [] => 0)).finish e))

end Sys2Proof.Machine
end

