-- ==== Sys2Proof/Machine/VectorMem.lean ====
section
/-! DEFINITION. Prefixes (R51, R114), register-relative access (R6, R108), and the vector loads and stores: global (R109, R110,
R134 to R137) and scratchpad (R129, R130, R138). -/

namespace Sys2Proof.Machine

open Sys2Proof

/-! ### Prefixes: the word after them is executed under them (R52) -/

/-- The strand goes on to the next word of the unit. -/
def State.nextWord (s : State) : State := s.setFocus { s.focus with pc := s.focus.pc + 4, run := s.focus.run + 1 }

/-- route (R114). -/
def execRoute (a b c : BitVec 8) (seg : Bool) (s : State) : Host.Outcome State Fault Refusal :=
  .next ((s.setFocus { s.focus with route := some { a := a, b := b, c := c, seg := seg } }).nextWord)

/-- qual (R51): a scope of 6 or 7 traps ILLEGAL subcode 4. -/
def execQual (scope : BitVec 3) (order : Order) (cache : BitVec 2) (s : State) : Host.Outcome State Fault Refusal :=
  .next (if !scopeOk scope then s.illegal 4
    else (s.setFocus { s.focus with qual := some { scope := scope, order := order, cache := cache } }).nextWord)

/-! ### Register-relative access (R6, R108) -/

/-- The register index of R6. -/
def State.relIndex (s : State) (sb : SReg) (imm : BitVec 11) : Word := s.rdS sb + sext imm

/-- The checks of R6 on an index, then the implicit `acquire` or EJECTED subcode 2 (R33, R108). -/
def State.relGate (s : State) (pair : Bool) (x : Word) (k : State → State) : State :=
  let above := !s.holdsFull && s.crew.hdr.vprologue ≤ x.toNat + (if pair && x.toNat % 2 == 0 then 1 else 0)
  if s.crew.hdr.vregs ≤ x.toNat then s.raise 0x02 0 x
  else if above && s.focus.isRemnant then s.raise 0x0B 2 0
  else if pair && (x.toNat % 2 == 1 || s.crew.hdr.vregs ≤ x.toNat + 1) then s.illegal 4
  else if above then s.acquireThen k
  else k s

/-- A move between register `v` and the register `x` names, over the guard, as whole elements of the TYPE's width. What the field register
asks for comes before the bound of the index: its grant above the prologue, which stays, and the fault of a remote load to it that has failed
(R33, R280; DESIGN CHOICE, log 104). -/
def State.relMove (s : State) (e : Bool) (v : VReg) (sb : SReg) (imm : BitVec 11) (write : Bool) : State :=
  let t := s.focus.ty
  s.vgate true [(v.toNat, t.pair)] [sb] [] (fun s =>
    let x := s.relIndex sb imm
    s.relGate t.pair x (fun s => s.gate [] [] [(x.toNat, t.pair)] (fun s =>
      let src := if write then v.toNat else x.toNat
      let dst := if write then x.toNat else v.toNat
      (s.putLanes t.pair dst s.guardLanes (fun i => quiet (s.elem t.pair src i % 2 ^ t.width))).finish e)))

/-- vrdx (R108). -/
def execVrdx (e : Bool) (v : VReg) (sb : SReg) (imm : BitVec 11) (s : State) : Host.Outcome State Fault Refusal :=
  .next (s.relMove e v sb imm false)

/-- vwrx (R108). -/
def execVwrx (e : Bool) (v : VReg) (sb : SReg) (imm : BitVec 11) (s : State) : Host.Outcome State Fault Refusal :=
  .next (s.relMove e v sb imm true)

/-! ### Global loads. Elements are (lane, address); lanes that name one address are one access (R109, R136) -/

/-- The first element of each address. -/
def distinct : List (Nat × Nat) → List Nat → List (Nat × Nat)
  | [], _ => []
  | x :: t, seen => if seen.contains x.2 then distinct t seen else x :: distinct t (x.2 :: seen)

/-- Every lane of an access gets the reply to its address. -/
def State.spreadParts (s : State) (xs : List (Nat × Nat)) : State :=
  match s.focus.remotes.reverse with
  | [] => s
  | m :: t =>
    let ps := m.parts.flatMap (fun p => (xs.filter (fun x => x.2 == p.va.toNat)).map (fun x => { p with lane := x.1 }))
    s.setFocus { s.focus with remotes := (({ m with parts := ps } : Remote) :: t).reverse }

/-- A watchpoint: DEBUG subcode 4 at its lane and address (R313). -/
def State.watched (s : State) (e : Elem) : State := s.raiseAt 0x0D 4 e.lane (BitVec.ofNat 64 e.va)

/-! ### What demand accesses mean to the streams of their crew (R198) -/

/-- Extents and strides of a stream in the layout of R196. -/
def sAddr (d : Desc) (l : Nat) : Nat :=
  let n := fun (i : Nat) => Nat.max 1 (field d (8 + 4 * i) 4)
  let st := fun (i : Nat) => sInt 32 (field d (24 + 4 * i) 4)
  wrap 64 ((field d 0 8 : Int) + (l % n 0 : Nat) * st 0 + (l / n 0 % n 1 : Nat) * st 1 + (l / n 0 / n 1 % n 2 : Nat) * st 2
    + (l / n 0 / n 1 / n 2 : Nat) * st 3)

/-- Elements of a stream. -/
def sCount (d : Desc) : Nat :=
  Nat.max 1 (field d 8 4) * Nat.max 1 (field d 12 4) * Nat.max 1 (field d 16 4) * Nat.max 1 (field d 20 4)

/-- An address in each 128-byte line that an element of a stream touches. -/
def elemLines (d : Desc) (l : Nat) : List Nat :=
  let a := sAddr d l
  if a % 128 + field d 40 1 ≤ 128 then [a] else [a, (a / 128 + 1) * 128 % 2 ^ 64]

/-- The lines of a stream's elements from the furthest touched up to element `n`. -/
def sLines (x : Stream) (n : Nat) : List Nat :=
  ((below (n - x.seen)).flatMap (fun i => (elemLines x.desc (x.seen + i)).map (fun a => a / 128))).eraseDups

/-- A demand access touches the elements of a running stream that lie in its line. -/
def sTouch (va : Nat) (x : Stream) : Stream :=
  match ((below (x.next + 1 - x.seen)).filter (fun i => sAddr x.desc (x.seen + i) / 128 == va / 128)).reverse with
  | i :: _ => { x with seen := x.seen + i + 1 }
  | [] => x

/-- Tell the crew's running streams of an access. -/
def State.touch (s : State) (es : List Elem) : State :=
  if s.crew.streams.isEmpty then s
  else s.setCrew { s.crew with streams := s.crew.streams.map (fun x =>
    if x.running then es.foldl (fun x e => sTouch e.va x) x else x) }

/-- Load elements (R109, R126, R135): every check first, lowest lane first; then the accesses; `k` gets (lane, value) of those
that stay in this package, the others are delivered to `dest` when their replies come (R279). -/
def State.loadElems (s : State) (size : Nat) (xs : List (Nat × Nat)) (dest : Dest) (k : State → List (Nat × Word) → State) : State :=
  s.memGate (fun s =>
    let reps := distinct xs []
    match s.checkElems .load size reps with
    | (s, _, some b) => s.raiseBad b
    | (s, es, none) => match s.dataBrk .load es with
      | some e => s.watched e
      | none => s.remoteRoom es (fun s =>
          s.loadThen true size (localElems es) (fun s vs =>
            let far := fabElems es
            let s := if far.isEmpty then s
              else (s.remoteIssue far 0 size true false s.order.hasAcq dest (fun _ => (none, []))).spreadParts xs
            let s := (s.touch es).acquireL1 s.scope s.order
            k s (xs.filterMap (fun x => (reps.find? (fun r => r.2 == x.2)).bind (fun r => (look r.1 vs).map (fun v => (x.1, v))))))))

/-- Where a vector load delivers (R16, R91). -/
def vdest (vd : VReg) (size : Nat) : Dest := .vreg vd size

/-- A vector load of the guarded lanes at `ea`. -/
def State.vload (s : State) (e : Bool) (vd : VReg) (sb : SReg) (vo : Option VReg) (ea : State → Nat → Word) : State :=
  let t := s.focus.ty
  if !s.qualOk .load then s.illegal 4
  else s.vgate (t != .f4) ((vd.toNat, t.pair) :: (match vo with
      | some v => [(v.toNat, false)]
      | none => [])) [sb] [] (fun s =>
    let xs := s.guardLanes.map (fun i => (i, (ea s i).toNat))
    s.loadElems t.esize xs (vdest vd t.esize) (fun s vs =>
      (s.putElems t.pair vd.toNat (vs.map (fun v => (v.1, v.2.toNat)))).finish e))

/-- The base of a unit-stride or uniform form (R109). -/
def State.unitBase (s : State) (sb : SReg) (imm : BitVec 9) : Word := s.rdS sb + sext imm * BitVec.ofNat 64 s.focus.ty.esize

/-- The address of lane `i` of a unit-stride access (R109). -/
def State.unitEa (s : State) (sb : SReg) (imm : BitVec 9) (i : Nat) : Word :=
  s.unitBase sb imm + BitVec.ofNat 64 (i * s.focus.ty.esize)

/-- The address of lane `i` of a gather or scatter: the offset is field B's routed lane, signed, scaled (R135, R138). -/
def State.scaledEa (s : State) (sb : SReg) (vo : VReg) (sc : BitVec 2) (i : Nat) : Word :=
  s.rdS sb + BitVec.ofInt 64 (sInt 32 (s.routed 1 false vo.toNat i) * (2 ^ sc.toNat : Nat))

/-- vld (R109). -/
def execVld (e : Bool) (vd : VReg) (sb : SReg) (imm : BitVec 9) (s : State) : Host.Outcome State Fault Refusal :=
  .next (s.vload e vd sb none (fun s i => s.unitEa sb imm i))

/-- vld.uni (R109). -/
def execVldUni (e : Bool) (vd : VReg) (sb : SReg) (imm : BitVec 9) (s : State) : Host.Outcome State Fault Refusal :=
  .next (s.vload e vd sb none (fun s _ => s.unitBase sb imm))

/-- vldx (R135, R136). -/
def execVldx (e : Bool) (vd : VReg) (sb : SReg) (vo : VReg) (sc : BitVec 2) (s : State) : Host.Outcome State Fault Refusal :=
  .next (s.vload e vd sb (some vo) (fun s i => s.scaledEa sb vo sc i))

/-! ### Global stores -/

/-- The data of lane `i` of a vector store: field C's routed element, cut to the TYPE's width (R109). -/
def State.storeData (s : State) (vd : VReg) (i : Nat) : Nat := s.routed 2 s.focus.ty.pair vd.toNat i % 2 ^ s.focus.ty.width

/-- Park held by MIG at the first element of `es` that is; the elements in `done_` stay performed, with those of `all` that they replace,
and the others are translated again (R136, R288). -/
def State.holdMig (s : State) (all es done_ : List Elem) : State :=
  let s := s.keepStored all done_
  let s := s.setFocus { s.focus with checked := [] }
  match es.find? (fun e => e.held) with
  | some e => if s.migHeld s.crew.die e.va then s.parkRetry (.wait (.mig e.va)) else s.notReady
  | none => s.notReady

/-- Store elements checked whole and performed whole or not at all (R109). -/
def State.storeWhole (s : State) (size : Nat) (xs : List (Nat × Nat)) (val : Nat → Nat) (k : State → State) : State :=
  s.writeGate (fun s => match s.checkElems .store size (xs.filter (fun x => (look x.1 s.focus.got).isNone)) with
    | (s, _, some b) => s.raiseBad b
    | (s, es, none) => match s.dataBrk .store es with
      | some e => s.watched e
      | none => if es.any (fun e => e.held) then s.holdMig es es [] else s.storeThen size es es val (fun s => k (s.touch es)))

/-- The elements that no later element of the list replaces at the same address (R136). -/
def lastWins : List Elem → List Elem
  | [] => []
  | e :: t => if t.any (fun x => x.va == e.va) then lastWins t else e :: lastWins t

/-- The elements before the first that is held. -/
def beforeHeld : List Elem → List Elem
  | [] => []
  | e :: t => if e.held then [] else e :: beforeHeld t

/-- Store elements one after the other: those before the first that fails or is held are performed; of those that name one
address only the highest (R135, R136, R137, R288). `fail` acts before the fault of an element is raised. A data breakpoint stops it
before any element is performed (R313). -/
def State.storeEach (s : State) (size : Nat) (xs : List (Nat × Nat)) (val : Nat → Nat) (fail : State → Bad → State)
    (k : State → State) : State :=
  s.writeGate (fun s =>
    let xs := xs.filter (fun x => (look x.1 s.focus.got).isNone)
    match s.checkElems .store size xs with
    | (s, es, bad) =>
      let now := beforeHeld es
      let run := now.filter (fun e => (lastWins es).contains e)
      match s.dataBrk .store es with
      | some e => s.watched e
      | none => s.storeThen size now run val (fun s =>
          let s := s.touch now
          if now.length < es.length then s.holdMig now es run
          else match bad with
            | some b => (fail s b).raiseBad b
            | none => k s))

/-- The checks a vector store makes at issue. -/
def State.vstGate (s : State) (vd : VReg) (sb : SReg) (vo : Option VReg) (k : State → State) : State :=
  let t := s.focus.ty
  if !s.qualOk .store then s.illegal 4
  else s.vgate (t != .f4) ((vd.toNat, t.pair) :: (match vo with
      | some v => [(v.toNat, false)]
      | none => [])) [sb] [] k

/-- vst (R109). -/
def execVst (e : Bool) (vd : VReg) (sb : SReg) (imm : BitVec 9) (s : State) : Host.Outcome State Fault Refusal :=
  .next (s.vstGate vd sb none (fun s =>
    s.storeWhole s.focus.ty.esize (s.guardLanes.map (fun i => (i, (s.unitEa sb imm i).toNat))) (s.storeData vd) (fun s => s.finish e)))

/-- vstx (R135, R136). -/
def execVstx (e : Bool) (vd : VReg) (sb : SReg) (vo : VReg) (sc : BitVec 2) (s : State) : Host.Outcome State Fault Refusal :=
  .next (s.vstGate vd sb (some vo) (fun s =>
    s.storeEach s.focus.ty.esize (s.guardLanes.map (fun i => (i, (s.scaledEa sb vo sc i).toNat))) (s.storeData vd)
      (fun s _ => s) (fun s => s.finish e)))

/-- The elements of a `vstc` from element `p` on: the k-th guarded lane at base + k × esize (R111, R137). -/
def packedFrom (base : Word) (size : Nat) : Nat → List Nat → List (Nat × Nat)
  | _, [] => []
  | k, i :: t => (i, (base + BitVec.ofNat 64 (k * size)).toNat) :: packedFrom base size (k + 1) t

/-- vstc (R111, R137): PROGRESS is the number of the first element still to perform. -/
def execVstc (e : Bool) (vd : VReg) (sb : SReg) (imm : BitVec 9) (s : State) : Host.Outcome State Fault Refusal :=
  .next (s.vstGate vd sb none (fun s =>
    let g := s.guardLanes
    let p := s.focus.progress.toNat
    let size := s.focus.ty.esize
    if g.length ≤ p then (s.setFocus { s.focus with progress := 0 }).finish e
    else s.storeEach size (packedFrom (s.unitBase sb imm + BitVec.ofNat 64 (p * size)) size 0 (g.drop p)) (s.storeData vd)
      (fun s b => s.setFocus { s.focus with progress := BitVec.ofNat 64 (g.filter (fun i => i < b.lane)).length })
      (fun s => (s.setFocus { s.focus with progress := 0 }).finish e)))

/-! ### Scratchpad (R129, R130, R138) -/

/-- The guarded lanes of a scratchpad access, as (lane, address), split into those that pass R129 and those that are killed. -/
def State.spSplit (s : State) (size : Nat) (ea : Nat → Word) : List (Nat × Nat) × List (Nat × Nat) :=
  let xs := s.guardLanes.map (fun i => (i, (ea i).toNat))
  (xs.filter (fun x => s.spOk x.2 size), xs.filter (fun x => !(s.spOk x.2 size)))

/-- A scratchpad load: lanes that pass take their elements, then the others are killed (R130). -/
def State.spLoad (s : State) (e : Bool) (swz : BitVec 3) (vd : VReg) (sb : SReg) (vo : Option VReg) (ea : State → Nat → Word) : State :=
  let t := s.focus.ty
  if !s.qualOk .spLoad then s.illegal 4
  else s.vgate (t != .f4) ((vd.toNat, t.pair) :: (match vo with
      | some v => [(v.toNat, false)]
      | none => [])) [sb] [] (fun s => s.memGate (fun s =>
    let x := s.spSplit t.esize (ea s)
    let vs := x.1.map (fun y => (y.1, s.crew.spRead (swizzle swz.toNat t.esize y.2) t.esize))
    (((s.putElems t.pair vd.toNat vs).kill x.2).acquireL1 s.scope s.order).finish e))

/-- Write elements into the crew's scratchpad, ascending (R138), and complete the Latch waits that this ends (R186). -/
def State.spPut (s : State) (swz size : Nat) (xs : List (Nat × Nat)) (val : Nat → Nat) : State :=
  (s.setCrew (xs.foldl (fun c x => c.spWrite (swizzle swz size x.2) (leBytes size (val x.1))) s.crew)).wakeLatches s.crew.uid

/-- A scratchpad store (R130, R138). -/
def State.spStore (s : State) (e : Bool) (swz : BitVec 3) (vd : VReg) (sb : SReg) (vo : Option VReg) (ea : State → Nat → Word) : State :=
  let t := s.focus.ty
  if !s.qualOk .spStore then s.illegal 4
  else s.vgate (t != .f4) ((vd.toNat, t.pair) :: (match vo with
      | some v => [(v.toNat, false)]
      | none => [])) [sb] [] (fun s => s.writeGate (fun s =>
    let x := s.spSplit t.esize (ea s)
    ((s.spPut swz.toNat t.esize x.1 (s.storeData vd)).kill x.2).finish e))

/-- vlds (R138). -/
def execVlds (e : Bool) (swz : BitVec 3) (vd : VReg) (sb : SReg) (imm : BitVec 9) (s : State) : Host.Outcome State Fault Refusal :=
  .next (s.spLoad e swz vd sb none (fun s i => s.unitEa sb imm i))

/-- vsts (R138). -/
def execVsts (e : Bool) (swz : BitVec 3) (vd : VReg) (sb : SReg) (imm : BitVec 9) (s : State) : Host.Outcome State Fault Refusal :=
  .next (s.spStore e swz vd sb none (fun s i => s.unitEa sb imm i))

/-- vldsx (R138). -/
def execVldsx (e : Bool) (swz : BitVec 3) (vd : VReg) (sb : SReg) (vo : VReg) (sc : BitVec 2) (s : State) : Host.Outcome State Fault Refusal :=
  .next (s.spLoad e swz vd sb (some vo) (fun s i => s.scaledEa sb vo sc i))

/-- vstsx (R138). -/
def execVstsx (e : Bool) (swz : BitVec 3) (vd : VReg) (sb : SReg) (vo : VReg) (sc : BitVec 2) (s : State) : Host.Outcome State Fault Refusal :=
  .next (s.spStore e swz vd sb (some vo) (fun s i => s.scaledEa sb vo sc i))

end Sys2Proof.Machine
end

