-- ==== Sys2Proof/Machine/ScalarMem.lean ====
section
/-! DEFINITION. Scalar loads and stores (R86), atomics (R228 to R233), `fence` (R234, R236) and `waitc` (R240). -/

namespace Sys2Proof.Machine

open Sys2Proof

/-- The address of `sld` and `sst` (R86). -/
def State.scalarEa (s : State) (size : BitVec 2) (sb : SReg) (imm : BitVec 9) : Word :=
  s.rdS sb + sext imm * BitVec.ofNat 64 (2 ^ size.toNat)

/-- A loaded value in its register: sign- or zero-extended (R86). -/
def extendLoad (size : Nat) (sign : Bool) (x : Word) : Word :=
  if sign then BitVec.ofInt 64 (sInt (8 * size) x.toNat) else BitVec.ofNat 64 (x.toNat % 2 ^ (8 * size))

/-- The checks of a scalar scratchpad access (R86): ADDR subcode 1, then ALIGN subcode 1, at lane 0 (R301). -/
def State.spGate (s : State) (a : Word) (size : Nat) (k : State → State) : State :=
  if s.crew.hdr.scratch ≤ a.toNat || s.crew.hdr.scratch < a.toNat + size then s.raiseAt 0x04 1 0 a
  else if a.toNat % size ≠ 0 then s.raiseAt 0x03 1 0 a
  else k s

/-- sld (R86). -/
def execSld (e : Bool) (size : BitVec 2) (sign sp : Bool) (rd sb : SReg) (imm : BitVec 9) (s : State) : Host.Outcome State Fault Refusal :=
  let n := 2 ^ size.toNat
  .next (if (sign && size == 3) || !s.qualOk (if sp then .spLoad else .load) then s.illegal 4
    else s.gate [sb] [rd] [] (fun s =>
      let a := s.scalarEa size sb imm
      if sp then s.memGate (fun s => s.spGate a n (fun s =>
        ((s.wrS rd (extendLoad n sign (BitVec.ofNat 64 (s.crew.spRead a.toNat n)))).acquireL1 s.scope s.order).finish e))
      else s.loadElems n [(0, a.toNat)] (if rd == 0 then .none else .sreg rd n sign) (fun s vs =>
        (match vs with
          | (_, v) :: _ => s.wrS rd (extendLoad n sign v)
          | [] => s).finish e)))

/-- sst (R86). -/
def execSst (e : Bool) (size : BitVec 2) (sp : Bool) (rd sb : SReg) (imm : BitVec 9) (s : State) : Host.Outcome State Fault Refusal :=
  let n := 2 ^ size.toNat
  .next (if !s.qualOk (if sp then .spStore else .store) then s.illegal 4
    else s.gate [sb, rd] [] [] (fun s =>
      let a := s.scalarEa size sb imm
      let v := (s.rdS rd).toNat
      if sp then s.writeGate (fun s => s.spGate a n (fun s => (s.spPut 0 n [(0, a.toNat)] (fun _ => v)).finish e))
      else s.storeWhole n [(0, a.toNat)] (fun _ => v % 2 ^ (8 * n)) (fun s => s.finish e)))

/-! ### Atomics -/

/-- The types a vector atomic accepts (R229). -/
def atomTypeOk (op : AOp) (t : Ty) : Bool :=
  let int := t == .i32 || t == .n32 || t == .i64 || t == .n64
  match op with
  | .fadd => t == .f32
  | .xchg => int || t == .f32
  | .cas => int || t == .f32
  | _ => int

/-- How many registers from vd on a vector atomic reads (R230). -/
def atomRegs (op : AOp) (pair : Bool) : Nat := (if op == .cas then 2 else 1) * (if pair then 2 else 1)

/-- The checks of a vector atomic at issue: an odd register of a pair, the TYPE, every register named (R229, R230). -/
def State.atomGate (s : State) (op : AOp) (vd : VReg) (sb : SReg) (vo : VReg) (k : State → State) : State :=
  let p := s.focus.ty.pair
  let n := atomRegs op p
  if p && vd.toNat % 2 == 1 then s.illegal 4
  else if !atomTypeOk op s.focus.ty then s.illegal 5
  else if s.crew.hdr.vregs < vd.toNat + n then s.raise 0x02 1 (BitVec.ofNat 64 vd.toNat)
  else
    let vs := (below n).map (fun i => (vd.toNat + i, false)) ++ [(vo.toNat, false)]
    s.boundGate vs (fun s => s.gate [sb] [] vs k)

/-- The operands of lane `i` (R229, R230): for cas the compare value and then the new value. -/
def State.laneArgs (s : State) (op : AOp) (ret : Bool) (vd : VReg) (i : Nat) : AtomArgs :=
  let p := s.focus.ty.pair
  { op := op, w64 := p, x := BitVec.ofNat 64 (s.elem p vd.toNat i),
    y := if op == .cas then BitVec.ofNat 64 (s.elem p (vd.toNat + (if p then 2 else 1)) i) else 0, ret := ret }

/-- The address of lane `i` (R231, R232). -/
def State.atomEa (s : State) (sb : SReg) (vo : VReg) (i : Nat) : Word :=
  s.rdS sb + BitVec.ofInt 64 (sInt 32 (s.elem false vo.toNat i))

/-- The L1 copies of an atomic's lines are dropped when it completes (R127). -/
def State.dropAtomL1 (s : State) (es : List Elem) : State := es.foldl (fun s e => s.dropL1Line s.crew.die s.crew.core (e.pa / 16)) s

/-- Atomic elements (R228, R231): checked whole, then performed in ascending order; `k` gets the old values of those in this
package once all are there. -/
def State.atomElems (s : State) (size : Nat) (xs : List (Nat × Nat)) (ret : Bool) (dest : Dest) (args : State → Nat → AtomArgs)
    (k : State → List (Nat × Word) → State) : State :=
  s.writeGate (fun s => match s.checkElems .atomic size xs with
    | (s, _, some b) => s.raiseBad b
    | (s, es, none) => match s.dataBrk .atomic es with
      | some e => s.watched e
      | none =>
        if es.any (fun e => e.held) then s.holdMig es es []
        else
          let go := fun (s : State) => match s.atomAll size ret dest (args s) es with
            | (s, _, false) => (s.keepChecked es).notReady
            | (s, vs, true) => k (((s.dropAtomL1 (localElems es)).touch es).acquireL1 s.scope s.order) vs
          if ret && s.focus.got.isEmpty then s.remoteRoom es go else go s)

/-- vatom (R229 to R231). -/
def execVatom (e : Bool) (op : AOp) (ret : Bool) (vd : VReg) (sb : SReg) (vo : VReg) (s : State) : Host.Outcome State Fault Refusal :=
  .next (if !s.qualOk .atomic then s.illegal 4
    else s.atomGate op vd sb vo (fun s =>
      let t := s.focus.ty
      s.atomElems t.esize (s.guardLanes.map (fun i => (i, (s.atomEa sb vo i).toNat))) ret (if ret then vdest vd t.esize else .none)
        (fun s i => s.laneArgs op ret vd i) (fun s vs =>
          (if ret then s.putElems t.pair vd.toNat (vs.map (fun v => (v.1, v.2.toNat))) else s).finish e)))

/-- Perform scratchpad atomics in ascending lane order: the old values and the crew (R228, R232). -/
def spAtomics (size : Nat) (args : Nat → AtomArgs) : List (Nat × Nat) → Crew → List (Nat × Nat) × Crew
  | [], c => ([], c)
  | x :: t, c =>
    let a := args x.1
    let m := c.spRead x.2 size
    let r := atomNew a.op (8 * size) m (a.x.toNat % 2 ^ (8 * size)) (a.y.toNat % 2 ^ (8 * size))
    let (l, d) := spAtomics size args t (c.spWrite x.2 (leBytes size r))
    ((x.1, m) :: l, d)

/-- vatoms (R229, R230, R232). -/
def execVatoms (e : Bool) (op : AOp) (ret : Bool) (vd : VReg) (sb : SReg) (vo : VReg) (s : State) : Host.Outcome State Fault Refusal :=
  .next (if !s.qualOk .spAtomic then s.illegal 4
    else s.atomGate op vd sb vo (fun s => s.writeGate (fun s =>
      let t := s.focus.ty
      let x := s.spSplit t.esize (s.atomEa sb vo)
      let r := spAtomics t.esize (s.laneArgs op ret vd) x.1 s.crew
      let u := (s.setCrew r.2).wakeLatches s.crew.uid
      let u := if ret then u.putElems t.pair vd.toNat r.1 else u
      ((u.kill x.2).acquireL1 s.scope s.order).finish e)))

/-- satom (R229, R230, R233): MODE plays no part; s0 as operand is 0 and discards what is returned. -/
def execSatom (e : Bool) (op : AOp) (ret w : Bool) (rd ra rb : SReg) (s : State) : Host.Outcome State Fault Refusal :=
  let n := if w then 8 else 4
  .next (if (op == .fadd && w) || (op == .cas && rd == 63) || !s.qualOk .atomic then s.illegal 4
    else s.gate ([ra, rb, rd] ++ (if op == .cas then [rd + 1] else [])) (if ret then [rd] else []) [] (fun s =>
      let a := s.rdS ra + s.rdS rb
      s.atomElems n [(0, a.toNat)] ret (if ret && rd != 0 then .sreg rd n false else .none)
        (fun s _ => { op := op, w64 := w, x := s.rdS rd, y := if op == .cas then s.rdS (rd + 1) else 0, ret := ret })
        (fun s vs => (match vs with
          | (_, v) :: _ => if ret then s.wrS rd v else s
          | [] => s).finish e)))

/-! ### fence (R234, R236) -/

/-- fence: with release it waits until every earlier access is complete to the scope, at sys scope for multicast members too;
with acquire until every earlier load has its value, and then the L1 is emptied at die scope or wider (R127), and later accesses follow what
those loads, of whatever scope, may have read (R252; DEDUCED, log 27). -/
def execFence (e : Bool) (scope : BitVec 3) (order : Order) (s : State) : Host.Outcome State Fault Refusal :=
  .next (if !scopeOk scope || order == .rlx then s.illegal 4
    else
      let fin := fun (s : State) =>
        let s := s.acquireL1 scope.toNat order
        (if order.hasAcq && 4 ≤ scope.toNat then s.followRead true else s).finish e
      let rel := fun (s : State) => s.releaseGate scope.toNat (fun s => if 5 ≤ scope.toNat then s.mcastDrain fin else fin s)
      if order.hasRel then rel s
      else if s.focus.remotes.any (fun m => m.reads) then s.parkRetry .remoteLoad
      else fin s)

/-! ### waitc (R240) -/

/-- The TIME of the next rereading of a word read at intervals. -/
def State.rereadAt (s : State) (e : Elem) : Option Nat :=
  if pteFab e.leaf.pte then some (s.time + 2000)
  else if 2 ≤ ptePlace e.leaf.pte then some (s.time + 1000)
  else if inHost e.pa && (s.holdOf (.die s.crew.die) (e.pa / 16)).count == 0 then some (s.time + 1000)
  else none

/-- One read of the word (R127: never from the L1): its value, or nothing yet. A word of another package is asked for by a packet
whose reply is found by its transaction. -/
def State.waitcRead (s : State) (e : Elem) : State × Option Word :=
  if pteFab e.leaf.pte then
    match look 0 s.focus.got with
    | some v => (s, some v)
    | none =>
      if (look 0 s.focus.asked).isSome then (s, none)
      else
        let n := s.fresh % 65536
        let s := s.remoteIssue [e] 0 8 true false false .none (fun _ => (none, []))
        (s.setFocus { s.focus with asked := [(0, n)] }, none)
  else s.loadLocal false 8 e

/-- Nothing of a look at the word is in hand. -/
def Strand.noLook (f : Strand) : Bool := f.got.isEmpty && f.asked.isEmpty && f.fills.isEmpty && f.wants.isEmpty

/-- The look in hand is over. -/
def State.endLook (s : State) : State := s.setFocus { s.focus with got := [], asked := [], fills := [], wants := [] }

/-- A look has found `v`: end with 1 where it differs; else with 0 once the timeout has passed and the look was begun less than 2 µs
before it, so that no older store is missed; else park until the next wake event; `again` looks once more (R240). -/
def State.waitcSaw (s : State) (i : Instr) (rd rb : SReg) (e : Elem) (deadline since : Nat) (v : Word) (again : State → State) : State :=
  let s := s.endLook
  if v ≠ s.rdS rb then ((s.wrS rd 1).acquireL1 s.scope s.order).finish true
  else if deadline ≤ s.time then
    if deadline < since + 2000 then ((s.wrS rd 0).acquireL1 s.scope s.order).finish true else again s
  else s.parkIn i (.wait (.waitc deadline (s.rereadAt e) (e.pa / 16) false since))

/-- Look at the word; while its value is not there the strand stays parked, and looks again when it comes (R240). -/
def State.waitcLook (s : State) (i : Instr) (rd rb : SReg) (e : Elem) (deadline since : Nat) : State :=
  let stay := fun (s : State) (n : Nat) => s.parkIn i (.wait (.waitc deadline (s.rereadAt e) (e.pa / 16) false n))
  match s.waitcRead e with
  | (s, none) => stay s since
  | (s, some v) => s.waitcSaw i rd rb e deadline since v (fun s => match s.waitcRead e with
    | (s, none) => stay s s.time
    | (s, some v) => s.waitcSaw i rd rb e deadline s.time v (fun s => stay s s.time))

/-- waitc (R240): the first look; later ones come with WAITC_WAKE, WAITC_REREAD and WAITC_TIMEOUT. Behind a fabric window each look
is a remote load, which parks while 16 are outstanding (R279). -/
def execWaitc (rd ra rb : SReg) (s : State) : Host.Outcome State Fault Refusal :=
  .next (if !s.qualOk .wait then s.illegal 4
    else s.gate [ra, rb] [rd] [] (fun s => s.memGate (fun s =>
      match s.checkElems .load 8 [(0, (s.rdS ra).toNat)] with
      | (s, _, some b) => s.raiseBad b
      | (s, es, none) => match s.dataBrk .load es with
        | some e => s.watched e
        | none => match es with
          | e :: _ => s.remoteRoom es (fun s => (s.keepChecked es).waitcLook (.waitc rd ra rb) rd rb e (s.time + 10000) s.time)
          | [] => s.finish true)))

/-- A parked `waitc` looks again at its word; translations that passed at issue are kept (R289). -/
def State.waitcAgain (s : State) : State :=
  match s.focus.cur, s.focus.park with
  | .waitc rd ra rb, some (.wait (.waitc deadline _ _ _ since)) =>
    match s.checkElems .load 8 [(0, (s.rdS ra).toNat)] with
    | (s, e :: _, none) =>
      let n := if s.focus.noLook then s.time else since
      (s.setFocus { s.focus with state := .issuing, park := none }).waitcLook (.waitc rd ra rb) rd rb e deadline n
    | (s, _, some b) => s.raiseBad b
    | (s, [], none) => s
  | _, _ => s

end Sys2Proof.Machine
end

