-- ==== Sys2Proof/Machine/Barriers.lean ====
section
/-! DEFINITION. Crew barriers and the grid barrier (R237 to R239), Latches (R184 to R186) and the strands' side of Hinges (R166,
R167). -/

namespace Sys2Proof.Machine

open Sys2Proof

/-! ### Barriers -/

/-- The issuing strand's arrived bit at a barrier (R237). -/
def State.arrived (s : State) (id : BitVec 4) : Bool := (s.crew.bar id).arrived.getLsbD s.focus.idx

/-- The issuing strand arrives: its bit is set, and the phase it arrives in is kept (R237). -/
def State.arrive (s : State) (id : BitVec 4) : State :=
  s.setCrew (s.crew.modBar id (fun b => { b with arrived := b.arrived ||| BitVec.ofNat 16 (2 ^ s.focus.idx),
                                                 last := set16 b.last s.focus.idx (some b.phase) }))

/-- Before an arrival: a crew-scope release (R238), and a strand that has arrived already parks until the phase completes
(R237; for `bar` DEDUCED, log 18). -/
def State.arriveGate (s : State) (id : BitVec 4) (k : State → State) : State :=
  s.rootGate (fun s => s.releaseGate 1 (fun s => if s.arrived id then s.parkRetry (.barrier (some id)) else k s))

/-- bar (R237, R238). -/
def execBar (id : BitVec 4) (s : State) : Host.Outcome State Fault Refusal :=
  .next (s.arriveGate id (fun s => ((s.arrive id).parkIn (.bar id) (.barrier (some id))).barCheck s.crew.uid id))

/-- bar.arrive (R237, R238). -/
def execBarArrive (e : Bool) (id : BitVec 4) (s : State) : Host.Outcome State Fault Refusal :=
  .next (s.arriveGate id (fun s => ((s.arrive id).finish e).barCheck s.crew.uid id))

/-- bar.wait (R237): completes at once where the phase of the last arrival has completed or there was none. -/
def execBarWait (id : BitVec 4) (s : State) : Host.Outcome State Fault Refusal :=
  .next (s.rootGate (fun s =>
    if at16 (s.crew.bar id).last s.focus.idx == some (s.crew.bar id).phase then s.parkIn (.barWait id) (.barrier (some id))
    else s.finish true))

/-- gbar (R239): COOP subcode 1 in a kernel without COOP. It carries no ordering (R238), but what the strand reads in other packages has
been read before it arrives (R226, R251; DEDUCED, log 98). -/
def execGbar (s : State) : Host.Outcome State Fault Refusal :=
  .next (s.rootGate (fun s =>
    if !s.crew.hdr.coop then s.raise 0x0E 1 0
    else if s.focus.remotes.any (fun m => m.reads) then s.parkRetry .remoteLoad
    else
      let s := s.setCrew { s.crew with garrived := s.crew.garrived ||| BitVec.ofNat 16 (2 ^ s.focus.idx) }
      (s.parkIn .gbar (.barrier none)).gbarCheck s.crew.die s.crew.slot))

/-! ### Latches (R186): like every access to memory they wait for outstanding acquire loads (R226) -/

/-- The checks of a Latch offset: ALIGN subcode 1, then ADDR subcode 1 (R186) (DEDUCED, log 41). -/
def State.latchGate (s : State) (a : Word) (k : State → State) : State :=
  if a.toNat % 8 ≠ 0 then s.raise 0x03 1 a
  else if s.crew.hdr.scratch < a.toNat + 8 then s.raise 0x04 1 a
  else k s

/-- Write a Latch word of the issuing crew and complete the waits that this ends (R186). -/
def State.setLatch (s : State) (a : Nat) (w : Word) : State :=
  (s.setCrew (s.crew.spWrite a (leBytes 8 w.toNat))).wakeLatches s.crew.uid

/-- A Latch just initialised (R186): PHASE 0, PENDING n, EXPECTED n. -/
def latchInit (n : Nat) : Word := BitVec.ofNat 64 (n * 2 ^ 32 + n)

/-- ltinit (R186): n outside 1 to 2^30 − 1 traps ILLEGAL subcode 4. -/
def execLtinit (e : Bool) (ra rb : SReg) (s : State) : Host.Outcome State Fault Refusal :=
  .next (s.gate [ra, rb] [] [] (fun s => s.latchGate (s.rdS ra) (fun s =>
    let n := (s.rdS rb).toNat
    if n < 1 || 2 ^ 30 - 1 < n then s.illegal 4 else s.writeGate (fun s => (s.setLatch (s.rdS ra).toNat (latchInit n)).finish e))))

/-- ltarm (R184 to R186): a release at crew scope, for it may complete the phase; PENDING takes a signed 31-bit addition. -/
def execLtarm (e : Bool) (ra rb : SReg) (s : State) : Host.Outcome State Fault Refusal :=
  .next (s.gate [ra, rb] [] [] (fun s => s.latchGate (s.rdS ra) (fun s => s.releaseGate 1 (fun s =>
    let a := (s.rdS ra).toNat
    (s.setLatch a (latchUpdate (s.crew.latch a) (sInt 31 ((s.rdS rb).toNat % 2 ^ 31)))).finish e))))

/-- ltarrive (R184 to R186): a release at crew scope; S[sd] takes the PHASE before the update. -/
def execLtarrive (e : Bool) (rd ra : SReg) (s : State) : Host.Outcome State Fault Refusal :=
  .next (s.gate [ra] [rd] [] (fun s => s.latchGate (s.rdS ra) (fun s => s.releaseGate 1 (fun s =>
    let a := (s.rdS ra).toNat
    let w := s.crew.latch a
    ((s.setLatch a (latchUpdate w (-1))).wrS rd (flag (latchPhase w = true))).finish e))))

/-- ltwait (R186): parks while the Latch's PHASE equals S[sb][0]. -/
def execLtwait (ra rb : SReg) (s : State) : Host.Outcome State Fault Refusal :=
  .next (s.gate [ra, rb] [] [] (fun s => s.latchGate (s.rdS ra) (fun s => s.memGate (fun s =>
    let ph := bit (s.rdS rb) 0
    if latchPhase (s.crew.latch (s.rdS ra).toNat) != ph then s.finish true
    else s.parkIn (.ltwait ra rb) (.wait (.latch (s.rdS ra).toNat ph))))))

/-- lttest (R186). -/
def execLttest (e : Bool) (rd ra rb : SReg) (s : State) : Host.Outcome State Fault Refusal :=
  .next (s.gate [ra, rb] [rd] [] (fun s => s.latchGate (s.rdS ra) (fun s => s.memGate (fun s =>
    (s.wrS rd (flag (latchPhase (s.crew.latch (s.rdS ra).toNat) ≠ bit (s.rdS rb) 0))).finish e))))

/-! ### Hinges, the strands' side (R166, R167) -/

/-- hgarrive (R166): a 256th arrival that no `mhwait` has taken parks until MC rises; what the strand did happens before what
follows the `mhwait` (R139). -/
def execHgarrive (e : Bool) (h : BitVec 4) (s : State) : Host.Outcome State Fault Refusal :=
  .next (s.rootGate (fun s => s.releaseGate 1 (fun s =>
    if !s.crew.arriveFree h s.focus.idx then s.parkHinge (.hgarrive e h) h
    else
      let c := s.crew.modHinge h (fun g => { g with ac := set16 g.ac s.focus.idx (at16 g.ac s.focus.idx + 1) })
      ((s.setCrew c).finish e).hingeMoved s.crew.uid)))

/-- hgwait (R166): completes once RC has reached WC + 1; until then the strand is parked and looks again when RC rises. -/
def execHgwait (h : BitVec 4) (s : State) : Host.Outcome State Fault Refusal :=
  .next (s.rootGate (fun s =>
    if !s.crew.releaseDue h s.focus.idx then s.parkHinge (.hgwait h) h
    else
      let c := s.crew.modHinge h (fun g => { g with wc := set16 g.wc s.focus.idx (at16 g.wc s.focus.idx + 1) })
      ((s.setCrew c).finish true).hingeMoved s.crew.uid))

end Sys2Proof.Machine
end

