-- ==== Sys2Proof/Machine/Slots.lean ====
section
/-! DEFINITION. Operand slots (R157 to R162), ending a crew (R9, R25), and what engine operations share: their records (R301) and
their element accesses (R126, R192). -/

namespace Sys2Proof.Machine

open Sys2Proof

/-! ### A slot (R158, R161): what differs from a freshly claimed one is listed -/

/-- A freshly claimed slot: payload zero, row scales 127 (R161). -/
def Slot.fresh : Slot := { payload := [], side := [] }

/-- What a side byte of a fresh slot reads as. -/
def freshSide (i : Nat) : Byte := if i < 64 then 127 else 0

/-- A payload byte. -/
def Slot.byte (x : Slot) (i : Nat) : Byte := lookD 0 i x.payload
/-- A side byte. -/
def Slot.sideByte (x : Slot) (i : Nat) : Byte := lookD (freshSide i) i x.side
/-- Write a payload byte. -/
def Slot.setByte (x : Slot) (i : Nat) (v : Byte) : Slot := { x with payload := setD 0 i v x.payload }
/-- Write a side byte. -/
def Slot.setSide (x : Slot) (i : Nat) (v : Byte) : Slot := { x with side := setD (freshSide i) i v x.side }

/-- Slot `o<i>` of a crew. -/
def Crew.slot_ (c : Crew) (i : Nat) : Slot := c.slots.getD i Slot.fresh
/-- Change slot `o<i>` of a crew. -/
def Crew.modSlot (c : Crew) (i : Nat) (f : Slot → Slot) : Crew := { c with slots := c.slots.modify i f }
/-- Write payload bytes from a byte up. -/
def Slot.setBytes (x : Slot) (i : Nat) : List Byte → Slot
  | [] => x
  | b :: t => (x.setByte i b).setBytes (i + 1) t
/-- Write side bytes from a byte up. -/
def Slot.setSides (x : Slot) (i : Nat) : List Byte → Slot
  | [] => x
  | b :: t => (x.setSide i b).setSides (i + 1) t

/-! ### Claiming and releasing (R161, R162) -/

/-- Free slots of a core: 64, less those held, less those released that a tile operation in the array still uses. -/
def State.freeSlots (s : State) (d : DieId) (c : CoreId) : Nat :=
  let held := ((s.allCrews.filter (fun k => k.die == d && k.core == c && !k.preempted)).map (fun k => k.slots.length)).foldl (· + ·) 0
  let busy := match (s.core d c).array with
    | some a => a.gone
    | none => 0
  64 - held - busy

/-- How many slots a strand parked in `mclaim` asks for. -/
def claimOf (x : Strand) : Nat := match x.cur with
  | .mclaim _ _ ra => (x.rdS ra).toNat
  | _ => 0

/-- The oldest parked claim of a core may look again when it would be served (R162) (DEDUCED, log 46). -/
def State.serveClaims (s : State) (d : DieId) (c : CoreId) : State :=
  match (s.core d c).claims with
  | [] => s
  | u :: _ => match s.anyStrand u with
    | none => s
    | some x => if claimOf x ≤ s.freeSlots d c then s.wake (fun y => y.uid == u) else s

/-- A strand leaves the queue of claims of the issuing crew's core. -/
def State.unclaim (s : State) (u : Nat) : State :=
  s.modCore s.crew.die s.crew.core (fun k => { k with claims := k.claims.filter (fun x => x != u) })

/-- mclaim (R161, R162). A parked claim keeps its place in the queue and looks again when the slots are there. -/
def execMclaim (e : Bool) (rd ra : SReg) (s : State) : Host.Outcome State Fault Refusal :=
  .next (s.gate [ra] [rd] [] (fun s =>
    let n := (s.rdS ra).toNat
    let h := s.crew.slots.length
    let q := (s.core s.crew.die s.crew.core).claims
    let mine := q.head? == some s.focus.uid
    let first := q.isEmpty || mine
    if n = 0 || 64 < n then (s.unclaim s.focus.uid).raise 0x0C 1 0
    else if s.crew.hdr.slots < h + n then
      ((s.unclaim s.focus.uid).raise 0x0C 2 0).serveClaims s.crew.die s.crew.core
    else if n ≤ s.freeSlots s.crew.die s.crew.core && first then
      let s := s.unclaim s.focus.uid
      let s := s.setCrew { s.crew with slots := s.crew.slots ++ List.replicate n Slot.fresh }
      ((s.wrS rd (BitVec.ofNat 64 (h + 1))).finish e).serveClaims s.crew.die s.crew.core
    else if h = 0 || q.contains s.focus.uid then
      let s := if q.contains s.focus.uid then s
        else s.modCore s.crew.die s.crew.core (fun k => { k with claims := k.claims ++ [s.focus.uid] })
      let t := s.parkRetry (.wait .slots)
      t.setFocus { t.focus with cur := .mclaim e rd ra }
    else (s.wrS rd 0).finish e))

/-- What a running tile operation still writes once names from `lo` on are released. -/
def keepWrite (lo : Nat) : TileWrite → Bool
  | .payload i _ _ => i < lo
  | .side i _ _ => i < lo
  | _ => true

/-- Give up the names from `lo` on (R162): slots that a tile operation of the crew still uses come free when it ends. -/
def State.releaseSlots (s : State) (lo : Nat) : State :=
  let d := s.crew.die
  let c := s.crew.core
  let h := s.crew.slots.length
  let u := s.crew.uid
  let s := s.setCrew { s.crew with slots := s.crew.slots.take lo }
  let s := s.modCore d c (fun k => { k with array := k.array.map (fun a =>
    if a.crew == u then
      let out := a.uses.filter (fun i => lo ≤ i && i < h)
      { a with writes := a.writes.filter (keepWrite lo), uses := a.uses.filter (fun i => i < lo), gone := a.gone + out.length }
    else a) })
  s.serveClaims d c

/-- mrel (R162). -/
def execMrel (e : Bool) (ra : SReg) (s : State) : Host.Outcome State Fault Refusal :=
  .next (s.gate [ra] [] [] (fun s =>
    let n := (s.rdS ra).toNat
    let h := s.crew.slots.length
    if h < n then s.raise 0x0C 3 0
    else (s.finish e).releaseSlots (h - (if n = 0 then h else n))))

/-! ### Ending a crew (R9, R25, R170) -/

/-- A strand of a crew that has ended leaves as if by `exit`, whatever it waited for (R9): it is in EJECT-WAIT until its remnants are gone
and every load has returned its value, which is discarded (R25, R76). -/
def Strand.ended (x : Strand) : Strand :=
  if x.state == .done then x
  else { x.clearUnit.discardLoads with asked := x.asked, wants := x.wants, state := .ejectWait, park := none, busy := [] }

/-- Serve the parked acquires of every quarter of a core (R34). -/
def State.serveCore (s : State) (d : DieId) (c : CoreId) : State :=
  (below 4).foldl (fun s q => s.serveAcquires d c (Fin.ofNat 4 q) s.allStrands.length) s

/-- End a crew with the record of the fault that ended it; the first record stays (R9, R302, R333). Its sequencer context stops
after the tile operation it has begun (R170). -/
def State.endCrew (s : State) (c : Nat) (r : FaultRec) : State :=
  match s.anyCrew c with
  | none => s
  | some k =>
    let s := (s.modCrew c (fun k => { k with ended := some (k.ended.getD r), seq := if k.seq.state == .faulted then { k.seq with state := .stopped } else k.seq })).stopSeq c
    let gone := (s.allStrands.filter (fun x => x.crew == c)).map (fun x => x.uid)
    let s := s.modStrands (fun x => x.crew == c) Strand.ended
    let s := s.modCore k.die k.core (fun m => { m with claims := m.claims.filter (fun u => !gone.contains u) })
    let s := s.modCtl k.die (fun m => { m with trapWait := m.trapWait.filter (fun u => !gone.contains u) })
    let s := gone.foldl (fun s u => s.leaveNow u) s
    ((s.recount c).serveCore k.die k.core).serveClaims k.die k.core

/-- A record of an engine operation, a context or a launch check of the crew in hand (R301). -/
def State.engineRec (s : State) (code sub : Nat) (pc addr : Word) : FaultRec :=
  { code := BitVec.ofNat 8 code, sub := BitVec.ofNat 8 sub, lane := 0xFF, strand := 0xFF, eng := true, remn := false,
    defer := false, pc := pc, addr := addr, grid := s.crew.slot.val, crew := s.crew.num }

end Sys2Proof.Machine
end

