-- ==== Sys2Proof/Machine/Copies.lean ====
section
/-! DEFINITION. The copy engine (R187 to R195) and the stream prefetcher (R196 to R198). The event meanings act for the crew in
hand (`State.takeCrew`). -/

namespace Sys2Proof.Machine

open Sys2Proof

/-! ### Issue (R187, R190, R193) -/

/-- The checks of a descriptor's offset: ALIGN subcode 1, then ADDR subcode 1 (R190). -/
def State.descGate (s : State) (a : Word) (k : State → State) : State :=
  if a.toNat % 64 ≠ 0 then s.raise 0x03 1 a
  else if s.crew.hdr.scratch < a.toNat + 64 then s.raise 0x04 1 a
  else k s

/-- Copy operations outstanding on the core of the crew in hand (R187). -/
def State.coreCopies (s : State) : Nat :=
  ((s.allCrews.filter (fun k => k.die == s.crew.die && k.core == s.crew.core)).map (fun k => k.copies.length)).foldl (· + ·) 0

/-- A strand parked until the copy engine of a core has room. -/
def State.waitsCopy (s : State) (d : DieId) (c : CoreId) (x : Strand) : Bool :=
  x.state == .parked && x.park == some (.wait .copySlot) && match s.anyCrew x.crew with
    | some k => k.die == d && k.core == c && !k.preempted && !s.halting k
    | none => false

/-- Accept the operation of the issuing strand (R182, R187): the descriptor is read in full now. -/
def State.acceptCopy (s : State) (e : Bool) (kind : CopyKind) (ra : SReg) (lt : Option Word) (rd : SReg) : State :=
  let a := s.rdS ra
  let (op, s) := s.markBusy rd
  let o : CopyOp :=
    { id := op, kind := kind, desc := s.crew.spBytes a.toNat 64, descOff := a, pc := s.focus.unitPc, begun := false, next := 0, idx := none,
      scales := [], txn := none, reply := none, home := none, want := none, fill := none, mcast := none, leaf := none, stopped := none,
      done := match lt with
        | some l => .latch l.toNat
        | none => .token op }
  (s.setCrew { s.crew with copies := s.crew.copies ++ [o] }).finish e

/-- A copy instruction: `lt` names the register with the Latch offset in the latch form. What the strand did before happens before
the operation's accesses (R194, R249; log 28). With 32 operations outstanding it parks, behind those that parked before it. -/
def State.copyIssue (s : State) (e : Bool) (i : Instr) (kind : CopyKind) (ra : SReg) (lt : Option SReg) (rd : SReg) : State :=
  let go := fun (s : State) => s.descGate (s.rdS ra) (fun s =>
    let fin := fun (s : State) =>
      if 32 ≤ s.coreCopies || s.allStrands.any (s.waitsCopy s.crew.die s.crew.core) then
        let t := s.parkIn i (.wait .copySlot)
        { (t.setFocus { t.focus with joinSeq := t.fresh }) with fresh := t.fresh + 1 }
      else s.acceptCopy e kind ra (lt.map s.rdS) rd
    match lt with
    | some rl => s.latchGate (s.rdS rl) (fun s => s.releaseGate 1 fin)
    | none => s.releaseGate 1 fin)
  match lt with
  | some rl => s.gate [ra, rl] [] [] go
  | none => s.gate [ra] [rd] [] go

/-- cpy, token form (R189). -/
def execCpy (e : Bool) (rd ra : SReg) (s : State) : Host.Outcome State Fault Refusal :=
  .next (s.copyIssue e (.cpy e rd ra) .cpy ra none rd)
/-- cpy, latch form (R189). -/
def execCpyLt (e : Bool) (ra rb : SReg) (s : State) : Host.Outcome State Fault Refusal :=
  .next (s.copyIssue e (.cpyLt e ra rb) .cpy ra (some rb) 0)
/-- cpyw, token form (R189). -/
def execCpyw (e : Bool) (rd ra : SReg) (s : State) : Host.Outcome State Fault Refusal :=
  .next (s.copyIssue e (.cpyw e rd ra) .cpyw ra none rd)
/-- cpyw, latch form (R189). -/
def execCpywLt (e : Bool) (ra rb : SReg) (s : State) : Host.Outcome State Fault Refusal :=
  .next (s.copyIssue e (.cpywLt e ra rb) .cpyw ra (some rb) 0)
/-- cpyo, token form (R189). -/
def execCpyo (e : Bool) (rd ra : SReg) (s : State) : Host.Outcome State Fault Refusal :=
  .next (s.copyIssue e (.cpyo e rd ra) .cpyo ra none rd)
/-- cpyo, latch form (R189). -/
def execCpyoLt (e : Bool) (ra rb : SReg) (s : State) : Host.Outcome State Fault Refusal :=
  .next (s.copyIssue e (.cpyoLt e ra rb) .cpyo ra (some rb) 0)
/-- cpyg, token form (R189). -/
def execCpyg (e : Bool) (rd ra : SReg) (s : State) : Host.Outcome State Fault Refusal :=
  .next (s.copyIssue e (.cpyg e rd ra) .cpyg ra none rd)
/-- cpyg, latch form (R189). -/
def execCpygLt (e : Bool) (ra rb : SReg) (s : State) : Host.Outcome State Fault Refusal :=
  .next (s.copyIssue e (.cpygLt e ra rb) .cpyg ra (some rb) 0)

/-- cpyq (R195). -/
def execCpyq (e : Bool) (rd : SReg) (s : State) : Host.Outcome State Fault Refusal :=
  .next (s.gate [] [rd] [] (fun s => (s.wrS rd (BitVec.ofNat 64 s.crew.copies.length)).finish e))

/-- What a parked copy instruction was. -/
def copyForm : Instr → Option (Bool × CopyKind × SReg × Option SReg × SReg)
  | .cpy e rd ra => some (e, .cpy, ra, none, rd)
  | .cpyw e rd ra => some (e, .cpyw, ra, none, rd)
  | .cpyo e rd ra => some (e, .cpyo, ra, none, rd)
  | .cpyg e rd ra => some (e, .cpyg, ra, none, rd)
  | .cpyLt e ra rb => some (e, .cpy, ra, some rb, 0)
  | .cpywLt e ra rb => some (e, .cpyw, ra, some rb, 0)
  | .cpyoLt e ra rb => some (e, .cpyo, ra, some rb, 0)
  | .cpygLt e ra rb => some (e, .cpyg, ra, some rb, 0)
  | _ => none

/-- The oldest strand parked for the copy engine of a core. -/
def State.oldestCopy (s : State) (d : DieId) (c : CoreId) : Option Strand :=
  leastBy (fun (x : Strand) => x.joinSeq) (s.allStrands.filter (s.waitsCopy d c))

/-- A strand that has completed its instruction at an event and goes on in its run is READY (R12, R13). -/
def State.readyFocus (s : State) : State :=
  if s.focus.state == .issuing then { (s.setFocus (s.focus.toReady s.fresh)) with fresh := s.fresh + 1 } else s

/-- COPY_ACCEPT (R187): the oldest parked copy instruction of a core is accepted when the engine has room. -/
def execCopyAccept (d : DieId) (core : CoreId) (s : State) : Host.Outcome State Fault Refusal :=
  let s := s.putBack
  .next (match (s.oldestCopy d core).bind (fun x => s.take x.uid) with
    | none => s
    | some t => match copyForm t.focus.cur with
      | none => s
      | some (e, kind, ra, lt, rd) =>
        if 32 ≤ t.coreCopies then s
        else
          let t := t.setFocus { t.focus with state := .issuing, park := none }
          (t.acceptCopy e kind ra (lt.map t.rdS) rd).readyFocus.putBack)

/-! ### Descriptors (R188, R191) -/

/-- Extent `i`; 0 counts as 1 (R188). -/
def dExtent (d : Desc) (i : Nat) : Nat := Nat.max 1 (field d (16 + 4 * i) 4)
/-- Byte stride `i` of the global side (R188). -/
def dStride (d : Desc) (i : Nat) : Int := sInt 32 (field d (32 + 4 * i) 4)
/-- Element bytes. -/
def dEb (d : Desc) : Nat := field d 48 1
/-- Flag RSC. -/
def dRsc (d : Desc) : Bool := field d 50 2 % 2 == 1
/-- Elements of the operation. -/
def dCount (d : Desc) : Nat := dExtent d 0 * dExtent d 1 * dExtent d 2 * dExtent d 3
/-- The indices of a linear index (R189). -/
def dIndex (d : Desc) (l : Nat) (k : Nat) : Nat :=
  match k with
  | 0 => l % dExtent d 0
  | 1 => l / dExtent d 0 % dExtent d 1
  | 2 => l / dExtent d 0 / dExtent d 1 % dExtent d 2
  | _ => l / dExtent d 0 / dExtent d 1 / dExtent d 2
/-- The strided offset G of a linear index (R189). -/
def dOffset (d : Desc) (l : Nat) : Int :=
  dIndex d l 0 * dStride d 0 + dIndex d l 1 * dStride d 1 + dIndex d l 2 * dStride d 2 + dIndex d l 3 * dStride d 3
/-- Slots per i2 step of `cpyo` (R189). -/
def dSlotStep (d : Desc) : Nat := (dExtent d 0 * dEb d + 63) / 64

/-- The scratchpad side's offset field: the destination, or the source of `cpyw`. -/
def dSpad (k : CopyKind) (d : Desc) : Nat := match k with
  | .cpyw => field d 0 8
  | _ => field d 8 8
/-- The global side's base. -/
def dGlobal (k : CopyKind) (d : Desc) : Nat := match k with
  | .cpyw => field d 8 8
  | _ => field d 0 8

/-- A field that must be zero is not (R191, reason 2). -/
def dNonzero (k : CopyKind) (d : Desc) : Bool :=
  field d 49 1 / 8 != 0 || field d 50 2 / 2 != 0 || field d 52 4 != 0 || match k with
    | .cpyo => field d 8 8 / 64 != 0 || (!dRsc d && field d 56 8 != 0)
    | .cpyg => dRsc d
    | _ => dRsc d || field d 56 8 != 0

/-- The reason a descriptor fails, the lowest that applies (R191) (DEDUCED, log 42). -/
def dBad (c : Crew) (k : CopyKind) (d : Desc) : Option Nat :=
  let eb := dEb d
  let bytes := dCount d * eb
  if !(eb == 1 || eb == 2 || eb == 4 || eb == 8) then some 1
  else if dNonzero k d then some 2
  else if k != .cpyo && c.hdr.scratch < dSpad k d + bytes then some 3
  else if 2 ^ 32 < dCount d then some 4
  else if k == .cpyo && (64 < dExtent d 1 || dExtent d 3 != 1 || c.slots.length < field d 8 8 + dExtent d 2 * dSlotStep d) then some 5
  else if k == .cpyg && (dExtent d 2 != 1 || dExtent d 3 != 1) then some 5
  else if k != .cpyo && dSpad k d % eb != 0 then some 9
  else none

/-! ### Element accesses of an engine of the crew in hand (R126, R192) -/

/-- What an element access of an engine comes to: a value, not yet, or a fault. -/
inductive ERes where
  | val (v : Nat)
  | wait
  | bad (code sub : Nat)
  deriving DecidableEq, Repr

/-- The answer that an access in hand has had: its value, or its failure, which ends the operation (R279, R280). -/
def CopyOp.take (o : CopyOp) (st : Byte) (v : Word) : CopyOp × ERes :=
  let o := { o with txn := none, home := none, reply := none }
  (o, if st = 0 then .val v.toNat else .bad 0x08 st.toNat)

/-- A remote access of the operation in hand: its packet leaves once, and its reply comes back in `reply` (R279, R280) (DESIGN CHOICE, log 43). -/
def State.engineFar (s : State) (o : CopyOp) (e : Elem) (kind size : Nat) (data : List Byte) : State × CopyOp × ERes :=
  match o.reply with
  | some (st, v) => (s, o.take st v)
  | none => match o.txn with
    | some _ => (s, o, .wait)
    | none =>
      let n := s.fresh % 65536
      let s := { s with fresh := s.fresh + 1 }
      (match s.elemPacket e kind n size none data with
        | some p => s.emit p.1 p.2
        | none => s, { o with txn := some (n, s.time) }, .wait)

/-- The base die or the core has a store for a sector that has not been performed: an access that goes to the home waits for it, as a
strand's does (R220, R222, R249). -/
def State.baseHolds (s : State) (d : DieId) (c : CoreId) (sec : Nat) : Bool :=
  (s.pendings d).any (fun e => e.sec == sec) || (s.heldOn d c).any (fun y => y.2.sec == sec) || s.coreHst d c sec

/-- An access of the operation in hand to a PLACE 3 page: it goes to the home once, and the answer comes back in `reply` (R220). -/
def State.engineHome (s : State) (o : CopyOp) (sec : Nat) (mk : Requester → Msg) : State × CopyOp × ERes :=
  match o.reply with
  | some (st, v) => (s, o.take st v)
  | none => match o.home with
    | some _ => (s, o, .wait)
    | none => if s.baseHolds s.crew.die s.crew.core sec then (s, o, .wait) else
      let txn := s.fresh
      (({ s with fresh := txn + 1 } : State).sendTo (s.homeHolder sec) (mk (.die s.crew.die txn)), { o with home := some txn }, .wait)

/-- Read bytes at a PLACE 3 page's home for an engine; they are written into the core's L1 copy (R220, R253). -/
def State.engineHld (s : State) (o : CopyOp) (pa size : Nat) : State × CopyOp × ERes :=
  let sec := pa / 16
  let mask := sectorMask (pa % 16) size
  match s.engineHome o sec (fun r => .hld { src := r, sec := sec, mask := mask }) with
  | (s, p, .val v) =>
    (s.homeRead s.crew.die s.crew.core (o.home.getD 0) sec mask (sectorPlace (pa % 16) size (BitVec.ofNat 64 v)), p, .val v)
  | r => r

/-- Read bytes of a sector for an engine in the die cache: performed data under the pending entries of the base die and the stores that
the core of its crew holds, or those alone where they have every byte; else a GETS is on its way and the operation waits for the sector
(R201, R207, R222, R223). A store of the core on its way to the sector's home comes first (R194, R220). -/
def State.engineRead (s : State) (o : CopyOp) (pa size : Nat) (st pin : Bool) : State × CopyOp × ERes :=
  let d := s.crew.die
  let sec := pa / 16
  let val := fun (v : SectorData) => ERes.val (sectorTake v (pa % 16) size).toNat
  match (match o.fill with
    | some (n, v) => if n = sec then some v else none
    | none => none) with
  | some v => (if st then s.victimise d sec else s, { o with fill := none }, val v)
  | none =>
    let h := s.holdOf (.die d) sec
    let ps := (s.pendings d).filter (fun e => e.sec == sec)
    let hs := (s.heldOn d s.crew.core).filter (fun y => y.2.sec == sec)
    let covered := hs.foldl (fun m y => m ||| y.2.mask) (ps.foldl (fun m e => m ||| e.mask) (0 : BitVec 16))
    let under := fun (v : SectorData) => s.underHeld d s.crew.core sec (mergePending ps sec v)
    let mask := sectorMask (pa % 16) size
    if s.coreHst d s.crew.core sec then (s, { o with want := none }, .wait)
    else if h.count != 0 && h.known then
      let s := s.engineReads d s.crew.core sec (if pin then 1 else 0) mask (under h.data)
      (if st then s.victimise d sec else s, { o with want := none }, val (under h.data))
    else if covered &&& mask == mask then
      (s.engineReads d s.crew.core sec 0 mask (under 0), { o with want := none }, val (under 0))
    else (s.request (.die d) sec false, { o with want := some sec, fill := none }, .wait)

/-- An access of an engine is under way: an answer, a sector or an acknowledgement is still to come, or has come and is not yet taken. -/
def CopyOp.flying (o : CopyOp) : Bool := o.txn.isSome || o.home.isSome || o.want.isSome || o.fill.isSome || o.mcast.isSome

/-- An element's translation is kept from when an access of it is under way until the element is done: it is checked once (R192). -/
def keepLeaf (l : TlbEntry) (r : State × CopyOp × ERes) : State × CopyOp × ERes :=
  (r.1, { r.2.1 with leaf := if r.2.1.flying && r.2.2 == .wait then some l else none }, r.2.2)

/-- Read `size` bytes for an engine, as the PLACE of the page says (R128, R192, R220). -/
def State.engineGet (s : State) (o : CopyOp) (size va : Nat) : State × CopyOp × ERes :=
  let go := fun (s : State) (l : TlbEntry) =>
    let pa := leafPa l va
    if pteFab l.pte then s.engineFar o { lane := 0, va := va, leaf := l, pa := pa, held := false } 0 size []
    else if ptePlace l.pte = 3 then s.engineHld o pa size
    else s.engineRead o pa size (ptePlace l.pte == 2) (ptePlace l.pte == 1)
  match o.leaf with
  | some l => keepLeaf l (go s l)
  | none => match s.checkElem s.crew.die s.crew.core .load size va with
    | (s, .bad c sub) => (s, o, .bad c sub)
    | (s, .hold l) => keepLeaf l (go s l)
    | (s, .ok l) => keepLeaf l (go s l)

/-- The packets of a multicast store of an engine, one to every member, with the members' transactions (R282). -/
def State.engineCast (s : State) (e : Elem) (size g : Nat) (data : List Byte) : State × List (Nat × Nat) :=
  match (s.keyOf s.crew.die e.leaf.pte).bind (fun key => (s.outPort key).map (fun p => (key, p))) with
  | none => (s, [])
  | some (key, p) => (s.members s.crew.die g).foldl (fun r m =>
      let s := r.1
      let page := m.2.2 + (if e.leaf.level = 1 then e.va / 65536 % 8192 else 0)
      let n := s.fresh % 65536
      ({ (s.emit p (s.packet key (BitVec.ofNat 16 m.2.1) page (e.va % 65536) 9 n size none data)) with fresh := s.fresh + 1 },
       r.2 ++ [(n, s.time)])) (s, [])

/-- A multicast store of an engine: the element is performed once every member has acknowledged it; one that failed fails the element
with FABKEY (R282, R283) (DESIGN CHOICE, log 19). -/
def State.engineMulticast (s : State) (o : CopyOp) (e : Elem) (size g : Nat) (data : List Byte) : State × CopyOp × ERes :=
  match o.mcast with
  | some ([], f) => (s, { o with mcast := none }, if f = 0 then .val 0 else .bad 0x08 f.toNat)
  | some (_ :: _, _) => (s, o, .wait)
  | none => match s.engineCast e size g data with
    | (s, []) => (s, o, .val 0)
    | (s, l) => (s, { o with mcast := some (l, 0) }, .wait)

/-- Write bytes for an engine through a leaf, its page's dirty bit set (R294): to every member of a group, to another package, to the home for PLACE 3, else into the die
cache, once that can take them (R203, R220, R222, R282). What the core's strands had stored or read before the operation was issued comes
first (R194). The core's L1 copy of the line goes (R253). -/
def State.engineWrite (s : State) (o : CopyOp) (l : TlbEntry) (va : Nat) (bs : List Byte) : State × CopyOp × ERes :=
  let s := s.markDirty s.crew.die l
  let d := s.crew.die
  let pa := leafPa l va
  let sec := pa / 16
  let e : Elem := { lane := 0, va := va, leaf := l, pa := pa, held := false }
  if !o.flying && (!s.dirtySet l || s.coreOwes d s.crew.core (fun _ => true) o.id) then (s, o, .wait)
  else if pteFab l.pte then
    match pteGroup l.pte with
    | some g => s.engineMulticast o e bs.length g bs
    | none => s.engineFar o e 2 bs.length bs
  else if ptePlace l.pte = 3 then
    match s.engineHome o sec (fun r => .hst { src := r, sec := sec, mask := sectorMask (pa % 16) bs.length,
                                              data := sectorPlace (pa % 16) bs.length (BitVec.ofNat 64 (leNat bs)) }) with
    | (s, o, .val v) => (s.dropL1Line d s.crew.core sec, o, .val v)
    | r => r
  else if s.storeFits d sec then
    (s.engineStore d s.crew.core [s.crew.slot.val] pa bs (ptePlace l.pte == 2) (ptePlace l.pte == 1), o, .val 0)
  else (s, o, .wait)

/-- Write `size` bytes for an engine; it waits where MIG holds a store (R192, R288). -/
def State.enginePut (s : State) (o : CopyOp) (size va v : Nat) : State × CopyOp × ERes :=
  match o.leaf with
  | some l => keepLeaf l (s.engineWrite o l va (leBytes size v))
  | none => match s.checkElem s.crew.die s.crew.core .store size va with
    | (s, .bad c sub) => (s, o, .bad c sub)
    | (s, .hold _) => (s, o, .wait)
    | (s, .ok l) => keepLeaf l (s.engineWrite o l va (leBytes size v))

/-! ### The elements (R189, R192) -/

/-- Go on with a value, or stop with what the access came to. -/
def withVal (r : State × CopyOp × ERes) (k : State → CopyOp → Nat → State × CopyOp × ERes) : State × CopyOp × ERes :=
  match r with
  | (s, o, .val v) => k s o v
  | (s, o, x) => (s, o, x)

/-- Write bytes of the crew's scratchpad, completing the Latch waits this ends. -/
def State.landBytes (s : State) (a : Nat) (bs : List Byte) : State := (s.setCrew (s.crew.spWrite a bs)).wakeLatches s.crew.uid

/-- Write an element of `cpyo` into its slot, with the row scales of the operation (R140, R189). -/
def State.slotElem (s : State) (o : CopyOp) (l v : Nat) : State × CopyOp × ERes :=
  let d := o.desc
  let eb := dEb d
  let i := field d 8 8 % 64 + dIndex d l 2 * dSlotStep d + dIndex d l 0 * eb / 64
  if s.crew.slots.length ≤ i then (s, o, .bad 0x0C 4)
  else
    let at_ := 64 * dIndex d l 1 + dIndex d l 0 * eb % 64
    let scales := if dRsc d then o.scales else List.replicate 64 127
    (s.setCrew (s.crew.modSlot i (fun x => (x.setBytes at_ (leBytes eb v)).setSides 0 scales)), o, .val 0)

/-- One element of an operation: done, not yet, or its fault with the address it was met at. -/
def State.copyElem (s : State) (o : CopyOp) (l : Nat) : (State × CopyOp × ERes) × Nat :=
  let d := o.desc
  let eb := dEb d
  let k := field d 49 1 % 8
  let sp := swizzle k eb (dSpad o.kind d + l * eb)
  let g := fun (base : Nat) (off : Int) => wrap 64 ((base : Int) + off)
  match o.kind with
  | .cpy =>
    let a := g (field d 0 8) (dOffset d l)
    (withVal (s.engineGet o eb a) (fun s o v => (s.landBytes sp (leBytes eb v), o, .val 0)), a)
  | .cpyw =>
    let a := g (field d 8 8) (dOffset d l)
    (s.enginePut o eb a (s.crew.spRead sp eb), a)
  | .cpyo =>
    let a := g (field d 0 8) (dOffset d l)
    (withVal (s.engineGet o eb a) (fun s o v => s.slotElem o l v), a)
  | .cpyg =>
    let i1 := dIndex d l 1
    match o.idx with
    | some (j, x) =>
      if j = i1 then
        let a := g (field d 0 8) (x * dStride d 1 + dIndex d l 0 * dStride d 0)
        (withVal (s.engineGet o eb a) (fun s o v => (s.landBytes sp (leBytes eb v), o, .val 0)), a)
      else
        let ia := g (field d 56 8) (4 * i1)
        (withVal (s.engineGet o 4 ia) (fun s o v => (s, { o with idx := some (i1, v) }, .wait)), ia)
    | none =>
      let ia := g (field d 56 8) (4 * i1)
      (withVal (s.engineGet o 4 ia) (fun s o v => (s, { o with idx := some (i1, v) }, .wait)), ia)

/-- The row scales of `cpyo` with RSC: eight loads of 8 bytes before any payload element (R192). -/
def State.copyScales (s : State) (o : CopyOp) : Nat → (State × CopyOp × ERes) × Nat
  | 0 => ((s, o, .val 0), 0)
  | n + 1 =>
    let u := o.scales.length / 8
    let a := field o.desc 56 8 + 8 * u
    if 8 ≤ u then ((s, o, .val 0), a)
    else match s.engineGet o 8 (a % 2 ^ 64) with
      | (s, o, .val v) => s.copyScales { o with scales := o.scales ++ leBytes 8 v } n
      | (s, o, r) => ((s, o, r), a % 2 ^ 64)

/-- Elements in linear order until one waits or fails; an element that has just read its index entry is looked at again at
once (DEDUCED, log 94). -/
def State.copyRun (s : State) (o : CopyOp) : Nat → (State × CopyOp × ERes) × Nat
  | 0 => ((s, o, if o.next < dCount o.desc then .wait else .val 0), 0)
  | n + 1 =>
    if dCount o.desc ≤ o.next then ((s, o, .val 0), 0)
    else match s.copyElem o o.next with
      | ((s, o', .val _), _) => s.copyRun { o' with next := o'.next + 1 } n
      | ((s, o', .wait), a) =>
        if o'.idx = o.idx then ((s, o', .wait), a)
        else match s.copyElem o' o'.next with
          | ((s, o2, .val _), _) => s.copyRun { o2 with next := o2.next + 1 } n
          | r => r
      | r => r

/-! ### The end of an operation (R192, R193) -/

/-- Put an operation back. -/
def State.putCopy (s : State) (o : CopyOp) : State :=
  s.setCrew { s.crew with copies := s.crew.copies.map (fun x => if x.id == o.id then o else x) }

/-- An operation ends: its token takes the status, or its Latch moves by the bytes of the operation; a failing latch form ends
the crew with the record (R182, R193). A declined NOTPRESENT has its record in the ring already and gets no second one (DESIGN CHOICE,
log 101). -/
def State.endCopy (s : State) (o : CopyOp) (status : Word) (fail : Option FaultRec) : State :=
  let c := s.crew.uid
  let s := s.setCrew { s.crew with copies := s.crew.copies.filter (fun x => x.id != o.id) }
  let s := s.putBack.signal c o.done status (-(dCount o.desc * dEb o.desc : Nat))
  match o.done, fail with
  | .latch _, some r => (if o.stopped.isSome then s else s.reportFault ((s.anyCrew c).elim 0 (fun k => k.die)) r).endCrew c r
  | _, _ => s

/-- No record of a die's fault ring is free (R302). -/
def State.faultRingBusy (s : State) (d : DieId) : Bool := (s.die d).ctl.flt.full || !(s.die d).ctl.fltWait.isEmpty

/-- An operation fails with a record: in the latch form the engine waits with it until the fault ring has room (R193, R302). -/
def State.failWith (s : State) (o : CopyOp) (status : Word) (r : FaultRec) : State :=
  let waits := match o.done with
    | .latch _ => s.faultRingBusy s.crew.die
    | .token _ => false
  if waits then (s.putCopy { o with stopped := some r }).putBack else s.endCopy o status (some r)

/-- An operation fails at an element: NOTPRESENT stops it with a record in the fault ring (R112, R192); anything else ends it
with RESULT FAULT. -/
def State.failCopy (s : State) (o : CopyOp) (code sub a : Nat) : State :=
  let r := s.engineRec code sub o.pc (BitVec.ofNat 64 a)
  if code = 0x05 then ((s.putCopy { o with stopped := some r }).putBack).reportFault s.crew.die r
  else s.failWith o (statusWord o.next sub code 1) r

/-- An operation has stopped with a NOTPRESENT, which the service OS resumes or declines (R192). -/
def CopyOp.notPresent (o : CopyOp) : Bool := o.stopped.any (fun r => r.code == 0x05)

/-- The service OS has the record of a stopped operation of a die: it waits in front of a full ring no longer (R302). -/
def State.canResume (s : State) (d : DieId) (o : CopyOp) : Bool :=
  o.notPresent && !(o.stopped.any (fun r => (s.die d).ctl.fltWait.contains r))

/-- COPY_COMPLETE (R189 to R194): the operation checks its descriptor, moves its elements and ends. An operation that waits for a
reply, for room or for the service OS stays. -/
def execCopyComplete (c op : Nat) (s : State) : Host.Outcome State Fault Refusal :=
  let s := s.putBack
  .next (match s.takeCrew c with
    | none => s
    | some t => match t.crew.copies.find? (fun o => o.id == op) with
      | none => s
      | some o =>
        match o.stopped with
        | some r => if o.notPresent || t.faultRingBusy t.crew.die then s else t.endCopy { o with stopped := none } 0 (some r)
        | none => match (if o.begun then none else dBad t.crew o.kind o.desc) with
          | some why => t.failWith o (statusWord 0 0 why 2) (t.engineRec 0x14 why o.pc o.descOff)
          | none =>
            let o := { o with begun := true }
            let pre := if o.kind == .cpyo && dRsc o.desc && o.next == 0 then t.copyScales o 8 else ((t, o, .val 0), 0)
            match pre with
            | ((t, o, .wait), _) => (t.putCopy o).putBack
            | ((t, o, .bad code sub), a) => t.failCopy o code sub a
            | ((t, o, .val _), _) => match t.copyRun o (dCount o.desc - o.next) with
              | ((t, o, .wait), _) => (t.putCopy o).putBack
              | ((t, o, .bad code sub), a) => t.failCopy o code sub a
              | ((t, o, .val _), _) => t.endCopy o 0 none)

/-- COPY_RESUME (R192): the service OS resumes a stopped operation; it goes on at the element it stopped at. -/
def execCopyResume (c op : Nat) (s : State) : Host.Outcome State Fault Refusal :=
  let s := s.putBack
  .next (s.modCrew c (fun k => { k with copies := k.copies.map (fun o => if o.id == op && s.canResume k.die o then { o with stopped := none } else o) }))

/-- COPY_FAULT_DECLINE (R192, R193): a stopped operation ends with RESULT FAULT. -/
def execCopyFaultDecline (c op : Nat) (s : State) : Host.Outcome State Fault Refusal :=
  let s := s.putBack
  .next (match s.takeCrew c with
    | none => s
    | some t => match t.crew.copies.find? (fun o => o.id == op) with
      | none => s
      | some o => match o.stopped with
        | none => s
        | some r => if t.canResume t.crew.die o then t.endCopy o (statusWord o.next r.sub.toNat r.code.toNat 1) (some r) else s)

/-! ### Streams (R196 to R198) -/

/-- A stream descriptor breaks a rule of R196. -/
def streamBad (d : Desc) : Bool :=
  let eb := field d 40 1
  !(eb == 1 || eb == 2 || eb == 4 || eb == 8) || 1 < field d 41 1 || field d 42 2 < 1 || 256 < field d 42 2
    || field d 44 4 != 0 || field d 48 8 != 0 || field d 56 8 != 0

/-- Handles in use on the core of the crew in hand. Those of a crew that is pre-empted stay in use on the core it left until it is resumed,
and a core that it is resumed on may then have more than 64 (R198, R310) (DESIGN CHOICE, log 115). -/
def State.handlesUsed (s : State) : List Nat :=
  (s.allCrews.filter (fun k => k.die == s.crew.die && k.core == s.crew.core)).flatMap (fun k => k.streams.map (fun x => x.handle))

/-- sdesc (R197): the lowest free handle of the core's 64 slots (which one is a DESIGN CHOICE, log 20). A bad descriptor gives all ones
even with no slot free (DESIGN CHOICE, log 100). -/
def execSdesc (e : Bool) (rd ra : SReg) (s : State) : Host.Outcome State Fault Refusal :=
  .next (s.gate [ra] [rd] [] (fun s => s.descGate (s.rdS ra) (fun s =>
    let d := s.crew.spBytes (s.rdS ra).toNat 64
    if streamBad d then (s.wrS rd (~~~0)).finish e
    else match ((below 64).map (· + 1)).find? (fun h => !(s.handlesUsed.contains h)) with
      | none => (s.wrS rd 0).finish e
      | some h =>
        let x : Stream := { handle := h, desc := d, running := false, next := 0, seen := 0 }
        ((s.setCrew { s.crew with streams := s.crew.streams ++ [x] }).wrS rd (BitVec.ofNat 64 h)).finish e)))

/-- sgo (R197): a handle the crew does not hold does nothing. -/
def execSgo (e : Bool) (ra : SReg) (s : State) : Host.Outcome State Fault Refusal :=
  .next (s.gate [ra] [] [] (fun s =>
    let h := (s.rdS ra).toNat
    (s.setCrew { s.crew with streams := s.crew.streams.map (fun x => if x.handle == h then { x with running := true, next := 0, seen := 0 } else x) }).finish e))

/-- sstop (R197). -/
def execSstop (e : Bool) (ra : SReg) (s : State) : Host.Outcome State Fault Refusal :=
  .next (s.gate [ra] [] [] (fun s =>
    (s.setCrew { s.crew with streams := s.crew.streams.filter (fun x => x.handle != (s.rdS ra).toNat) }).finish e))

/-- Change a stream of the crew in hand. -/
def State.modStream (s : State) (h : Nat) (f : Stream → Stream) : State :=
  s.setCrew { s.crew with streams := s.crew.streams.map (fun x => if x.handle == h then f x else x) }

/-- Warm one sector for a stream (R196, R198): a GETS where the die cache does not hold the data, and an L1 copy where the stream's
target says so, now or when the data comes. -/
def State.warm (s : State) (d : DieId) (k : CoreId) (l1 : Bool) (sec : Nat) : State :=
  let h := s.holdOf (.die d) sec
  if h.count = 0 || !h.known then
    (if l1 then s.modCore d k (fun c => { c with warm := sec :: c.warm.filter (fun x => x != sec) }) else s).request (.die d) sec false
  else if l1 && (s.l1Copy d k sec 0xFFFF).isNone && !s.coreHst d k sec then match s.captureFor d k sec with
    | some v => s.readL1 d k true sec 0xFFFF 0xFFFF v
    | none => s
  else s

/-- Request the lines that start at the addresses of a list for the crew in hand, sector by sector, walking past PLACE 2, PLACE 3 and
fabric pages; false at a translation that fails (R198). -/
def State.warmLines (s : State) (l1 : Bool) : List Nat → State × Bool
  | [] => (s, true)
  | va :: t => match (if 2 ^ 55 ≤ va then (s, Tr.bad 0x04 0) else s.translate s.crew.die s.crew.core .load va) with
    | (s, .bad _ _) => (s, false)
    | (s, .hold _) => s.warmLines l1 t
    | (s, .ok l) =>
      if pteFab l.pte || 2 ≤ ptePlace l.pte then s.warmLines l1 t
      else ((below 8).foldl (fun s i => s.warm s.crew.die s.crew.core l1 (leafPa l va / 128 * 8 + i)) s).warmLines l1 t

/-- STREAM_LINE_REQUEST (R198): the 128-byte lines of the next element are requested. The stream stops silently at a translation that
fails and at the end, and keeps within its run-ahead. -/
def execStreamLineRequest (c handle : Nat) (s : State) : Host.Outcome State Fault Refusal :=
  let s := s.putBack
  .next (match s.takeCrew c with
    | none => s
    | some t => match t.crew.streams.find? (fun x => x.handle == handle) with
      | none => s
      | some x =>
        if !x.running || t.crew.preempted then s
        else if sCount x.desc ≤ x.next then (t.modStream handle (fun x => { x with running := false })).putBack
        else if field x.desc 42 2 < (sLines x (x.next + 1)).length then s
        else
          match t.warmLines (field x.desc 41 1 == 0) (elemLines x.desc x.next) with
          | (t, false) => (t.modStream handle (fun x => { x with running := false })).putBack
          | (t, true) => (t.modStream handle (fun x => { x with next := x.next + 1 })).putBack)

end Sys2Proof.Machine
end

