-- ==== Sys2Proof/Machine/Matrix.lean ====
section
/-! DEFINITION. What the tile operations compute (R145 to R152, R157 to R159, R175 to R181): from the crew's slots, tiles,
scratchpad and q registers as they stand when the operation begins, the list of what it writes when it ends (R171). -/

namespace Sys2Proof.Machine

open Sys2Proof

/-! ### Formats by their code (R172) and elements of a slot (R157, R158) -/

/-- The format of a code; GB4 elements are F4 codes with scales. -/
def codeFmt (code : Nat) : Fmt :=
  match code with
  | 0 => fmtBF16
  | 1 => fmtF16
  | 2 => fmtF8A
  | 3 => fmtF8B
  | 6 => fmtF32
  | 7 => fmtF64
  | _ => fmtF4

/-- K, the elements of a row (R157). -/
def codeK (code : Nat) : Nat :=
  match code with
  | 0 => 32
  | 1 => 32
  | 2 => 64
  | 3 => 64
  | 4 => 128
  | 5 => 128
  | 6 => 16
  | _ => 8

/-- Bytes of an element of a whole-byte format. -/
def codeEb (code : Nat) : Nat := 64 / codeK code

/-- The pattern of element `k` of row `r` (R157). -/
def Slot.pattern (x : Slot) (code r k : Nat) : Nat :=
  if code = 4 || code = 5 then (x.byte (64 * r + k / 2)).toNat / 16 ^ (k % 2) % 16
  else leNat ((below (codeEb code)).map (fun i => x.byte (64 * r + k * codeEb code + i)))

/-- A value scaled by a power of two. -/
def FVal.scale (v : FVal) (n : Int) : FVal := match v with
  | .num s m e => .num s m (e + n)
  | v => v

/-- The value of element `k` of row `r`: a GB4 element takes its block exponent and micro bit (R149, R158). FTZ reads a subnormal F4 code as
zero before that scaling (DESIGN CHOICE, log 125). -/
def Slot.value (x : Slot) (code : Nat) (ftz : Bool) (r k : Nat) : FVal :=
  let v := (codeFmt code).read ftz (x.pattern code r k)
  if code = 5 then
    let b := (x.sideByte (64 + 8 * r + k / 16)).toNat
    let m := (x.sideByte (576 + 8 * r + k / 16)).getLsbD (k % 16 / 2)
    if b = 0xFF then .nan false else FVal.scale v ((b : Int) - 127 - (if m then 1 else 0))
  else v

/-- The row scale of a row (R143, R158). -/
def Slot.rowScale (x : Slot) (r : Nat) : Nat := (x.sideByte r).toNat

/-! ### Exact sums -/

/-- An exact sum in the making: a NaN or a product of zero and infinity, infinities of either sign, whether every term so far is
−0, and the finite part as an integer times a power of two. -/
structure Sum where
  bad  : Bool
  pos  : Bool
  neg  : Bool
  zero : Bool
  m    : Int
  e    : Int

/-- Add a dyadic number exactly. -/
def Sum.addNum (a : Sum) (s : Bool) (m : Nat) (e : Int) : Sum :=
  if m = 0 then { a with zero := a.zero && s }
  else
    let r := if a.m = 0 then e else if a.e ≤ e then a.e else e
    { a with zero := false, m := a.m * 2 ^ (a.e - r).toNat + signed s (m * 2 ^ (e - r).toNat), e := r }

/-- Add a value (R145, R146). -/
def Sum.add (a : Sum) : FVal → Sum
  | .nan _ => { a with bad := true }
  | .inf s => if s then { a with neg := true } else { a with pos := true }
  | .num s m e => a.addNum s m e

/-- The exact product of two values; zero times infinity and a NaN give a NaN (R146). -/
def FVal.times (x y : FVal) : FVal :=
  match x, y with
  | .nan _, _ => .nan false
  | _, .nan _ => .nan false
  | .inf s, .inf t => .inf (s != t)
  | .inf s, .num t m _ => if m = 0 then .nan false else .inf (s != t)
  | .num s m _, .inf t => if m = 0 then .nan false else .inf (s != t)
  | .num s m e, .num t n f => .num (s != t) (m * n) (e + f)

/-- The empty sum. -/
def Sum.start : Sum := { bad := false, pos := false, neg := false, zero := true, m := 0, e := 0 }

/-- The sum rounded once to a format, in the order of the tests of R146; an exact zero is −0 only where every term is −0. -/
def Sum.result (a : Sum) (f : Fmt) (ftz : Bool) : Nat :=
  if a.bad || (a.pos && a.neg) then f.canon
  else if a.pos then f.infPat false
  else if a.neg then f.infPat true
  else if a.m = 0 then f.sgn a.zero
  else (f.round 0 false ftz (a.m < 0) a.m.natAbs a.e).1

/-- One element of an MMLA step (R145, R146). -/
def mmlaElem (f : Fmt) (ftz : Bool) (c : FVal) (sa sb : Nat) (a b : List FVal) : Nat :=
  if c.isNan || sa = 255 || sb = 255 || a.any FVal.isNan || b.any FVal.isNan then f.canon
  else
    let k : Int := (sa : Int) + sb - 254
    ((List.zipWith (fun x y => FVal.scale (FVal.times x y) k) a b).foldl Sum.add (Sum.start.add c)).result f ftz

/-! ### Tiles (R160) -/

/-- A word of a tile; what is not listed is +0. -/
def Crew.tileWord (c : Crew) (t w : Nat) : W32 := lookD 0 w (c.tiles.getD t [])

/-- Element `w` of an accumulator: one tile, or the pair of an F64 step. -/
def Crew.accum (c : Crew) (t w : Nat) (f64 : Bool) : Nat :=
  (c.tileWord t w).toNat + (if f64 then (c.tileWord (t + 1) w).toNat * 2 ^ 32 else 0)

/-! ### What an operation comes to: a fault with its code, subcode and address, or what it writes and the slots it uses -/

/-- The outcome of starting a tile operation. -/
inductive TileRes where
  | bad (code sub addr : Nat)
  | ok (writes : List TileWrite) (uses : List Nat)

/-- SLOTS subcode 4 for the first slot name at or above the holding, in the order of `names`: sources before the destination, oA before oB
(R169; DESIGN CHOICE, log 124); else go on with the slots named, each once (R162). -/
def needSlots (c : Crew) (names : List Nat) (k : List Nat → TileRes) : TileRes :=
  match names.find? (fun n => c.slots.length ≤ n) with
  | some n => .bad 0x0C 4 n
  | none => k names.eraseDups

/-- Words of a tile from a function of the element. -/
def tileWrites (t : Nat) (f : Nat → Nat) (f64 : Bool) : List TileWrite :=
  (below 4096).flatMap (fun w =>
    let v := f w
    .tile t w (BitVec.ofNat 32 v) :: (if f64 then [.tile (t + 1) w (BitVec.ofNat 32 (v / 2 ^ 32))] else []))

/-- Bytes of a payload, of a side area or of the scratchpad from a byte up. -/
def putBytes (mk : Nat → Byte → TileWrite) : Nat → List Byte → List TileWrite
  | _, [] => []
  | a, b :: t => mk a b :: putBytes mk (a + 1) t

/-- The 64 row scales of a slot set to 127 (R140). -/
def unitScales (slot : Nat) : List TileWrite := putBytes (.side slot) 0 (List.replicate 64 127)

/-- mzero (R175). -/
def mzeroEffect (c : Crew) (acc : BitVec 4) : TileRes :=
  if c.tiles.length ≤ acc.toNat then .bad 0x10 3 acc.toNat
  else .ok (tileWrites acc.toNat (fun _ => 0) false) []

/-- mldo (R176) (DEDUCED, log 88). -/
def mldoEffect (c : Crew) (slot : BitVec 6) (q : BitVec 3) (side : Bool) (imm : BitVec 12) : TileRes :=
  let p := ((c.seq.q[q.toNat]'(q.isLt)).toNat + 64 * imm.toNat) % 2 ^ 64
  let o := slot.toNat
  if p % 64 ≠ 0 || c.hdr.scratch < p + 4096 + (if side then 2048 else 0) then .bad 0x10 4 p
  else needSlots c [o] (fun u => .ok (putBytes (.payload o) 0 (c.spBytes p 4096)
    ++ (if side then putBytes (.side o) 0 (c.spBytes (p + 4096) 2048) else unitScales o)) u)

/-- The codebook of R151 times 2^10: sign and magnitude. -/
def codebook (code : Nat) : Bool × Nat :=
  let t := [43, 131, 221, 318, 427, 555, 724, 1024]
  if code < 8 then (true, t.getD (7 - code) 0) else (false, t.getD (code - 8) 0)

/-- A code dequantised with the superscale and the scale code (R152). An exact zero has the sign of the product (DESIGN CHOICE, log 112). -/
def dequantise (ftz : Bool) (sg : FVal) (q code : Nat) : Nat :=
  let b := codebook code
  let scaled := match sg with
    | .num s m e => fmtF32.read false (fmtF32.round 0 false ftz s (m * (q + 1)) (e - 8)).1
    | v => v
  match scaled with
  | .nan _ => fmtBF16.canon
  | .inf s => fmtBF16.infPat (s != b.1)
  | .num s m e => (fmtBF16.round 0 false ftz (s != b.1) (m * b.2) (e - 10)).1

/-- mdeq (R152, R177). -/
def mdeqEffect (c : Crew) (slot : BitVec 6) (q : BitVec 3) (blk : BitVec 8) (ftz : Bool) : TileRes :=
  let g := (c.seq.q[q.toNat]'(q.isLt)).toNat
  let o := slot.toNat
  if o % 2 = 1 then .bad 0x10 3 o
  else if 192 < blk.toNat then .bad 0x10 3 0
  else if c.hdr.scratch < g + 8452 then .bad 0x10 4 g
  else needSlots c [o, o + 1] (fun u =>
    let sg := fmtF32.read false (c.spRead (g + 8448) 4)
    .ok ((below 64).flatMap (fun r =>
        let b := blk.toNat + r
        let qb := (c.spByte (g + 8192 + b)).toNat
        (below 64).flatMap (fun j =>
          let code := (c.spByte (g + 32 * b + j / 2)).toNat / 16 ^ (j % 2) % 16
          putBytes (.payload (o + j / 32)) (64 * r + 2 * (j % 32)) (leBytes 2 (dequantise ftz sg qb code))))
      ++ unitScales o ++ unitScales (o + 1)) u)

/-- One output of a block of the Hadamard transform (R147). -/
def hadamardElem (f : Fmt) (ftz : Bool) (n : Nat) (xs : List FVal) (i : Nat) : Nat :=
  if xs.any (fun x => match x with
    | .num _ _ _ => false
    | _ => true) then f.canon
  else
    let c : Int := if n = 16 then 2 else 3
    let a := ((below n).zip xs).foldl (fun (a : Sum) x =>
      a.add (FVal.scale (if popCount 6 (i &&& x.1) % 2 = 1 then x.2.negate else x.2) (-c))) Sum.start
    if a.m = 0 then f.sgn false else (f.round 0 false ftz (a.m < 0) a.m.natAbs a.e).1

/-- mhad (R147, R178): a block that fits no pair of slots has no slot to name (R169). -/
def mhadEffect (c : Crew) (n : BitVec 2) (slot : BitVec 6) (fmt : BitVec 3) (ftz : Bool) : TileRes :=
  let o := slot.toNat
  let code := fmt.toNat
  let k := hadamardRow fmt
  let pts := 16 * 2 ^ n.toNat
  let f := codeFmt code
  if n = 3 || 2 * k < pts then .bad 0x10 3 0
  else if !hadamardOk n slot fmt then .bad 0x10 3 o
  else
    let pair := k < pts
    needSlots c (if pair then [o, o + 1] else [o]) (fun u =>
      let rowOf := fun (r : Nat) => (below (if pair then 2 * k else k)).map (fun j => (c.slot_ (o + j / k)).value code ftz r (j % k))
      .ok ((below 64).flatMap (fun r =>
        let xs := rowOf r
        (below (xs.length / pts)).flatMap (fun b =>
          let blk := (xs.drop (b * pts)).take pts
          (below pts).flatMap (fun i =>
            let j := b * pts + i
            putBytes (.payload (o + j / k)) (64 * r + j % k * codeEb code) (leBytes (codeEb code) (hadamardElem f ftz pts blk i)))))) u)

/-- The number with the larger magnitude of two dyadic magnitudes. -/
def dyMax (a b : Nat × Int) : Nat × Int :=
  let e := if a.2 ≤ b.2 then a.2 else b.2
  if a.1 * 2 ^ (a.2 - e).toNat < b.1 * 2 ^ (b.2 - e).toNat then b else a

/-- The largest magnitude of the finite values of a list; 0 where there is none (R148, R150). -/
def amax (xs : List FVal) : Nat × Int :=
  xs.foldl (fun a x => match x with
    | .num _ m e => dyMax a (m, e)
    | _ => a) (0, 0)

/-- Clamp into 0 to 254 (R148, R150). -/
def clampScale (x : Int) : Nat := if x < 0 then 0 else if 254 < x then 254 else x.toNat

/-- The scale code of R148: 127 + ceil(log2(amax / 448)). With L bits in the mantissa the quotient by 7 lies in one of two
binades. -/
def f8Scale (a : Nat × Int) : Nat :=
  if a.1 = 0 then 127
  else
    let l := bitLen a.1
    let j : Int := if a.1 * 8 ≤ 7 * 2 ^ l then (l : Int) - 3 else (l : Int) - 2
    clampScale (127 + j + a.2 - 6)

/-- An element quantised to F8A (R148); a zero keeps its sign (DESIGN CHOICE, log 112). -/
def f8Elem (ftz : Bool) (s : Nat) : FVal → Nat
  | .nan _ => 0x7F
  | .inf neg => fmtF8A.maxPat + fmtF8A.sgn neg
  | .num neg m e => (fmtF8A.round 0 true ftz neg m (e + 127 - s)).1

/-- The exponent X of a GB4 block (R150). -/
def gb4Exp (a : Nat × Int) : Nat := if a.1 = 0 then 127 else clampScale ((bitLen a.1 : Int) - 1 + a.2 - 2 + 127)

/-- The micro bit of a pair (R150): its largest magnitude, scaled, is at most 3. -/
def gb4Micro (x : Nat) (a : Nat × Int) : Bool :=
  let e := a.2 + 127 - x
  if 0 ≤ e then a.1 * 2 ^ e.toNat ≤ 3 else a.1 ≤ 3 * 2 ^ (-e).toNat

/-- An element quantised to F4 (R150). -/
def gb4Elem (ftz : Bool) (x : Nat) (m : Bool) : FVal → Nat
  | .num neg n e => (fmtF4.round 0 true ftz neg n (e + 127 - x + (if m then 1 else 0))).1
  | _ => 0

/-- A GB4 block (R150): its 16 codes, its exponent and its micro byte. -/
def gb4Block (ftz : Bool) (xs : List FVal) : List Nat × Nat × Nat :=
  if xs.any (fun v => match v with
    | .num _ _ _ => false
    | _ => true) then (List.replicate 16 0, 0xFF, 0)
  else
    let x := gb4Exp (amax xs)
    let ms := (below 8).map (fun p => gb4Micro x (amax ((xs.drop (2 * p)).take 2)))
    ((below 16).map (fun i => gb4Elem ftz x (ms.getD (i / 2) false) (xs.getD i (.num false 0 0))), x,
     ((below 8).filter (fun p => ms.getD p false)).foldl (fun a p => a + 2 ^ p) 0)

/-- A row of `n` BF16 elements held from slot `o` on (R159). -/
def Crew.bf16Row (c : Crew) (ftz : Bool) (o n r : Nat) : List FVal :=
  (below n).map (fun j => (c.slot_ (o + j / 32)).value 0 ftz r (j % 32))

/-- mqnt (R148, R150, R179) (DEDUCED, log 45). -/
def mqntEffect (c : Crew) (dst src : BitVec 6) (gb4 ftz : Bool) : TileRes :=
  let d := dst.toNat
  let o := src.toNat
  if gb4 then
    if o % 4 ≠ 0 then .bad 0x10 3 o
    else needSlots c [o, o + 1, o + 2, o + 3, d] (fun u =>
      .ok ((below 64).flatMap (fun r =>
        let xs := c.bf16Row ftz o 128 r
        (below 8).flatMap (fun t =>
          let b := gb4Block ftz ((xs.drop (16 * t)).take 16)
          putBytes (.payload d) (64 * r + 8 * t)
              ((below 8).map (fun p => BitVec.ofNat 8 (b.1.getD (2 * p) 0 + 16 * b.1.getD (2 * p + 1) 0)))
            ++ [.side d (64 + 8 * r + t) (BitVec.ofNat 8 b.2.1), .side d (576 + 8 * r + t) (BitVec.ofNat 8 b.2.2)]))
        ++ unitScales d) u)
  else
    if o % 2 ≠ 0 then .bad 0x10 3 o
    else needSlots c [o, o + 1, d] (fun u =>
      .ok ((below 64).flatMap (fun r =>
        let xs := c.bf16Row ftz o 64 r
        let s := f8Scale (amax xs)
        putBytes (.payload d) (64 * r) (xs.map (fun x => BitVec.ofNat 8 (f8Elem ftz s x))) ++ [.side d r (BitVec.ofNat 8 s)])) u)

/-- The class of a format pair (R180): none where the two do not go together. -/
def mmlaClass (fa fb : Nat) : Option Nat :=
  let cls := fun (x : Nat) => if x < 2 then 0 else if x < 4 then 1 else if x < 6 then 2 else x - 3
  if cls fa = cls fb then some (cls fa) else none

/-- mmla (R145, R146, R180). A tile of a pair that the crew does not hold is reported by the pair's first (DESIGN CHOICE, log 112). -/
def mmlaEffect (c : Crew) (acc : BitVec 4) (sa sb : BitVec 6) (fa fb : BitVec 3) (ftz : Bool) : TileRes :=
  let t := acc.toNat
  match mmlaClass fa.toNat fb.toNat with
  | none => .bad 0x10 3 0
  | some cls =>
    let f64 := cls = 4
    let f := if f64 then fmtF64 else fmtF32
    if (f64 && t % 2 = 1) || c.tiles.length ≤ t + (if f64 then 1 else 0) then .bad 0x10 3 t
    else needSlots c [sa.toNat, sb.toNat] (fun u =>
      let rows := fun (o code : Nat) => (below 64).map (fun r => (below (codeK code)).map (fun k => (c.slot_ o).value code ftz r k))
      let a := rows sa.toNat fa.toNat
      let b := rows sb.toNat fb.toNat
      .ok (tileWrites t (fun w =>
        mmlaElem f ftz (f.read ftz (c.accum t w f64)) ((c.slot_ sa.toNat).rowScale (w / 64)) ((c.slot_ sb.toNat).rowScale (w % 64))
          (a.getD (w / 64) []) (b.getD (w % 64) [])) f64) u)

/-- One element of `msto` (R181). -/
def mstoElem (src out : Fmt) (ftz : Bool) (scale : Option Nat) (x : Nat) : Nat :=
  let s := scale.getD 127
  if s = 255 then out.canon
  else match src.read ftz x with
    | .nan _ => out.canon
    | .inf neg => out.infPat neg
    | .num neg m e => (out.round 0 false ftz neg m (e + s - 127)).1

/-- msto (R181): with no row scales F32 and F64 leave the bits as they are. A tile of a pair that the crew does not hold is reported by the
pair's first (DESIGN CHOICE, log 112). -/
def mstoEffect (c : Crew) (q : BitVec 3) (acc : BitVec 4) (out : BitVec 2) (rs : Bool) (slot : BitVec 6) (ftz : Bool) : TileRes :=
  let p := (c.seq.q[q.toNat]'(q.isLt)).toNat
  let t := acc.toNat
  let f64 := out = 2
  let w := if out = 0 then 4 else if out = 1 then 2 else 8
  if !rs && slot ≠ 0 then .bad 0x10 2 0
  else if out = 3 then .bad 0x10 3 0
  else if (f64 && t % 2 = 1) || c.tiles.length ≤ t + (if f64 then 1 else 0) then .bad 0x10 3 t
  else if p % w ≠ 0 || c.hdr.scratch < p + 4096 * w then .bad 0x10 4 p
  else needSlots c (if rs then [slot.toNat] else []) (fun u =>
    let src := if f64 then fmtF64 else fmtF32
    let dst := if out = 0 then fmtF32 else if out = 1 then fmtBF16 else fmtF64
    .ok ((below 4096).flatMap (fun i =>
      let x := c.accum t i f64
      let v := if rs then mstoElem src dst ftz (some ((c.slot_ slot.toNat).rowScale (i / 64))) x
        else if out = 1 then mstoElem src dst ftz none x else x
      putBytes .spad (p + w * i) (leBytes w v))) u)

/-- What a tile operation comes to for a crew; `none` for an instruction that is no tile operation (R168). -/
def tileEffect (c : Crew) : Instr → Option TileRes
  | .mzero acc => some (mzeroEffect c acc)
  | .mldo slot q side imm => some (mldoEffect c slot q side imm)
  | .mdeq slot q blk ftz => some (mdeqEffect c slot q blk ftz)
  | .mhad n slot fmt ftz => some (mhadEffect c n slot fmt ftz)
  | .mqnt dst src gb4 ftz => some (mqntEffect c dst src gb4 ftz)
  | .mmla acc sa sb fa fb ftz => some (mmlaEffect c acc sa sb fa fb ftz)
  | .msto q acc out rs slot ftz => some (mstoEffect c q acc out rs slot ftz)
  | _ => none

/-- Apply one write. -/
def Crew.tileWrite (c : Crew) : TileWrite → Crew
  | .payload i b v => c.modSlot i (fun x => x.setByte b v)
  | .side i b v => c.modSlot i (fun x => x.setSide b v)
  | .tile t w v => { c with tiles := c.tiles.modify t (fun l => setD 0 w v l) }
  | .spad a v => c.spWrite a [v]

/-- Apply the writes of an operation in their order. -/
def Crew.tileWriteAll (c : Crew) (ws : List TileWrite) : Crew := ws.foldl Crew.tileWrite c

end Sys2Proof.Machine
end

