-- ==== Sys2Proof/Machine/Queue.lean ====
section
/-! DEFINITION. Launches at the queue port: the records (R28, R30), the port's own accesses, the checks of a launch (R343), how a
launch ends with its counter and its event (R77, R333), and device-side launch (R241 to R244). -/

namespace Sys2Proof.Machine

open Sys2Proof

/-! ### Records -/

/-- The launch record's fields (R30). -/
def recordOf (b : List Byte) : LaunchRec :=
  { header := BitVec.ofNat 64 (field b 0 8), nx := field b 8 4, ny := field b 12 4, nz := field b 16 4, prio := field b 20 1,
    args := BitVec.ofNat 64 (field b 24 8), counter := BitVec.ofNat 64 (field b 32 8), extent := BitVec.ofNat 64 (field b 40 8) }

/-- The record rules of R30's table that need no header. -/
def recordOk (b : List Byte) : Bool :=
  let r := recordOf b
  r.header.toNat % 64 == 0 && 1 ≤ r.nx && 1 ≤ r.ny && 1 ≤ r.nz && r.nx * r.ny * r.nz ≤ 2 ^ 40 && r.prio ≤ 3
    && field b 21 3 == 0 && r.counter.toNat % 8 == 0 && field b 48 16 == 0

/-- The kernel header's fields (R28). -/
def headerOf (b : List Byte) : Header :=
  { coop := field b 6 2 % 2 == 1, step := field b 6 2 / 2 % 2 == 1, entry := field b 8 4, lanes := field b 12 1,
    vregs := field b 13 1, vprologue := field b 14 1, strands := field b 15 1, scratch := field b 16 4, slots := field b 20 1,
    tiles := field b 21 1, energy := field b 22 1, stack := field b 24 4, stream := field b 28 4, argBytes := field b 32 2 }

/-- The rules of R28. -/
def headerOk (b : List Byte) : Bool :=
  let h := headerOf b
  field b 0 4 == 0x314B4451 && field b 4 2 == 1 && field b 6 2 < 4 && 16 ≤ h.entry
    && (h.lanes == 16 || h.lanes == 32 || h.lanes == 64) && h.vregs ≤ 128 && h.vprologue ≤ h.vregs
    && 1 ≤ h.strands && h.strands ≤ 16 && h.scratch % 256 == 0 && h.scratch ≤ 524288 && h.slots ≤ 64 && h.tiles ≤ 16
    && h.energy ≤ 7 && field b 23 1 == 0 && h.stack % 16 == 0 && (h.stream == 0 || 16 ≤ h.stream)
    && h.argBytes % 8 == 0 && h.argBytes ≤ 4096 && field b 34 30 == 0

/-! ### A die's own accesses (DEDUCED, log 55): each is recorded under a key and leaves once, and its answer is taken when it is there -/

/-- The leaf of an address for the die's own agents: its L2 TLB, or a walk that fills it; an entry that leaves it may free a held write
(R288, R296). -/
def State.dieLeaf (s : State) (d : DieId) (va : Nat) : State × Option TlbEntry :=
  match (s.die d).l2tlb.find? (fun l => l.maps va) with
  | some l => (s, some l)
  | none => match s.walk d va with
    | (s, none) => (s, none)
    | (s, some l) => ((s.modDie d (fun x => { x with l2tlb := tlbPut 16384 l x.l2tlb })).wakeMig d, some l)

/-- The checks of R126 for one 8-byte element of the die's own agents. -/
def State.dieCheck (s : State) (d : DieId) (k : Acc) (va : Nat) : State × Tr :=
  if 2 ^ 55 ≤ va then (s, .bad 0x04 0)
  else if va % 8 ≠ 0 then (s, .bad 0x03 1)
  else match s.dieLeaf d va with
    | (s, none) => (s, .bad 0x05 k.sub)
    | (s, some l) => (s, s.permit d k l)

/-- The same for `n` consecutive elements: the first failing one with its address. -/
def State.dieRange (s : State) (d : DieId) (k : Acc) (va : Nat) : Nat → State × Option (Nat × Nat × Nat)
  | 0 => (s, none)
  | n + 1 => match s.dieCheck d k va with
    | (s, .bad c sub) => (s, some (c, sub, va))
    | (s, _) => s.dieRange d k (va + 8) n

/-- A counter's 8 bytes: R = 1, W = 1, DUP = 0 (R30, R331); the read's own bits come first. -/
def State.counterCheck (s : State) (d : DieId) (va : Nat) : State × Tr :=
  if 2 ^ 55 ≤ va then (s, .bad 0x04 0)
  else if va % 8 ≠ 0 then (s, .bad 0x03 1)
  else match s.dieLeaf d va with
    | (s, none) => (s, .bad 0x05 1)
    | (s, some l) => (s, if !bit l.pte 1 then .bad 0x06 1 else s.permit d .atomic l)

/-- Send a packet of a die through a FAB leaf (R276 to R278). -/
def State.emitFrom (s : State) (d : DieId) (l : TlbEntry) (va kind txn size : Nat) (atom : Option AtomArgs) (data : List Byte) : State :=
  match s.keyOf d l.pte with
  | none => s
  | some key => match s.outPort key with
    | none => s
    | some p => s.emit p
      { key := key, dpkg := BitVec.ofNat 16 (ptePkg l.pte), ddie := 0, kind := BitVec.ofNat 8 kind, spkg := s.pkgId, sdie := d,
        status := 0, nbytes := BitVec.ofNat 16 size, txn := BitVec.ofNat 16 txn,
        addr := BitVec.ofNat 64 (leafPa l va % 2 ^ 32), frag := 0, khdr := none, atom := atom, payload := data }

/-- The access recorded under a key. -/
def State.farOf (s : State) (d : DieId) (key : Nat × Nat) : Option Far := (s.die d).far.find? (fun f => f.key == key)

/-- Record an access of a die's own agents, to a page of a PLACE. -/
def State.putFar (s : State) (d : DieId) (key : Nat × Nat) (kind : FarKind) (place txn : Nat) (reply : Option (Byte × List Byte)) : State :=
  let f : Far := { key := key, kind := kind, place := place, txn := txn, sent := s.time, reply := reply }
  { (s.modDie d (fun x => { x with far := x.far ++ [f] })) with fresh := s.fresh + 1 }

/-- Take the answers of accesses once all are there; of several the first failure counts. -/
def State.farTake (s : State) (d : DieId) (keys : List (Nat × Nat)) : State × Option (Byte × List Byte) :=
  let rs := keys.filterMap (fun k => (s.farOf d k).bind (fun f => f.reply))
  if rs.length < keys.length then (s, none)
  else
    (s.modDie d (fun x => { x with far := x.far.filter (fun f => !keys.contains f.key) }),
     some ((rs.find? (fun r => r.1 != 0)).getD (0, (rs.map (fun r => r.2)).flatten)))

/-- A remote access of a die's own agents (R279). -/
def State.farRemote (s : State) (d : DieId) (key : Nat × Nat) (l : TlbEntry) (va kind size : Nat) (atom : Option AtomArgs)
    (data : List Byte) : State :=
  if (s.farOf d key).isSome then s
  else
    let n := s.fresh % 65536
    (s.putFar d key .remote 0 n none).emitFrom d l va kind n size atom data

/-- A sector read by the die's own agents at scope sys: at its home for PLACE 3, else in the die cache, with no byte of a pending entry:
what is pending when they come to read it is performed first (R220, R253, R316). -/
def State.farSector (s : State) (d : DieId) (key : Nat × Nat) (place sec : Nat) : State :=
  let h := s.holdOf (.die d) sec
  let clear := !(s.pendings d).any (fun e => e.sec == sec)
  let ask := fun (s : State) => if h.count = 0 || !h.known then s.request (.die d) sec false else s
  match s.farOf d key with
  | some f => if f.kind = .cache sec && f.reply.isNone then
      if h.count != 0 && h.known then
        let s := s.deliverFar d sec h.data
        if f.place = 2 then s.releaseRead d sec else s
      else ask s
    else s
  | none =>
    if place = 3 then
      let n := s.fresh
      (s.putFar d key .home place n none).sendTo (s.homeHolder sec) (.hld { src := .die d n, sec := sec, mask := 0xFFFF })
    else if h.count != 0 && h.known && clear then
      let s := s.putFar d key (.cache sec) place 0 (some (0, (below 16).map (sectorByte h.data)))
      let s := if place = 1 then s.pinSector d sec else s
      if place = 2 then s.victimise d sec else s
    else if clear then ask (s.putFar d key (.cache sec) place 0 none)
    else s

/-- `n` bytes that the die's own agents read at a translated address, under keys from `k` on: the sectors that hold them. -/
def State.farRead (s : State) (d : DieId) (id k : Nat) (l : TlbEntry) (va n : Nat) : State × Option (Byte × List Byte) :=
  if pteFab l.pte then (s.farRemote d (id, k) l va 0 n none []).farTake d [(id, k)]
  else
    let pa := leafPa l va
    let is := below ((pa % 16 + n + 15) / 16)
    let s := is.foldl (fun s i => s.farSector d (id, k + i) (ptePlace l.pte) (pa / 16 + i)) s
    let r := s.farTake d (is.map (fun i => (id, k + i)))
    (r.1, r.2.map (fun x => (x.1, (x.2.drop (pa % 16)).take n)))

/-- The atomics of the die's own agents on a sector that it holds whole execute; a page of PLACE 2 gives the line up then (R128). -/
def State.nearNow (s : State) (d : DieId) (sec place : Nat) : State :=
  let s := s.nearFar d sec
  if place = 2 then s.releaseRead d sec else s

/-- An atomic of the die's own agents on memory of this package: near where the die cache holds the sector whole, on host memory once it
has gathered the tokens, else at the home (R219, R220; DEDUCED, log 14). It waits for the pending entries of the sector. -/
def State.farAtomic (s : State) (d : DieId) (key : Nat × Nat) (l : TlbEntry) (va : Nat) (a : AtomArgs) : State :=
  let pa := leafPa l va
  let sec := pa / 16
  match s.farOf d key with
  | some _ => s
  | none =>
    if (s.pendings d).any (fun e => e.sec == sec) then s
    else
      let s := s.markDirty d l
      if !s.dirtySet l then s
      else if ptePlace l.pte != 3 && s.ownsAll d sec then
        (s.putFar d key (.near sec (pa % 16) a) (ptePlace l.pte) 0 none).nearNow d sec (ptePlace l.pte)
      else if ptePlace l.pte != 3 && inHost pa then
        (s.putFar d key (.near sec (pa % 16) a) (ptePlace l.pte) 0 none).request (.die d) sec true
      else
        let s := if ptePlace l.pte = 3 then s else s.sendAll (.die d) (s.homeHolder sec) sec false
        let n := s.fresh
        (s.putFar d key .home (ptePlace l.pte) n none).sendTo (s.homeHolder sec) (.atom { src := .die d n, sec := sec, off := pa % 16, args := a })

/-- What an atomic add or store of the die's agents comes to: done, not yet, or the failed check (R77, R331). -/
inductive CRes where
  | done
  | wait
  | bad (code sub : Nat)
  deriving DecidableEq, Repr

/-- What an atomic recorded under a key has come to. -/
def State.atomDone (s : State) (d : DieId) (key : Nat × Nat) : State × CRes :=
  match s.farTake d [key] with
  | (s, none) => (s, .wait)
  | (s, some (st, _)) => (s, if st = 0 then .done else .bad 0x08 st.toNat)

/-- An atomic of the die's own agents that gathers its tokens here is tried again. -/
def State.nearAgain (s : State) (d : DieId) (f : Far) : State := match f.kind with
  | .near sec _ _ => if f.reply.isSome then s else if s.ownsAll d sec then s.nearNow d sec f.place else s.request (.die d) sec true
  | _ => s

/-- An atomic at sys scope on a counter for a die, checked and translated until it leaves and then no more: MIG holds it, and behind a
fabric window it is a remote atomic (R77, R219, R221, R288). -/
def State.counterAtomic (s : State) (d : DieId) (key : Nat × Nat) (va : Nat) (op : AOp) (x : Word) : State × CRes :=
  match s.farOf d key with
  | some f => (s.nearAgain d f).atomDone d key
  | none => match s.dieCheck d .atomic va with
    | (s, .bad c sub) => (s, .bad c sub)
    | (s, .hold _) => (s, .wait)
    | (s, .ok l) =>
      let a : AtomArgs := { op := op, w64 := true, x := x, y := 0, ret := true }
      if pteFab l.pte then
        let s := s.markDirty d l
        if s.dirtySet l then (s.farRemote d key l va 4 8 (some a) []).atomDone d key else (s, .wait)
      else (s.farAtomic d key l va a).atomDone d key

/-! ### Endings (R77, R333) -/

/-- Status codes of a launch event (R333). -/
def stOK : Nat := 0
def stBadHeader : Nat := 1
def stBadLaunch : Nat := 2
def stCoopFit : Nat := 3
def stStackFit : Nat := 4
def stDiscarded : Nat := 5
def stFault : Nat := 6

/-- A record of a launch check (R30): PC 0, LANE and STRAND all ones, GRID and CREW zero. -/
def checkRec (code sub va : Nat) : FaultRec :=
  { code := BitVec.ofNat 8 code, sub := BitVec.ofNat 8 sub, lane := 0xFF, strand := 0xFF, eng := false, remn := false,
    defer := false, pc := 0, addr := BitVec.ofNat 64 va, grid := 0, crew := 0 }

/-- The 64 bytes of a launch event (R333). -/
def Ending.bytes (e : Ending) : List Byte :=
  [1, BitVec.ofNat 8 e.status, BitVec.ofNat 8 e.queue, 0] ++ leBytes 4 e.tag.toNat ++ leBytes 8 e.kills.toNat
    ++ leBytes 8 e.firstOff.toNat ++ leBytes 8 e.firstPc.toNat ++ (match e.rec_ with
      | some r => r.bytes
      | none => leBytes 32 0)

/-- Add an ending to a die's. -/
def State.putEnding (s : State) (d : DieId) (e : Ending) : State := s.modPort d (fun p => { p with ends := p.ends ++ [e] })

/-- An ending of a launch that ran no crew. -/
def bareEnding (id queue : Nat) (tag : BitVec 32) (status : Nat) (r : Option FaultRec) (counter : Word) (slot : Option GridSlot) : Ending :=
  { id := id, queue := queue, tag := tag, status := status, rec_ := r, kills := 0, firstOff := 0, firstPc := 0,
    counter := counter, grid := slot }

/-- Replace an ending. -/
def State.modEnding (s : State) (d : DieId) (id : Nat) (f : Ending → Ending) : State :=
  s.modPort d (fun p => { p with ends := p.ends.map (fun e => if e.id == id then f e else e) })

/-- Some store of the launch in a grid slot waits in the die's pending buffer (R77). -/
def State.launchPending (s : State) (d : DieId) (slot : Option GridSlot) : Bool :=
  match slot with
  | some g => (s.die d).pend.any (fun e => e.grid.contains g.val)
  | none => false

/-- The counter of an ended launch: its stores are performed, then the add is made; a failing add makes the status FAULT, with the
add's record where no crew was ended by a fault (R77, R333) (DEDUCED, log 51). -/
def State.advanceCounter (s : State) (d : DieId) (e : Ending) : State × Bool :=
  if s.launchPending d e.grid then (s, false)
  else if e.counter = 0 then (s, true)
  else match s.counterAtomic d (e.id, 9) e.counter.toNat .add 1 with
    | (s, .wait) => (s, false)
    | (s, .done) => (s.modEnding d e.id (fun e => { e with counter := 0 }), true)
    | (s, .bad c sub) =>
      let r := { checkRec c sub e.counter.toNat with grid := match e.grid with
        | some g => g.val
        | none => 0 }
      (s.modEnding d e.id (fun e => { e with
        counter := 0, status := stFault, rec_ := if e.status = stFault then e.rec_ else some r }), true)

/-- Write an event into a function's event queue if an entry is free (R333). -/
def HostFace.event (h : HostFace) (b : Event) : HostFace := { h with events := h.events ++ [b], free := h.free - 1 }

/-- LAUNCH_EVENT (R77, R333): the counter of ended launch `n` of the die advances, and then its event is written; while the event
queue is full the event is held, and the grid slot with it. -/
def execLaunchEvent (d : DieId) (n : Nat) (s : State) : Host.Outcome State Fault Refusal :=
  .next (let s := s.putBack
    match (s.die d).port.ends[n]? with
    | none => s
    | some e => match s.advanceCounter d e with
      | (s, false) => s
      | (s, true) =>
        if (s.die d).face.free = 0 then s
        else match (s.die d).port.ends.find? (fun x => x.id == e.id) with
          | none => s
          | some e => (s.modDie d (fun x => { x with face := x.face.event e.bytes })).modPort d
              (fun p => { p with ends := p.ends.filter (fun x => x.id != e.id) }))

/-! ### The checks of a launch (R343) -/

/-- What the checks of a launch come to. -/
inductive LRes where
  | ok (h : Header)
  | wait
  | bad (status : Nat) (r : Option FaultRec)
  deriving DecidableEq, Repr

/-- Read the 64 header bytes. -/
def State.readHeader (s : State) (d : DieId) (id va : Nat) : State × Option (Byte × List Byte) :=
  match s.dieLeaf d va with
  | (s, none) => (s, none)
  | (s, some l) => s.farRead d id 16 l va 64

/-- Rows 5 to 7 of R343 (DEDUCED, log 50). -/
def State.checkRest (s : State) (d : DieId) (q : QueueId) (r : LaunchRec) (h : Header) : State × LRes :=
  let a := r.args.toNat
  if h.argBytes ≠ 0 && a % 8 ≠ 0 then (s, .bad stBadLaunch none)
  else match s.dieRange d .load a (h.argBytes / 8) with
    | (s, some (c, sub, va)) => (s, .bad stBadLaunch (some (checkRec c sub va)))
    | (s, none) => match (if r.counter = 0 then (s, Tr.hold { level := 0, vpn := 0, pte := 0, at_ := 0 }) else s.counterCheck d r.counter.toNat) with
      | (s, .bad c sub) => (s, .bad stBadLaunch (some (checkRec c sub r.counter.toNat)))
      | (s, _) =>
        let pool := (s.die d).ctl.pools[q]
        if h.stack ≠ 0 && (pool.2 = 0 || pool.2 < h.strands * h.stack) then (s, .bad stStackFit none)
        else (s, .ok h)

/-- Rows 2 to 7 of R343, for a launch that is ready at its head. -/
def State.checkLaunch (s : State) (d : DieId) (q : QueueId) (e : Entry) : State × LRes :=
  let r := recordOf e.raw
  if !recordOk e.raw then (s, .bad stBadLaunch none)
  else match s.dieRange d .load r.header.toNat 8 with
    | (s, some (c, sub, va)) => (s, .bad stBadLaunch (some (checkRec c sub va)))
    | (s, none) => match s.readHeader d e.id r.header.toNat with
      | (s, none) => (s, .wait)
      | (s, some (st, b)) =>
        if st ≠ 0 then (s, .bad stBadLaunch (some (checkRec 0x08 st.toNat r.header.toNat)))
        else if !headerOk b then (s, .bad stBadHeader none)
        else s.checkRest d q r (headerOf b)

/-- The queue of a die. -/
def State.queue (s : State) (d : DieId) (q : QueueId) : List Entry := (s.die d).port.queues[q]

/-- A head whose waits are all met is ready from now on (R316, R317). -/
def stampHead (now : Nat) : List Entry → List Entry
  | [] => []
  | e :: t => (if e.readyAt.isNone && e.waits.all (fun w => w.met) then { e with readyAt := some now } else e) :: t

/-- Change a queue. -/
def State.modQueue (s : State) (d : DieId) (q : QueueId) (f : List Entry → List Entry) : State :=
  s.modPort d (fun p => { p with queues := p.queues.set q (stampHead s.time (f p.queues[q])) })

/-- Change the entry at the head of a queue. -/
def State.modHead (s : State) (d : DieId) (q : QueueId) (f : Entry → Entry) : State :=
  s.modQueue d q (fun l => match l with
    | [] => []
    | e :: t => f e :: t)

/-- Reject a launch at the head (R30, R343): its counter advances only where it has one that passes its check, which rows 7 and 8 have
made before. -/
def State.reject (s : State) (d : DieId) (q : QueueId) (e : Entry) (status : Nat) (r : Option FaultRec) : State :=
  let c := (recordOf e.raw).counter
  let (s, c) : State × Word :=
    if c = 0 || c.toNat % 8 ≠ 0 then (s, 0)
    else if status = stStackFit || status = stCoopFit then (s, c)
    else match s.counterCheck d c.toNat with
      | (s, .bad _ _) => (s, 0)
      | (s, _) => (s, c)
  let s := s.modPort d (fun p => { p with reserved := if p.reserved == some q.val then none else p.reserved })
  (s.modQueue d q (fun l => l.filter (fun x => x.id != e.id))).putEnding d (bareEnding e.id q.val e.tag status r c none)

/-- Put a launch at the end of a queue (R315). -/
def State.enqueue (s : State) (d : DieId) (q : QueueId) (raw : List Byte) (waits : List (Word × Word)) (tag : BitVec 32) (device : Bool) : State :=
  let e : Entry :=
    { id := s.fresh, raw := raw, tag := tag, device := device, hdr := none, readyAt := none, passedAt := none, aged := 0,
      grid := none, waits := waits.map (fun w => { addr := w.1, target := w.2, met := decide (w.2 = (0 : Word)), seen := decide (w.2 = (0 : Word)) }) }
  ({ s with fresh := s.fresh + 1 } : State).modQueue d q (fun l => l ++ [e])

/-! ### Device-side launch (R241 to R244) -/

/-- Change a device queue. -/
def State.modDq (s : State) (d : DieId) (q : QueueId) (f : DevQueue → DevQueue) : State :=
  s.modCtl d (fun c => { c with dq := c.dq.set q (f c.dq[q]) })

/-- The slot of a device queue that a row number names. -/
def DevQueue.slot (g : DevQueue) (j : Nat) : Nat := g.base + 64 * (j % 2 ^ g.log)

/-- The sectors of 64 bytes at a physical address. -/
def slotSecs (pa : Nat) : List Nat := (below ((pa % 16 + 79) / 16)).map (fun i => pa / 16 + i)

/-- What was written at a slot has reached memory: no home of it has an access queued. -/
def State.slotDone (s : State) (pa : Nat) : Bool := (slotSecs pa).all (fun n => !s.homeBusy n)

/-- The port's answer to `dlaunch` (R242): RESULT, and with 0 the state with the record on its way to its slot. A slot whose record is on its
way counts as filled (DEDUCED, log 128). -/
def State.deviceRecord (s : State) (d : DieId) (j q : Nat) (rec : List Byte) : State × Nat :=
  if h : q < 64 then
    let g := (s.die d).ctl.dq[(⟨q, h⟩ : QueueId)]
    if g.log = 0 then (s, 5)
    else if j < g.head || g.filled.contains j || (s.die d).port.asks.any (fun x => x.q == q && x.j == j) then (s, 4)
    else if g.head + 2 ^ g.log ≤ j then (s, 3)
    else (s.devWrite d (g.slot j) rec, 0)
  else (s, 5)

/-- A record has been written: its slot is marked filled (R242). -/
def State.fillSlot (s : State) (d : DieId) (q j : Nat) : State := s.modDq d (Fin.ofNat 64 q) (fun g => { g with filled := g.filled ++ [j] })

/-- The device launches of a die whose records have been written are answered: the slot is filled, and OK goes to the token (R242). -/
def State.portGo (s : State) (d : DieId) : State :=
  ((s.die d).port.asks.filter (fun x => s.slotDone x.pa)).foldl (fun s x =>
    let s := s.modPort d (fun p => { p with asks := p.asks.filter (fun y => y.op != x.op) })
    (s.fillSlot d x.q x.j).signal x.crew (.token x.op) (statusWord 0 0 0 0) 0) s

/-- dlaunch (R242, R244): a release at die scope. The port answers at once, unless the record must wait for the tokens of its slot: then
the register is busy until it has been written (DEDUCED, log 128). -/
def execDlaunch (e : Bool) (rd ra rb : SReg) (s : State) : Host.Outcome State Fault Refusal :=
  .next (s.gate [ra, rb] [rd] [] (fun s => s.descGate (s.rdS rb) (fun s => s.releaseGate 2 (fun s =>
    let x := (s.rdS ra).toNat
    let b := s.crew.spBytes (s.rdS rb).toNat 64
    let d := s.crew.die
    let pa := ((s.die d).ctl.dq[(Fin.ofNat 64 (x % 64) : QueueId)]).slot (x / 64)
    let (s, r) := s.deviceRecord d (x / 64) (x % 64) b
    if r = 0 && !s.slotDone pa then
      let (op, s) := s.markBusy rd
      (s.modPort d (fun p => { p with asks := p.asks ++ [{ op := op, crew := s.crew.uid, q := x % 64, j := x / 64, pa := pa }] })).finish e
    else ((if r = 0 then s.fillSlot d (x % 64) (x / 64) else s).wrS rd (statusWord 0 0 0 r)).finish e))))

/-- qnotify (R243, R244): the tail rises to the largest value sent. -/
def execQnotify (e : Bool) (ra rb : SReg) (s : State) : Host.Outcome State Fault Refusal :=
  .next (s.gate [ra, rb] [] [] (fun s => s.releaseGate 2 (fun s =>
    let q := (s.rdS ra).toNat
    let t := (s.rdS rb).toNat
    let s := if h : q < 64 then
        let k : QueueId := ⟨q, h⟩
        if (s.die s.crew.die).ctl.dq[k].log = 0 then s
        else s.modDq s.crew.die k (fun g => { g with tail := Nat.max g.tail t })
      else s
    s.finish e)))

/-- The home of a sector has every token of it, its data and nothing else to do there: an agent of the device reads it there at once. -/
def State.homeOpen (s : State) (sec : Nat) : Bool :=
  let h := s.homeOf (16 * sec)
  !s.homeBusy sec && ((s.home h).hold sec).1 == 16 && !(s.home h).recovering (sec / 8) && s.homeReady h sec false

/-- An agent of die `d` wants to read sectors at their homes: where one is not open, a load that nobody waits for goes there and gathers
the tokens (R220). -/
def State.homeGather (s : State) (d : DieId) (secs : List Nat) : State :=
  secs.foldl (fun s sec => if s.homeOpen sec || s.homeBusy sec then s
    else s.homeQueue sec (.hld { src := .die d 0, sec := sec, mask := 0xFFFF })) s

/-- DEVICE_SLOT_CONSUME (R241, R315): the slot at the head, once filled, written and below the tail, becomes a launch of its queue (DEDUCED,
log 49). -/
def execDeviceSlotConsume (d : DieId) (q : QueueId) (s : State) : Host.Outcome State Fault Refusal :=
  .next (let s := s.putBack
    let g := (s.die d).ctl.dq[q]
    if g.log = 0 || !(g.head < g.tail && g.filled.contains g.head) then s
    else
      let pa := g.slot g.head
      let s := s.homeGather d (slotSecs pa)
      if !(slotSecs pa).all s.homeOpen then s
      else
        let b := (below 64).map (fun k => s.memByte (pa + k))
        let s := s.modDq d q (fun g => { g with head := g.head + 1, filled := g.filled.filter (fun j => j != g.head) })
        (s.devWrite d g.headAt (leBytes 8 (g.head + 1))).enqueue d q b [] 0 true)

end Sys2Proof.Machine
end

