-- ==== Sys2Proof/Machine/Admission.lean ====
section
/-! DEFINITION. Admission (R31 to R35, R315 to R324): waits, readiness and priority of the heads, what fits a core, placing a
crew, COOP grids, and the energy window (R321, R322, R328). -/

namespace Sys2Proof.Machine

open Sys2Proof

/-! ### Room on cores and quarters (R34, R319, R320) -/

/-- Crews resident on a die: admitted, not complete, not pre-empted. -/
def State.residents (s : State) (d : DieId) : List Crew := s.crews.filter (fun k => k.die == d && !k.preempted)

/-- Crews resident on a core. -/
def State.coreCrews (s : State) (d : DieId) (c : CoreId) : List Crew := (s.residents d).filter (fun k => k.core == c)

/-- Root strands that hold a context on a quarter (R319, R320). -/
def State.rootsOn (s : State) (d : DieId) (c : CoreId) (q : QuarterId) : Nat :=
  (s.strands.filter (fun x => x.parent.isNone && x.state != .done && x.quarter == q && match s.anyCrew x.crew with
    | some k => k.die == d && k.core == c && !k.preempted
    | none => false)).length

/-- Root strands resident on a core. -/
def State.coreRoots (s : State) (d : DieId) (c : CoreId) : Nat :=
  ((below 4).map (fun q => s.rootsOn d c (Fin.ofNat 4 q))).foldl (· + ·) 0

/-- The sum of a field over crews. -/
def sumOf (l : List Crew) (f : Crew → Nat) : Nat := (l.map f).foldl (· + ·) 0

/-- What a crew needs of a core besides registers (R160, R163, R319): scratchpad, a sequencer context with its tiles, and at
most 15 other crews. `slots` are the slots it holds already (R310). -/
def State.coreTakes (s : State) (d : DieId) (c : CoreId) (h : Header) (slots : Nat) : Bool :=
  let ks := s.coreCrews d c
  let seq := h.stream != 0 || h.tiles != 0
  sumOf ks (fun k => k.hdr.scratch) + h.scratch ≤ 524288 && ks.length ≤ 15
    && (!seq || (sumOf ks (fun k => if k.hasSeq then 1 else 0) < 4 && sumOf ks (fun k => k.hdr.tiles) + h.tiles ≤ 16))
    && slots ≤ s.freeSlots d c

/-- The largest need of a strand on a quarter that does not hold its full allotment (R34). -/
def State.quarterNeed (s : State) (d : DieId) (c : CoreId) (q : QuarterId) : Nat :=
  (s.holders d c q).foldl (fun m x => if x.1.full then m else Nat.max m (x.2.allot true - x.2.allot false)) 0

/-- A quarter may take one more root strand (R34, R319). -/
def State.quarterTakes (s : State) (d : DieId) (c : CoreId) (q : QuarterId) (h : Header) (full : Bool) : Bool :=
  let used := s.quarterUsed d c q + h.allot full
  let size := Nat.max (s.quarterNeed d c q) (if full then 0 else h.allot true - h.allot false)
  s.rootsOn d c q < 32 && (s.acquirers d c q).isEmpty && used + size ≤ quarterBytes

/-- The quarter a strand goes to: the one with the most free registers of its width, the lowest on a tie (R319). -/
def State.pickQuarter (s : State) (d : DieId) (c : CoreId) (h : Header) (full : Bool) : Option QuarterId :=
  leastBy (fun (q : QuarterId) => quarterBytes - (quarterBytes - s.quarterUsed d c q) / (h.lanes * 4))
    (((below 4).map (Fin.ofNat 4)).filter (fun q => s.quarterTakes d c q h full))

/-- Place root strands in STRAND order (R319); `none` where one cannot be placed. -/
def State.placeAll (s : State) (d : DieId) (c : CoreId) (h : Header) : List Strand → Option State
  | [] => some s
  | x :: t => match s.pickQuarter d c h x.full with
    | none => none
    | some q => ({ s with strands := upsert (fun y => y.uid) { x with quarter := q } s.strands } : State).placeAll d c h t

/-- The core a placement chooses: of those that succeed, the one with the fewest resident root strands, the lowest on a tie
(R319). -/
def State.bestCore (s : State) (d : DieId) (try_ : CoreId → Option State) : Option State :=
  let ok := ((below 20).map (Fin.ofNat 20)).filterMap (fun c => (try_ c).map (fun t => (s.coreRoots d c, t)))
  (leastBy (fun (x : Nat × State) => x.1) ok).map (fun x => x.2)

/-! ### Energy (R321, R322) -/

/-- A crew's charge in nJ per window (R321). -/
def energyCharge (cls : Nat) : Nat :=
  match cls with
  | 0 => 25000
  | 1 => 50000
  | 2 => 100000
  | 3 => 200000
  | 4 => 400000
  | 5 => 800000
  | 6 => 1200000
  | _ => 1600000

/-- A die's committed charge (R321). -/
def State.committed (s : State) (d : DieId) : Nat := sumOf (s.residents d) (fun k => energyCharge k.hdr.energy)

/-- A crew's charge fits the die's budget, or the die is idle (R321). -/
def State.energyTakes (s : State) (d : DieId) (h : Header) : Bool :=
  (s.residents d).isEmpty || s.committed d + energyCharge h.energy ≤ (s.die d).port.budget

/-! ### A crew (R31, R32, R318) -/

/-- The live mask of strand `x` of a crew (R31). -/
def launchMask (h : Header) (r : LaunchRec) (crew x : Nat) : Word :=
  let g := (crew * h.strands + x) * h.lanes
  if r.extent = 0 then lowMask h.lanes else lowMask (Nat.min h.lanes (r.extent.toNat - g))

/-- Stack ranges of a queue's pool in use, with pre-empted crews' (R318). -/
def State.stacksUsed (s : State) (d : DieId) (q : Nat) : List (Nat × Nat) :=
  (s.crews.filter (fun k => k.die == d && k.queue == q && k.stackLen != 0)).map (fun k => (k.stackLo, k.stackLen))

/-- The lowest start, from `base` up, at which `need` bytes are free: after each range that is in the way the search goes on
behind it (R318). -/
def firstFree (used : List (Nat × Nat)) (size base : Nat) : Nat → Nat
  | 0 => base
  | n + 1 => match used.find? (fun u => u.1 < base + size && base < u.1 + u.2) with
    | none => base
    | some u => firstFree used size (u.1 + u.2) n

/-- The stack range of a crew; `none` where no free range holds it (R318). -/
def State.carve (s : State) (d : DieId) (q : QueueId) (size : Nat) : Option Nat :=
  if size = 0 then some 0
  else
    let pool := (s.die d).ctl.pools[q]
    let used := s.stacksUsed d q.val
    let a := firstFree used size pool.1 (used.length + 1)
    if a + size ≤ pool.1 + pool.2 then some a else none

/-- A root strand at launch (R31, R32). -/
def rootStrand (uid crew idx : Nat) (h : Header) (r : LaunchRec) (num lo : Nat) : Strand :=
  let base := BitVec.ofNat 64 (lo + idx * h.stack)
  let pc := r.header + BitVec.ofNat 64 (4 * h.entry)
  let x : Strand := { Strand.blank with
    uid := uid, crew := crew, idx := idx, root := uid, state := .ready, pc := pc, unitPc := pc,
    live := launchMask h r num idx, baseCls := r.prio, cls := r.prio, joinSeq := uid }
  if h.stack = 0 then x else { x.wrS 63 (base + BitVec.ofNat 64 h.stack) with stklo := base }

/-- The crew at its admission (R31, R160 to R166). -/
def newCrew (uid : Nat) (d : DieId) (g : Grid) (num lo : Nat) : Crew :=
  { Crew.blank with
    uid := uid, die := d, slot := g.slot, num := num, hdrAddr := g.rec_.header, hdr := g.hdr, rec_ := g.rec_, queue := g.queue,
    tag := g.tag, debug := g.debug, tiles := List.replicate g.hdr.tiles [], hasSeq := g.hdr.stream != 0 || g.hdr.tiles != 0,
    stackLo := lo, stackLen := g.hdr.strands * g.hdr.stack }

/-- A free grid slot of a die (R318). -/
def State.freeGrid (s : State) (d : DieId) : Option GridSlot :=
  ((below 32).map (Fin.ofNat 32)).find? (fun i => !((s.die d).port.grids.any (fun g => g.slot == i))
    && !((s.die d).port.ends.any (fun e => e.grid == some i)))

/-- The launch's DEBUG word: its own, else its queue's (R311, R331). -/
def Port.debugOf (p : Port) (q id : Nat) : Word := (look id p.debugT).getD ((look q p.debugQ).getD 0)

/-- A launch as its first crew is admitted: the kernel image is fixed now (R47). -/
def State.newGrid (s : State) (d : DieId) (q : QueueId) (e : Entry) (h : Header) (slot : GridSlot) : Grid :=
  { slot := slot, queue := q.val, tag := e.tag, hdrAddr := (recordOf e.raw).header, hdr := h, rec_ := recordOf e.raw, next := 0,
    complete := 0, imgRoot := (s.die d).ctl.root, image := s.snapshot d, known := s.hostKnown, fetched := [], kills := 0, killBy := [], faults := [],
    gphase := 0, debug := (s.die d).port.debugOf q.val e.id }

/-- Admit a grid's next crew to the best core it fits (R318, R319); `none` where it fits none. The core's L1 is emptied: every
crew is admitted with an acquire at sys scope (R77, R257, R316). -/
def State.admitCrew (s : State) (d : DieId) (q : QueueId) (slot : GridSlot) : Option State :=
  match s.gridAt d slot with
  | none => none
  | some g =>
    if !s.energyTakes d g.hdr then none
    else (s.carve d q (g.hdr.strands * g.hdr.stack)).bind (fun lo =>
      let num := g.next
      let u := s.fresh
      let xs := ((below g.hdr.strands).map (fun i => rootStrand (u + 1 + i) u i g.hdr g.rec_ num lo)).filter (fun x => x.live != 0)
      let s := (({ s with fresh := u + 1 + g.hdr.strands } : State)).modGrid d slot (fun g => { g with next := g.next + 1 })
      s.bestCore d (fun c =>
        if !s.coreTakes d c g.hdr 0 then none
        else
          let k := { newCrew u d g num lo with core := c }
          let t : State := { s with crews := upsert (fun x => x.uid) k s.crews }
          (t.placeAll d c g.hdr xs).map (fun t => t.modL1 d c (fun _ => []))))

/-- Admit every crew of a grid that is left, at most as many as a die can hold (R35). -/
def State.admitAll (s : State) (d : DieId) (q : QueueId) (slot : GridSlot) : Nat → Option State
  | 0 => some s
  | n + 1 => (s.admitCrew d q slot).bind (fun t => t.admitAll d q slot n)

/-! ### Heads (R315 to R317, R323) -/

/-- A wait of a head: met, not met, or its first read failed (R316). The read is an acquire at sys scope: it takes no
pending byte (R253); behind a fabric window it is a remote load (DEDUCED, log 54). -/
def State.lookWait (s : State) (d : DieId) (id i : Nat) (w : Wait) : State × Wait × Option (Nat × Nat) :=
  if w.met then (s, w, none)
  else
    let va := w.addr.toNat
    match s.dieCheck d .load va with
    | (s, .bad c sub) => (s, w, if w.seen then none else some (c, sub))
    | (s, .hold _) => (s, w, none)
    | (s, .ok l) => match s.farRead d id i l va 8 with
      | (s, some (st, b)) => (s, { w with seen := true, met := st == 0 && w.target.toNat ≤ leNat b }, none)
      | (s, none) => (s, { w with seen := true }, none)

/-- The waits of a head in their order, up to the first whose first read fails. -/
def State.lookWaits (s : State) (d : DieId) (id : Nat) : Nat → List Wait → State × List Wait × Option (Nat × Nat × Nat)
  | _, [] => (s, [], none)
  | i, w :: t => match s.lookWait d id i w with
    | (s, w, some (c, sub)) => (s, w :: t, some (c, sub, w.addr.toNat))
    | (s, w, none) =>
      let (s, ws, r) := s.lookWaits d id (i + 1) t
      (s, w :: ws, r)

/-- WAIT_MET (R316, R343): the port reads the counters of a queue's head; a counter that fails at its first read rejects the
launch. The read that finds a wait met is an acquire at sys scope, as every admission is. -/
def execWaitMet (d : DieId) (q : QueueId) (s : State) : Host.Outcome State Fault Refusal :=
  .next (let s := s.putBack
    match s.queue d q with
    | [] => s
    | e :: _ => match s.lookWaits d e.id 0 e.waits with
      | (s, ws, none) => s.modHead d q (fun e => { e with waits := ws })
      | (s, _, some (c, sub, va)) => s.reject d q e stBadLaunch (some (checkRec c sub va)))

/-- The queues of a die. -/
def allOfQueues : List QueueId := (below 64).map (Fin.ofNat 64)

/-- A head whose waits are met is checked once and may then be admitted, or it is rejected (R318, R343). While its header is on its way
no launch is admitted (DEDUCED, log 92). -/
def State.prepare (s : State) (d : DieId) (q : QueueId) : State :=
  match s.queue d q with
  | [] => s
  | e :: _ =>
    if e.hdr.isSome || !(e.waits.all (fun w => w.met)) then s
    else match s.checkLaunch d q e with
      | (s, .ok h) => s.modHead d q (fun e => { e with hdr := some h })
      | (s, .wait) => s
      | (s, .bad st r) => s.reject d q e st r

/-- A ready head. -/
structure Head where
  q   : QueueId
  e   : Entry
  h   : Header
  deriving DecidableEq, Repr

/-- The ready heads of a die. -/
def State.heads (s : State) (d : DieId) : List Head :=
  ((below 64).map (Fin.ofNat 64)).filterMap (fun q => match s.queue d q with
    | e :: _ => e.hdr.map (fun h => { q := q, e := e, h := h })
    | [] => none)

/-- Full 100 µs since a TIME. -/
def hundreds (now : Nat) : Option Nat → Nat
  | some t => (now - t) / 100000
  | none => 0

/-- The effective priority of a head (R317): one level less for each full 100 µs it has been ready without a crew admitted (DEDUCED, log 52). -/
def State.effPrio (s : State) (e : Entry) : Nat := (recordOf e.raw).prio - Nat.max e.aged (hundreds s.time e.readyAt)

/-- The order in which the port tries heads: effective priority, then round-robin in ascending queue number (R317). -/
def State.headKey (s : State) (d : DieId) (x : Head) : Nat :=
  s.effPrio x.e * 64 + (x.q.val + 127 - (s.die d).port.lastQ) % 64

/-- The heads that may be tried now: a ready COOP launch or a head passed over for 100 µs keeps every other one out (R323,
R324) (DEDUCED, log 92). -/
def State.tryable (s : State) (d : DieId) : List Head :=
  let hs := s.heads d
  let first := fun (l : List Head) => (leastBy (s.headKey d) l).toList
  let coop := hs.filter (fun x => x.h.coop)
  let mine := hs.filter (fun x => (s.die d).port.reserved == some x.q.val)
  let old := hs.filter (fun x => 1 ≤ hundreds s.time x.e.passedAt)
  if !coop.isEmpty then first coop else if !mine.isEmpty then mine else if !old.isEmpty then first old else hs

/-- A crew's remnants stand on the quarters of their roots (R21). -/
def State.alignRemnants (s : State) (c : Nat) : State :=
  { s with strands := s.strands.map (fun x => if x.crew = c && x.parent.isSome then
      { x with quarter := ((s.strands.find? (fun y => y.uid == x.root)).map (fun y => y.quarter)).getD x.quarter } else x) }

/-- The pooled remnant contexts of a core's quarters are at most 64 each (R320). -/
def State.poolsOk (s : State) (d : DieId) (c : CoreId) : Bool :=
  (below 4).all (fun q => (s.strands.filter (fun x => x.ctx == .pooled && x.state != .done && x.quarter.val == q && match s.anyCrew x.crew with
    | some k => k.die == d && k.core == c && !k.preempted
    | none => false)).length ≤ 64)

/-- A pre-empted crew fits a core (R310): its families are placed as at admission, their remnants with them (R21, R320). -/
def State.resumeOn (s : State) (k : Crew) (c : CoreId) : Option State :=
  if !s.coreTakes k.die c k.hdr k.slots.length then none
  else
    let mine := s.strands.filter (fun x => x.crew == k.uid && x.parent.isNone && s.familyLive x.root)
    let t : State := { s with
      strands := s.strands.filter (fun x => !(mine.any (fun y => y.uid == x.uid))),
      crews := upsert (fun x => x.uid) { k with core := c, preempted := false } s.crews }
    ((t.placeAll k.die c k.hdr mine).map (fun t => t.alignRemnants k.uid)).filter (fun t => t.poolsOk k.die c)

/-- A pre-empted crew that can be resumed comes before a head of equal or lower priority (R317) (DEDUCED, log 53). -/
def State.resumeFirst (s : State) (d : DieId) (prio : Nat) : Bool :=
  s.crews.any (fun k => k.die == d && k.preempted && k.rec_.prio ≤ prio
    && ((below 20).map (Fin.ofNat 20)).any (fun c => (s.resumeOn k c).isSome))

/-- The head has had a crew admitted: its clocks start again, and once every crew is admitted it leaves its queue. -/
def State.served (s : State) (d : DieId) (x : Head) (slot : GridSlot) : State :=
  let s := (s.modHead d x.q (fun e => { e with grid := some slot, readyAt := some s.time, passedAt := none, aged := 0 })).modPort d
    (fun p => { p with lastQ := x.q.val, reserved := if p.reserved == some x.q.val then none else p.reserved })
  match s.gridAt d slot with
  | none => s
  | some g =>
    if g.next < crewCount g.hdr g.rec_ then s
    else (s.modQueue d x.q (fun l => l.filter (fun e => e.id != x.e.id))).modPort d
      (fun p => { p with debugT := del x.e.id p.debugT })

/-- What trying a head comes to: a crew or a COOP grid admitted, or the launch rejected; no core that its next crew fits (R323); a
resumption comes first (R317); or it waits for a grid slot, a stack range or its whole grid (R318, R324). -/
inductive HeadRes where
  | done (s : State)
  | passed
  | behind
  | waits

/-- The die as its stack pools would be with every range free: an idle die's (R318, R324). -/
def State.poolsFree (s : State) (d : DieId) : State :=
  { s with crews := s.crews.map (fun k => if k.die == d then { k with stackLen := 0 } else k) }

/-- Admit a head's next crew, or all of them for COOP (R318, R319, R324, R35). A COOP grid that only the ranges of pre-empted crews keep
out waits. -/
def State.admitHead (s : State) (d : DieId) (x : Head) : HeadRes :=
  if s.resumeFirst d (s.effPrio x.e) then .behind
  else match (match x.e.grid with
    | some g => some (g, s)
    | none => (s.freeGrid d).map (fun g => (g, s.modPort d (fun p => { p with grids := p.grids ++ [s.newGrid d x.q x.e x.h g] })))) with
    | none => .waits
    | some (slot, t) =>
      if x.h.coop then
        let n := Nat.min (crewCount x.h (recordOf x.e.raw)) 321
        match t.admitAll d x.q slot n with
        | some t => .done (t.served d x slot)
        | none =>
          if !(s.residents d).isEmpty || ((t.poolsFree d).admitAll d x.q slot n).isSome then .waits
          else .done (s.reject d x.q x.e stCoopFit none)
      else if (t.carve d x.q (x.h.strands * x.h.stack)).isNone then .waits
      else match t.admitCrew d x.q slot with
        | some t => .done (t.served d x slot)
        | none => .passed

/-- A head has the port to itself: it has been passed over for 100 µs (R323). -/
def State.claims (s : State) (d : DieId) (x : Head) : Bool :=
  (s.die d).port.reserved == some x.q.val || decide (1 ≤ hundreds s.time x.e.passedAt)

/-- Try heads in the order of R317: one that fits no core is passed over, and one that waits for something else is not, unless it has the
port to itself already (R323). -/
def State.tryHeads (s : State) (d : DieId) (hs : List Head) : Nat → State
  | 0 => s
  | n + 1 => match leastBy (s.headKey d) hs with
    | none => s
    | some x => match s.admitHead d x with
      | .done t => t
      | .passed =>
        let s := s.modHead d x.q (fun e => { e with passedAt := some (e.passedAt.getD s.time) })
        s.tryHeads d (hs.filter (fun y => y.q != x.q)) n
      | .behind => s.tryHeads d (hs.filter (fun y => y.q != x.q)) n
      | .waits =>
        let s := if s.claims d x then s else s.modHead d x.q (fun e => { e with passedAt := none })
        s.tryHeads d (hs.filter (fun y => y.q != x.q)) n

/-- A ready head's header has not been read yet: it may be that of a COOP launch, which keeps every other launch out from the moment it is
ready (R324; DEDUCED, log 92). -/
def State.undecided (s : State) (d : DieId) : Bool := allOfQueues.any (fun q => match s.queue d q with
  | e :: _ => e.hdr.isNone && e.waits.all (fun w => w.met)
  | [] => false)

/-- CREW_ADMISSION (R30, R315 to R324, R343): every head whose waits are met is checked, and then the port admits one crew, or
one COOP grid, of the first head that fits. Where a launch's first crew may be admitted, what the kernel image needs of the host is asked for
first (R47; DEDUCED, log 93). -/
def execCrewAdmission (d : DieId) (s : State) : Host.Outcome State Fault Refusal :=
  .next (let s := s.putBack
    let s := allOfQueues.foldl (fun s q => s.prepare d q) s
    let hs := s.tryable d
    let ask := if hs.any (fun x => x.e.grid.isNone) then s.imageMissing d else []
    if s.undecided d then s else if ask.isEmpty then s.tryHeads d hs 64 else s.imageAsk d ask)

/-- PRIORITY_AGING (R317): the head's levels of aging are brought up to its waiting time. -/
def execPriorityAging (d : DieId) (q : QueueId) (s : State) : Host.Outcome State Fault Refusal :=
  .next (let s := s.putBack
    s.modHead d q (fun e => { e with aged := Nat.min 3 (Nat.max e.aged (hundreds s.time e.readyAt)) }))

/-- PASSOVER_TIMEOUT (R323): a head passed over for 100 µs has the port reserved. -/
def execPassoverTimeout (d : DieId) (q : QueueId) (s : State) : Host.Outcome State Fault Refusal :=
  .next (let s := s.putBack
    match s.queue d q with
    | e :: _ => if 1 ≤ hundreds s.time e.passedAt && (s.die d).port.reserved.isNone
        then s.modPort d (fun p => { p with reserved := some q.val }) else s
    | [] => s)

/-! ### The energy window (R322, R328) -/

/-- The clock cap of a CLKMODE word, in units of 50 MHz: FCAP, or with FCAP 0 the policy's (R328). -/
def clockCap (m : Word) : Nat :=
  let p := m.toNat % 4
  let f := m.toNat / 256 % 64
  if f ≠ 0 then f else if p = 0 then 38 else if p = 1 then 34 else 26

/-- A ready head with crews left to admit, as R322 counts them: queue, effective priority now and after a crew, crews left, charge of
one, and what puts it before every other head (R323, R324). -/
structure Cand where
  q      : Nat
  prio   : Nat
  base   : Nat
  left   : Nat
  charge : Nat
  coop   : Bool
  first  : Bool
  deriving DecidableEq, Repr

/-- A ready head as a candidate. -/
def State.candOf (s : State) (d : DieId) (x : Head) : Cand :=
  let done := ((x.e.grid.bind (s.gridAt d)).map (fun g => g.next)).getD 0
  { q := x.q.val, prio := s.effPrio x.e, base := (recordOf x.e.raw).prio, left := crewCount x.h (recordOf x.e.raw) - done,
    charge := energyCharge x.h.energy, coop := x.h.coop, first := (s.die d).port.reserved == some x.q.val }

/-- The charge of the next crews that heads would admit, one crew after the other in the order of R317. -/
def nextCharge (lastQ : Nat) (cs : List Cand) : Nat → Nat
  | 0 => 0
  | n + 1 =>
    let live := cs.filter (fun x => x.left != 0)
    let key := fun (x : Cand) => (if x.coop then 0 else if x.first then 1 else 2) * 256 + x.prio * 64 + (x.q + 127 - lastQ) % 64
    match leastBy key live with
    | none => 0
    | some x => x.charge + nextCharge x.q (live.map (fun y =>
        if y.q = x.q then { y with left := y.left - 1, prio := y.base, first := false } else y)) n

/-- A die's demand in nJ per window: its committed charge and that of the next 16 crews its ready heads would admit (R322). -/
def State.demand (s : State) (d : DieId) : Nat :=
  s.committed d + nextCharge (s.die d).port.lastQ ((s.heads d).map (s.candOf d)) 16

/-- ENERGY_WINDOW (R322, R328): budgets of the new window from the power the base dies and stacks drew in the last one, given in
nJ per window; pending CLKMODE words take effect, and clocks rise to their caps again. The division rounds down (DESIGN CHOICE,
log 21) (DESIGN CHOICE, log 80). -/
def execEnergyWindow (basePower : Nat) (s : State) : Host.Outcome State Fault Refusal :=
  .next (let s := s.putBack
    let live := ((below 8).map (Fin.ofNat 8)).filter (fun d => (s.die d).present)
    let p := 300000000 - basePower
    let n := Nat.max 1 live.length
    let f := p / (2 * n)
    let ex := fun (d : DieId) => s.demand d - f
    let sum := (live.map ex).foldl (· + ·) 0
    let s' := live.foldl (fun t d => t.modDie d (fun x =>
      { x with
        port := { x.port with budget := if sum = 0 then f else f + (p - n * f) * ex d / sum },
        ctl := { x.ctl with clkmode := x.ctl.clkNext },
        rate := clockCap x.ctl.clkNext })) s
    if s.time < s.window * 100000 then s else { s' with window := s.window + 1 })

/-- CLOCK_STEP_DOWN (R322): the die's clock falls by 50 MHz, not below 600 MHz. Whether measured power asks for it is the
outside's to say. -/
def execClockStepDown (d : DieId) (s : State) : Host.Outcome State Fault Refusal :=
  .next (s.putBack.modDie d (fun x => { x with rate := if 12 < x.rate then x.rate - 1 else x.rate }))

end Sys2Proof.Machine
end

