-- ==== Sys2Proof/Machine/Keyway.lean ====
section
/-! DEFINITION. The Keyway (R260 to R274, R285): contexts, messages, matching, landing, sends and their channels. The engine acts
for a crew taken in hand, or for none (`State.takeFor`). -/

namespace Sys2Proof.Machine

open Sys2Proof

/-! ### Descriptors (R271) -/

/-- Extent `i`; 0 counts as 1. -/
def kExtent (d : Desc) (i : Nat) : Nat := Nat.max 1 (field d (8 + 4 * i) 4)
/-- Byte stride `i`. -/
def kStride (d : Desc) (i : Nat) : Int := sInt 32 (field d (24 + 4 * i) 4)
/-- Element bytes. -/
def kEb (d : Desc) : Nat := field d 40 1
/-- SPAD. -/
def kSpad (d : Desc) : Bool := field d 41 1 / 8 % 2 == 1
/-- Bytes of the tensor. -/
def kBytes (d : Desc) : Nat := kExtent d 0 * kExtent d 1 * kExtent d 2 * kExtent d 3 * kEb d
/-- The context number. -/
def kCtx (d : Desc) : Nat := field d 42 1
/-- The status record's offset (receive). -/
def kRec (d : Desc) : Nat := field d 44 4
/-- The match value and the wildcard mask (receive). -/
def kValue (d : Desc) : Nat := field d 48 8
def kMask (d : Desc) : Nat := field d 56 8
/-- HOLD and the bin (send). -/
def kHold (d : Desc) : Bool := field d 44 2 % 2 == 1
def kBin (d : Desc) : Nat := field d 44 2 / 256 % 64
/-- Destination package and die, and the tag (send). -/
def kPkg (d : Desc) : Nat := field d 48 2
def kDie (d : Desc) : Nat := field d 50 1 % 8
def kTag (d : Desc) : Nat := field d 56 8

/-- Where element `l` of the tensor stands: dense and swizzled in scratchpad, else at the base plus G (R189, R268, R271). -/
def kElem (d : Desc) (l : Nat) : Nat :=
  let base := field d 0 8
  if kSpad d then swizzle (field d 41 1 % 8) (kEb d) (base + l * kEb d)
  else
    let i0 := l % kExtent d 0
    let i1 := l / kExtent d 0 % kExtent d 1
    let i2 := l / kExtent d 0 / kExtent d 1 % kExtent d 2
    let i3 := l / kExtent d 0 / kExtent d 1 / kExtent d 2
    wrap 64 (base + i0 * kStride d 0 + i1 * kStride d 1 + i2 * kStride d 2 + i3 * kStride d 3)

/-- A context is configured (R334). -/
def Kctx.configured (c : Kctx) : Bool := bit c.w0 63
/-- Its job key. -/
def Kctx.key (c : Kctx) : BitVec 32 := c.w0.setWidth 32
/-- Entries of its unexpected ring. -/
def Kctx.cap (c : Kctx) : Nat := 2 ^ (c.w0.toNat / 2 ^ 32 % 256)

/-- A context of a die. -/
def State.kctx (s : State) (d : DieId) (c : CtxId) : Kctx := (s.die d).key.ctxs[c]
/-- Change a context. -/
def State.modKctx (s : State) (d : DieId) (c : CtxId) (f : Kctx → Kctx) : State :=
  s.modKey d (fun k => { k with ctxs := k.ctxs.set c (f k.ctxs[c]) })

/-- Reason 2 of R271. -/
def kNonzero (send : Bool) (d : Desc) : Bool :=
  field d 41 1 / 16 != 0 || field d 43 1 != 0 ||
    (if send then field d 44 1 / 2 != 0 || field d 45 1 / 64 != 0 || field d 46 2 != 0 || field d 50 2 / 8 != 0
        || field d 52 4 != 0 || field d 61 3 != 0
     else kValue d / 2 ^ 59 != 0 || kMask d / 2 ^ 59 != 0)

/-- The reason a descriptor is refused, the lowest that applies (R271); `kprobe` looks at no tensor (R274). -/
def State.kBad (s : State) (c : Crew) (send probe : Bool) (d : Desc) : Option Nat :=
  let eb := kEb d
  let x : CtxId := Fin.ofNat 64 (kCtx d)
  if !probe && !(eb == 1 || eb == 2 || eb == 4 || eb == 8) then some 1
  else if kNonzero send d then some 2
  else if !probe && kSpad d && c.hdr.scratch < field d 0 8 + kBytes d then some 3
  else if !probe && 2 ^ 32 - 1 < kBytes d then some 4
  else if 63 < kCtx d || !(s.kctx c.die x).configured || (!send && (s.kctx c.die x).bound != some c.uid) then some 6
  else if !send && (kRec d % 16 != 0 || c.hdr.scratch < kRec d + 16) then some 7
  else if send && 0xFF00 ≤ kPkg d then some 8
  else if !probe && kSpad d && field d 0 8 % eb != 0 then some 9
  else none

/-! ### Headers, keys and matching (R260, R263) -/

/-- The 32 bytes of a message header (R263). -/
def hdrBytes (h : KHdr) : List Byte :=
  leBytes 4 h.jobkey.toNat ++ leBytes 4 (h.sdie.val * 2 ^ 16 + h.spkg.toNat) ++ leBytes 4 (h.ddie.val * 2 ^ 16 + h.dpkg.toNat)
    ++ [h.ctx, if h.pull then 1 else 0, 0, 0] ++ leBytes 8 h.tag.toNat ++ leBytes 4 h.length.toNat ++ leBytes 4 h.seq.toNat

/-- The match key of a message (R260). -/
def matchKey (h : KHdr) : Nat := (h.spkg.toNat * 2 ^ 43 ||| h.sdie.val * 2 ^ 40 ||| h.tag.toNat) % 2 ^ 59

/-- A value and a mask match a key (R260). -/
def keyMatches (value mask k : Nat) : Bool := ((k ^^^ value) &&& (2 ^ 59 - 1 - mask % 2 ^ 59)) % 2 ^ 59 == 0

/-! ### Statuses (R269) -/

/-- A record of an engine operation of a crew (R301). -/
def Crew.faultRec (c : Crew) (code sub : Nat) (pc addr : Word) : FaultRec :=
  { code := BitVec.ofNat 8 code, sub := BitVec.ofNat 8 sub, lane := 0xFF, strand := 0xFF, eng := true, remn := false,
    defer := false, pc := pc, addr := addr, grid := c.slot.val, crew := c.num }

/-- An engine operation ends its crew with a record: at once where the fault ring has room, else when the record has been written
(R193, R269, R302). -/
def State.endWith (s : State) (k : Crew) (r : FaultRec) : State :=
  if s.faultRingBusy k.die then (s.reportFault k.die r).modCtl k.die (fun c => { c with fltEnds := c.fltEnds ++ [(k.uid, r)] })
  else (s.reportFault k.die r).endCrew k.uid r

/-- An operation of a crew completes on its token or Latch (R269); BADDESC and FAULT of a latch form end the crew with a record,
BADDESC under its own code with the reason as subcode. -/
def State.opDone (s : State) (c : Nat) (d : Done) (pc addr : Word) (count sub code result : Nat) : State :=
  let s := s.putBack
  match d, s.anyCrew c with
  | .latch _, some k =>
    if result = 1 || result = 2 then
      s.endWith k (if result = 2 then k.faultRec 0x14 code pc addr else k.faultRec code sub pc addr)
    else s.signal c d (statusWord count sub code result) (-1)
  | _, _ => s.signal c d (statusWord count sub code result) (-1)

/-- Write a status record (R269) into a crew's scratchpad; for a pre-empted crew it is kept until the crew resumes (R307). -/
def State.putRecord (s : State) (c off key length sub code result : Nat) : State :=
  let b := leBytes 8 key ++ leBytes 4 length ++ [BitVec.ofNat 8 result, BitVec.ofNat 8 code, BitVec.ofNat 8 sub, 0]
  match s.anyCrew c with
  | none => s
  | some k =>
    if k.preempted then s.modCrew c (fun k => { k with kept := k.kept ++ [.record off b] })
    else (s.modCrew c (fun k => k.spWrite off b)).wakeLatches c

/-! ### Element accesses -/

/-- Take a crew in hand for the engine, or, where it is gone, no crew of the given core (R261). -/
def State.takeFor (s : State) (c : Nat) (d : DieId) (k : CoreId) : State :=
  match s.takeCrew c with
  | some t => t
  | none => { s.putBack with focused := true, focus := Strand.blank, crew := { Crew.blank with die := d, core := k } }

/-- A fresh element cursor. -/
def cursor (id : Nat) (pc : Word) : CopyOp :=
  { id := id, kind := .cpy, desc := [], descOff := 0, done := .token 0, pc := pc, begun := true, next := 0, idx := none, scales := [], txn := none,
    reply := none, home := none, want := none, fill := none, mcast := none, leaf := none, stopped := none }

/-- Write the bytes of one element, possibly fewer than its size (R268), for the engine. -/
def State.engineBytes (s : State) (o : CopyOp) (size va : Nat) (bs : List Byte) : State × CopyOp × ERes :=
  match o.leaf with
  | some l => keepLeaf l (s.engineWrite o l va bs)
  | none => match s.checkElem s.crew.die s.crew.core .store size va with
    | (s, .bad c sub) => (s, o, .bad c sub)
    | (s, .hold _) => (s, o, .wait)
    | (s, .ok l) => keepLeaf l (s.engineWrite o l va bs)

/-! ### Sends (R264, R265, R273) -/

/-- Put a send back. -/
def State.putSend (s : State) (d : DieId) (x : KSend) : State :=
  s.modKey d (fun k => { k with sends := k.sends.map (fun y => if y.send.id == x.send.id then x else y) })
/-- Remove a send. -/
def State.dropSend (s : State) (d : DieId) (id : Nat) : State :=
  s.modKey d (fun k => { k with sends := k.sends.filter (fun y => y.send.id != id) })
/-- A send of a die. -/
def State.sendOf (s : State) (d : DieId) (id : Nat) : Option KSend := (s.die d).key.sends.find? (fun y => y.send.id == id)

/-- The context of a send. -/
def Send.ctx (x : Send) : CtxId := Fin.ofNat 64 (kCtx x.desc)
/-- The channel of a send in its context: destination package and die (R265). -/
def Send.chan (x : Send) : Nat × Nat := (kPkg x.desc, kDie x.desc)

/-- A send completes and leaves the Keyway (R273) (DEDUCED, log 59). -/
def State.endSend (s : State) (d : DieId) (x : Send) (count sub code result : Nat) (addr : Word) : State :=
  (s.dropSend d x.id).opDone x.crew x.done x.pc addr count sub code result

/-- Read source bytes up to `n`, element by element (R268, R273). -/
def State.readSource (s : State) (x : KSend) (n : Nat) : Nat → State × KSend × ERes × Nat
  | 0 => (s, x, if n ≤ x.payload.length then .val 0 else .wait, 0)
  | f + 1 =>
    let d := x.send.desc
    let eb := kEb d
    let a := kElem d x.cur.next
    if n ≤ x.payload.length then (s, x, .val 0, a)
    else
      let more := fun (x : KSend) (v : Nat) =>
        { x with payload := (x.payload ++ leBytes eb v).take n, cur := { x.cur with next := x.cur.next + 1 } }
      if kSpad d then s.readSource (more x (s.crew.spRead a eb)) n f
      else match s.engineGet x.cur eb a with
        | (s, o, .val v) => s.readSource (more { x with cur := o } v) n f
        | (s, o, r) => (s, { x with cur := o }, r, a)

/-- The port that a Keyway packet of a key takes: one whose table has the key, else the lowest that is up, which drops and counts it
(R277) (DESIGN CHOICE, log 8). -/
def State.keyPort (s : State) (key : BitVec 32) : Option PortId :=
  (s.outPort key).orElse (fun _ => ((below 64).map (Fin.ofNat 64)).find? (fun p => s.ports[p].width != 0))

/-- Send a stamped message, inside the package over its network, else as a packet under the job key (R273, R276, R277). -/
def State.transmit (s : State) (d : DieId) (x : KSend) (h : KHdr) : State :=
  let m : KMsg := { die := h.ddie, via := none, hdr := h, send := x.send.id, payload := if h.pull then [] else x.payload }
  if h.dpkg = s.pkgId then s.sendTo (.die h.ddie) (.key m)
  else match s.keyPort h.jobkey with
    | none => s
    | some p => s.emit p
      { key := h.jobkey, dpkg := h.dpkg, ddie := h.ddie, kind := 6, spkg := s.pkgId, sdie := d, status := 0,
        nbytes := BitVec.ofNat 16 m.payload.length, txn := BitVec.ofNat 16 x.send.id, addr := 0, frag := 0, khdr := some h,
        atom := none, payload := m.payload }

/-- The number of a channel end. -/
def numberOf (c : Nat × Nat) (l : List ((Nat × Nat) × BitVec 32)) : BitVec 32 := (assoc c l).getD 0

/-- Stamp a send whose turn it is with the next number of its channel and send it (R265). -/
def State.stamp (s : State) (d : DieId) (x : KSend) : State :=
  let k := s.kctx d x.send.ctx
  let n := numberOf x.send.chan k.sendSeq
  let h : KHdr :=
    { jobkey := k.key, spkg := s.pkgId, sdie := d, dpkg := BitVec.ofNat 16 (kPkg x.send.desc), ddie := Fin.ofNat 8 (kDie x.send.desc),
      ctx := BitVec.ofNat 8 (kCtx x.send.desc), pull := decide (4096 < x.send.length), tag := BitVec.ofNat 40 (kTag x.send.desc),
      length := BitVec.ofNat 32 x.send.length, seq := n }
  let s := s.modKctx d x.send.ctx (fun k => { k with sendSeq := assocPut x.send.chan (n + 1) k.sendSeq })
  let y := { x with hdr := some h, stage := 1, at_ := s.time, delay := 1000 }
  (s.putSend d y).transmit d y h

/-- Chunks of pull data, 4,096 bytes each with its offset (R276). -/
def chunks (bs : List Byte) (off : Nat) : Nat → List (Nat × List Byte)
  | 0 => []
  | n + 1 => if bs.isEmpty then [] else (off, bs.take 4096) :: chunks (bs.drop 4096) (off + 4096) n

/-- Send pull data to the die that asked for it (R264, R276). -/
def State.sendPull (s : State) (d : DieId) (r : PullReq) (off : Nat) (bs : List Byte) (fail : Option (Byte × Byte)) : State :=
  match r.via with
  | none => s.sendTo (.die r.hdr.ddie) (.pullData { die := r.hdr.ddie, via := none, key := r.hdr.jobkey, txn := r.txn, off := off, bytes := bs, fail := fail })
  | some p => s.emit p
    { key := r.hdr.jobkey, dpkg := r.hdr.dpkg, ddie := r.hdr.ddie, kind := 10, spkg := s.pkgId, sdie := d,
      status := match fail with
        | some _ => 1
        | none => 0,
      nbytes := BitVec.ofNat 16 bs.length, txn := BitVec.ofNat 16 r.txn,
      addr := match fail with
        | some f => BitVec.ofNat 64 (f.1.toNat * 256 + f.2.toNat)
        | none => 0,
      frag := BitVec.ofNat 32 off, khdr := some r.hdr, atom := none, payload := bs }

/-- Answer a pull with what has been read, and complete the send (R264, R273). -/
def State.answerPull (s : State) (d : DieId) (x : KSend) (r : PullReq) (fail : Option (Byte × Byte)) (addr : Word) : State :=
  let cs := chunks x.payload 0 (x.payload.length / 4096 + 1)
  let s := cs.foldl (fun s c => s.sendPull d r c.1 c.2 none) s
  match fail with
  | none => s.endSend d x.send 0 0 0 0 0
  | some f => (s.sendPull d r x.payload.length [] fail).endSend d x.send x.cur.next f.2.toNat f.1.toNat 1 addr

/-- Another send of the channel, handed over before, has not been stamped yet: the numbers follow the order of handing over
(R265). -/
def State.behind (s : State) (d : DieId) (x : KSend) : Bool :=
  ((s.die d).key.sends.takeWhile (fun y => y.send.id != x.send.id)).any
    (fun y => y.stage == 0 && y.send.ctx == x.send.ctx && y.send.chan == x.send.chan)

/-- Move one send on: read its source where that is due, stamp it when its turn comes, or answer its pull. The scratchpad of a crew that
has been pre-empted meanwhile is read all the same (R306) (DESIGN CHOICE, log 114). -/
def State.pumpSend (s : State) (d : DieId) (id : Nat) : State :=
  match s.sendOf d id with
  | none => s
  | some x =>
    if x.stage = 0 then
      if s.behind d x then s
      else if 4096 < x.send.length then s.stamp d x
      else match (s.takeFor x.send.crew d 0).readSource x x.send.length (x.send.length / Nat.max 1 (kEb x.send.desc) + 2) with
        | (s, x, .val _, _) => (s.putBack.putSend d x).stamp d x
        | (s, x, .wait, _) => s.putBack.putSend d x
        | (s, x, .bad c sub, a) => s.putBack.endSend d x.send x.cur.next sub c 1 (BitVec.ofNat 64 a)
    else match (if x.stage = 4 then x.pull else none) with
      | none => s
      | some r => match (s.takeFor x.send.crew d 0).readSource x r.len (r.len / Nat.max 1 (kEb x.send.desc) + 2) with
        | (s, x, .val _, _) => s.putBack.answerPull d x r none 0
        | (s, x, .wait, _) => s.putBack.putSend d x
        | (s, x, .bad c sub, a) => s.putBack.answerPull d x r (some (BitVec.ofNat 8 c, BitVec.ofNat 8 sub)) (BitVec.ofNat 64 a)

/-! ### Landing (R264, R268 to R270, R272) -/

/-- A receive of a die. -/
def State.recvOf (s : State) (d : DieId) (id : Nat) : Option Recv := (s.die d).key.recvs.find? (fun y => y.id == id)
/-- Put a receive back. -/
def State.putRecv (s : State) (d : DieId) (x : Recv) : State :=
  s.modKey d (fun k => { k with recvs := k.recvs.map (fun y => if y.id == x.id then x else y) })
/-- Remove a receive. -/
def State.dropRecv (s : State) (d : DieId) (id : Nat) : State :=
  s.modKey d (fun k => { k with recvs := k.recvs.filter (fun y => y.id != id) })

/-- A receive completes: its status record is written and its completion object signalled, unless its crew is gone (R261, R268,
R269). KEY and LENGTH of one that has no message are 0, of a FULL one too (DESIGN CHOICE, log 126). -/
def State.endRecv (s : State) (d : DieId) (x : Recv) (count sub code result : Nat) (addr : Word) : State :=
  let s := s.dropRecv d x.id
  if x.orphan then s
  else
    let kl := match x.msg with
      | some m => (matchKey m.hdr, m.hdr.length.toNat)
      | none => (0, 0)
    (s.putRecord x.crew (kRec x.desc) kl.1 kl.2 sub code result).opDone x.crew x.done x.pc addr count sub code result

/-- Bytes of a message that a receive lands (R268): of a pull whose source faulted only those that came before the fault (R273). -/
def Recv.due (x : Recv) : Nat := match x.msg with
  | some m =>
    let n := Nat.min m.hdr.length.toNat (kBytes x.desc)
    if x.fail.isSome then Nat.min n x.payload.length else n
  | none => 0

/-- Land elements whose bytes are there (R268); `addr` is where it stopped. -/
def State.landRun (s : State) (x : Recv) : Nat → State × Recv × ERes × Nat
  | 0 => (s, x, .wait, 0)
  | f + 1 =>
    let d := x.desc
    let eb := kEb d
    let n := x.due
    let i := x.cur.next
    let hi := Nat.min n ((i + 1) * eb)
    let a := kElem d i
    if n ≤ i * eb then (s, x, .val 0, a)
    else if x.payload.length < hi then (s, x, .wait, a)
    else
      let bs := (x.payload.drop (i * eb)).take (hi - i * eb)
      let nx := fun (o : CopyOp) => { x with cur := { o with next := i + 1 } }
      if kSpad d then (s.landBytes a bs).landRun (nx x.cur) f
      else match s.engineBytes x.cur eb a bs with
        | (s, o, .val _) => s.landRun (nx o) f
        | (s, o, r) => (s, { x with cur := o }, r, a)

/-- The crew of a receive is pre-empted and the receive lands in its scratchpad: it waits for the resumption (R307). -/
def State.recvKept (s : State) (x : Recv) : Bool := kSpad x.desc && match s.anyCrew x.crew with
  | some k => k.preempted
  | none => false

/-- Move one landing on. -/
def State.pumpRecv (s : State) (d : DieId) (id : Nat) : State :=
  match s.recvOf d id with
  | none => s
  | some x => match x.msg with
    | none => s
    | some m =>
      if s.recvKept x then s
      else match (s.takeFor x.crew d x.core).landRun x (x.due / Nat.max 1 (kEb x.desc) + 2) with
        | (s, x, .val _, _) => match x.fail with
          | some f =>
            let n := x.payload.length / Nat.max 1 (kEb x.desc)
            s.putBack.endRecv d x n f.2.toNat f.1.toNat 1 (BitVec.ofNat 64 (kElem x.desc n))
          | none => s.putBack.endRecv d x 0 0 0 (if kBytes x.desc < m.hdr.length.toNat then 6 else 0) 0
        | (s, x, .bad c sub, a) => s.putBack.endRecv d x x.cur.next sub c 1 (BitVec.ofNat 64 a)
        | (s, x, .wait, _) => s.putBack.putRecv d x

/-- Everything in the Keyway of a die that can move moves. -/
def State.pumpKeyway (s : State) (d : DieId) : State :=
  let s := ((s.die d).key.sends.map (fun x => x.send.id)).foldl (fun s id => s.pumpSend d id) s
  ((s.die d).key.recvs.map (fun x => x.id)).foldl (fun s id => s.pumpRecv d id) s

/-- Ask the sender for the bytes a matched receive will land (R264, R276). -/
def State.askPull (s : State) (d : DieId) (x : Recv) (m : KMsg) : State :=
  let n := s.fresh % 65536
  let s := ({ s with fresh := s.fresh + 1 } : State).putRecv d { x with txn := some n }
  match m.via with
  | none => s.sendTo (.die m.hdr.sdie) (.pullReq { die := m.hdr.sdie, via := none, hdr := m.hdr, send := m.send, txn := n, len := x.due })
  | some p => s.emit p
    { key := m.hdr.jobkey, dpkg := m.hdr.spkg, ddie := m.hdr.sdie, kind := 8, spkg := s.pkgId, sdie := d, status := 0, nbytes := 0,
      txn := BitVec.ofNat 16 n, addr := BitVec.ofNat 64 x.due, frag := 0, khdr := some m.hdr, atom := none, payload := [] }

/-- A receive takes a message: it lands it, or asks for its payload (R264, R268). -/
def State.takeMsg (s : State) (d : DieId) (x : Recv) (m : KMsg) : State :=
  let x := { x with msg := some m, payload := m.payload, ring := none }
  let s := s.putRecv d x
  if m.hdr.pull then s.askPull d x m else s.pumpRecv d x.id

/-! ### The unexpected ring (R267) -/

/-- Indices of a context's ring in use (DESIGN CHOICE, log 57). -/
def State.ringUsed (s : State) (d : DieId) (c : CtxId) : List Nat :=
  (s.kctx d c).unexp.map (fun e => e.idx) ++ ((s.die d).key.recvs.filter (fun x => x.ctx == c)).filterMap (fun x => x.ring)

/-- A free entry of a context's ring. -/
def State.ringFree (s : State) (d : DieId) (c : CtxId) : Option Nat :=
  let used := s.ringUsed d c
  (below (Nat.min (s.kctx d c).cap (used.length + 1))).find? (fun i => !used.contains i)

/-- Write an entry of a ring (R267). -/
def State.writeEntry (s : State) (d : DieId) (c : CtxId) (i : Nat) (m : KMsg) : State :=
  s.devWrite d ((s.kctx d c).ring.toNat + 4160 * i)
    (hdrBytes m.hdr ++ leBytes 4 (if m.hdr.pull then 2 else 1) ++ List.replicate 28 0 ++ (if m.hdr.pull then [] else m.payload))

/-- Free an entry of a ring (R267). -/
def State.freeEntry (s : State) (d : DieId) (c : CtxId) (i : Nat) : State :=
  s.devWrite d ((s.kctx d c).ring.toNat + 4160 * i + 32) (leBytes 4 0)

/-- The earliest-accepted entry that a value and mask match (R260, R266). -/
def Kctx.find (k : Kctx) (value mask : Nat) : Option KStored := k.unexp.find? (fun e => keyMatches value mask (matchKey e.msg.hdr))

/-! ### Issue (R262, R271 to R274) -/

/-- kctx (R262). -/
def execKctx (e : Bool) (rd ra : SReg) (s : State) : Host.Outcome State Fault Refusal :=
  .next (s.gate [ra] [rd] [] (fun s =>
    let c := (s.rdS ra).toNat
    if 63 < c then s.illegal 4
    else
      let d := s.crew.die
      let x : CtxId := Fin.ofNat 64 c
      let k := s.kctx d x
      if !k.configured || (k.bound != none && k.bound != some s.crew.uid) then (s.wrS rd 0).finish e
      else ((s.modKctx d x (fun k => { k with bound := some s.crew.uid })).wrS rd 1).finish e))

/-- The front of an operation with a descriptor: registers, the offsets of R271, and the completion object (R182, R184). -/
def State.keyIssue (s : State) (ra : SReg) (lt : Option SReg) (rd : SReg) (k : State → Desc → State) : State :=
  let go := fun (s : State) => s.descGate (s.rdS ra) (fun s =>
    let b := s.crew.spBytes (s.rdS ra).toNat 64
    match lt with
    | some rl => s.latchGate (s.rdS rl) (fun s => k s b)
    | none => k s b)
  match lt with
  | some rl => s.gate [ra, rl] [] [] go
  | none => s.gate [ra] [rd] [] go

/-- Mark the token register busy where the operation has one; answers the operation's name and its completion object. -/
def State.keyName (s : State) (lt : Option SReg) (rd : SReg) : Nat × Done × State :=
  let r := s.markBusy (if lt.isSome then 0 else rd)
  (r.1, match lt with
    | some rl => .latch (s.rdS rl).toNat
    | none => .token r.1, r.2)

/-- A receive is cancelled (R261, R269, R274). -/
def State.cancelRecv (s : State) (d : DieId) (r : Recv) : State :=
  (s.modKctx d r.ctx (fun k => { k with posted := k.posted.filter (fun i => i != r.id) })).endRecv d r 0 0 0 7 0

/-- The earliest-posted receive of a context with a status record offset; one that has been matched is posted no more (R274). -/
def State.postedAt (s : State) (d : DieId) (x : CtxId) (off : Nat) : Option Recv :=
  (s.kctx d x).posted.findSome? (fun i => match s.recvOf d i with
    | some r => if kRec r.desc == off then some r else none
    | none => none)

/-- The matching event of a `kprobe` or `kcancel` (R266, R274): a `kprobe` tells of the earliest-accepted entry that matches and takes
nothing; a `kcancel` cancels the receive it finds; the register marked busy takes 1, or 0 where nothing is found. -/
def State.performAsk (s : State) (d : DieId) (a : KAsk) : State :=
  let s := s.modKey d (fun k => { k with asks := k.asks.filter (fun y => y.id != a.id) })
  let tell := fun (s : State) (v : Word) => s.signal a.crew (.token a.id) v (-1)
  let x : CtxId := Fin.ofNat 64 a.ctx
  match a.probe with
  | some q => match (s.kctx d x).find q.1 q.2 with
    | none => tell s 0
    | some m => tell (s.putRecord a.crew a.off (matchKey m.msg.hdr) m.msg.hdr.length.toNat 0 0 0) 1
  | none =>
    if 63 < a.ctx || (s.kctx d x).bound != some a.crew then tell s 0
    else match s.postedAt d x a.off with
      | none => tell s 0
      | some r => tell (s.cancelRecv d r) 1

/-- The matching events of the waiting `kprobe` and `kcancel` of a die that `p` names, in the order of their issue. -/
def State.performAsks (s : State) (d : DieId) (p : KAsk → Bool) : State :=
  ((s.die d).key.asks.filter p).foldl (fun s a => s.performAsk d a) s

/-- The oldest waiting `kprobe` or `kcancel` of a die has its matching event (DESIGN CHOICE, log 47), and the sends and landings that can go on
do. -/
def State.keywayTurn (s : State) (d : DieId) : State :=
  let s := s.putBack
  match (s.die d).key.asks with
  | [] => s.pumpKeyway d
  | a :: _ => (s.performAsk d a).pumpKeyway d

/-- Hand a `kprobe` or `kcancel` to the Keyway. -/
def State.handAsk (s : State) (d : DieId) (a : KAsk) : State := s.modKey d (fun k => { k with asks := k.asks ++ [a] })

/-- A receive posted or tried (R272), after the `kprobe` and `kcancel` of its context that were issued before it (R266); what the strand did before happens before its landing (R249; log 28) (DEDUCED, log 58). -/
def State.receive (s : State) (e : Bool) (ra : SReg) (lt : Option SReg) (rd : SReg) (pull : Bool) : State :=
  s.keyIssue ra lt rd (fun s b => s.releaseGate 1 (fun s =>
    let c := s.crew
    let d := c.die
    let off := s.rdS ra
    let pc := s.focus.unitPc
    let (op, done, s) := s.keyName lt rd
    let bad := s.kBad c false false b
    let s := (s.finish e).putBack
    match bad with
    | some why => s.opDone c.uid done pc off 0 0 why 2
    | none =>
      let x : CtxId := Fin.ofNat 64 (kCtx b)
      let r : Recv :=
        { id := op, crew := c.uid, ctx := x, core := c.core, pull := pull, desc := b, descOff := off, done := done, pc := pc,
          cur := cursor op pc, msg := none, payload := [], early := [], txn := none, fail := none, ring := none, orphan := false }
      let s := (s.performAsks d (fun a => a.ctx == kCtx b)).modKey d (fun k => { k with recvs := k.recvs ++ [r] })
      match (s.kctx d x).find (kValue b) (kMask b) with
      | some m =>
        let s := s.modKctx d x (fun k => { k with unexp := k.unexp.filter (fun y => y.idx != m.idx) })
        (s.freeEntry d x m.idx).takeMsg d r m.msg
      | none =>
        if pull then s.endRecv d r 0 0 0 8 0
        else if 4096 ≤ (s.kctx d x).posted.length then s.endRecv d r 0 0 0 3 0
        else s.modKctx d x (fun k => { k with posted := k.posted ++ [op] })))

/-- kpost, token form (R272). -/
def execKpost (e : Bool) (rd ra : SReg) (s : State) : Host.Outcome State Fault Refusal := .next (s.receive e ra none rd false)
/-- kpost, latch form (R272). -/
def execKpostLt (e : Bool) (ra rb : SReg) (s : State) : Host.Outcome State Fault Refusal := .next (s.receive e ra (some rb) 0 false)
/-- kpull, token form (R272). -/
def execKpull (e : Bool) (rd ra : SReg) (s : State) : Host.Outcome State Fault Refusal := .next (s.receive e ra none rd true)
/-- kpull, latch form (R272). -/
def execKpullLt (e : Bool) (ra rb : SReg) (s : State) : Host.Outcome State Fault Refusal := .next (s.receive e ra (some rb) 0 true)

/-- Hand a send to the Keyway (R259, R265, R273): on a broken channel it completes at once with the channel's FAULT. -/
def State.startSend (s : State) (d : DieId) (x : Send) : State :=
  match assoc x.chan (s.kctx d x.ctx).broken with
  | some sub => s.opDone x.crew x.done x.pc 0 0 sub 0x08 1
  | none =>
    let k : KSend := { send := x, hdr := none, payload := [], stage := 0, at_ := s.time, delay := 1000, cur := cursor x.id x.pc,
                       pull := none }
    (s.modKey d (fun y => { y with sends := y.sends ++ [k] })).pumpSend d x.id

/-- A send (R259, R273): a release at sys scope, held in the binning engine with HOLD = 1, else handed over at once. -/
def State.sendIssue (s : State) (e : Bool) (ra : SReg) (lt : Option SReg) (rd : SReg) : State :=
  s.keyIssue ra lt rd (fun s b => s.releaseGate 5 (fun s =>
    let c := s.crew
    let off := s.rdS ra
    let pc := s.focus.unitPc
    let (op, done, s) := s.keyName lt rd
    let x : Send := { id := op, crew := c.uid, desc := b, done := done, length := kBytes b, pc := pc }
    let s := (s.finish e).putBack
    match s.kBad c true false b with
    | some why => s.opDone c.uid done pc off 0 0 why 2
    | none =>
      if kHold b then s.modCrew c.uid (fun k => { k with bin := { k.bin with queue := k.bin.queue ++ [.hold x] } })
      else s.startSend c.die x))

/-- ksend, token form (R273). -/
def execKsend (e : Bool) (rd ra : SReg) (s : State) : Host.Outcome State Fault Refusal := .next (s.sendIssue e ra none rd)
/-- ksend, latch form (R273). -/
def execKsendLt (e : Bool) (ra rb : SReg) (s : State) : Host.Outcome State Fault Refusal := .next (s.sendIssue e ra (some rb) 0)

/-- kprobe (R274): its descriptor is checked, and its question handed to the Keyway. -/
def execKprobe (e : Bool) (rd ra : SReg) (s : State) : Host.Outcome State Fault Refusal :=
  .next (s.keyIssue ra none rd (fun s b =>
    let c := s.crew
    let off := s.rdS ra
    let pc := s.focus.unitPc
    let (op, done, s) := s.keyName none rd
    match s.kBad c false true b with
    | some why => (s.finish e).putBack.opDone c.uid done pc off 0 0 why 2
    | none => (s.finish e).handAsk c.die { id := op, crew := c.uid, ctx := kCtx b, off := kRec b, probe := some (kValue b, kMask b) }))

/-- kcancel (R274). -/
def execKcancel (e : Bool) (rd ra rb : SReg) (s : State) : Host.Outcome State Fault Refusal :=
  .next (s.gate [ra, rb] [rd] [] (fun s =>
    let c := s.crew
    let ctx := (s.rdS ra).toNat
    let off := (s.rdS rb).toNat
    let (op, _, s) := s.keyName none rd
    (s.finish e).handAsk c.die { id := op, crew := c.uid, ctx := ctx, off := off, probe := none }))

/-! ### Events -/

/-- A message that has not been delivered 10 µs after it was sent never arrives: the link layer gives it up (R214, R216). -/
def State.late (s : State) (f : Flight) : Bool := f.sent + 10000 ≤ s.time

/-- Take a message out of the package network, the oldest equal one. -/
def State.arrive_ (s : State) (dst : Holder) (m : Msg) : Option State :=
  let hit := fun (f : Flight) => f.dst == dst && f.msg == m && !s.late f
  if s.net.any hit then some { s with net := s.net.eraseP hit } else none

/-- A packet of a key arrives at a port: it is up and its table has the key, else the packet is dropped and counted (R277). -/
def State.portTakes (s : State) (p : PortId) (key : BitVec 32) : State × Bool :=
  if s.ports[p].width = 0 then (s, false)
  else if s.ports[p].member key then (s, true)
  else ({ s with ports := s.ports.set p { s.ports[p] with drop := s.ports[p].drop + 1 } }, false)

/-- Answer a message: ACK (0), NACK (1) or REJECT (2) (R265, R276) (DEDUCED, log 56). -/
def State.keyReply (s : State) (m : KMsg) (what : Nat) : State :=
  match m.via with
  | none => s.sendTo (.die m.hdr.sdie) (.keyRep m.hdr.sdie m.send what)
  | some p => s.emit p
    { key := m.hdr.jobkey, dpkg := m.hdr.spkg, ddie := m.hdr.sdie, kind := 7, spkg := s.pkgId, sdie := m.die,
      status := BitVec.ofNat 8 what, nbytes := 0, txn := BitVec.ofNat 16 m.send, addr := 0, frag := 0, khdr := none, atom := none,
      payload := [] }

/-- The earliest-posted receive of a context that a message matches (R266). -/
def State.matchRecv (s : State) (d : DieId) (c : CtxId) (h : KHdr) : Option Recv :=
  (s.kctx d c).posted.findSome? (fun i => match s.recvOf d i with
    | some r => if keyMatches (kValue r.desc) (kMask r.desc) (matchKey h) then some r else none
    | none => none)

/-- What a context does with a message that has arrived (R265, R307). -/
def State.accept (s : State) (m : KMsg) : State :=
  let d := m.die
  let c : CtxId := Fin.ofNat 64 m.hdr.ctx.toNat
  let k := s.kctx d c
  let ch := (m.hdr.spkg.toNat, m.hdr.sdie.val)
  let bump := fun (s : State) => (s.modKctx d c (fun k => { k with expect := assocPut ch (m.hdr.seq + 1) k.expect })).keyReply m 0
  let unpost := fun (s : State) (r : Recv) => s.modKctx d c (fun k => { k with posted := k.posted.filter (fun i => i != r.id) })
  if 63 < m.hdr.ctx.toNat || !k.configured || k.key != m.hdr.jobkey then s.keyReply m 2
  else if m.hdr.seq != numberOf ch k.expect then s.keyReply m 1
  else match s.matchRecv d c m.hdr, s.ringFree d c with
    | some r, free =>
      if s.recvKept r then match free with
        | none => s.keyReply m 1
        | some i => ((unpost (bump s) r).putRecv d { r with msg := some m, payload := m.payload, ring := some i }).writeEntry d c i m
      else (unpost (bump s) r).takeMsg d r m
    | none, some i =>
      ((bump s).modKctx d c (fun k => { k with unexp := k.unexp ++ [{ msg := m, idx := i }] })).writeEntry d c i m
    | none, none => s.keyReply m 1

/-- KEYWAY_MESSAGE (R265, R277): a message arrives at a die, over the package network or through a port. One that the package network
brings to an absent die is lost, so that its send ends by its timeout; a port REJECTs it (DESIGN CHOICE, log 102). -/
def execKeywayMessage (m : KMsg) (s : State) : Host.Outcome State Fault Refusal :=
  .next (let s := s.putBack
    match m.via with
    | none => match s.arrive_ (.die m.die) (.key m) with
      | some s => if (s.die m.die).present then s.accept m else s
      | none => s
    | some p => match s.portTakes p m.hdr.jobkey with
      | (s, true) => s.accept m
      | (s, false) => s)

/-- A send's answer has come, over the package network, or as a packet with its key through a port, whose table may drop it (R277). One that
no send awaits has no other effect. -/
def State.answered (s : State) (d : DieId) (a : KReply) (what : Nat) (k : State → KSend → State) : State :=
  let s := s.putBack
  let go := fun (s : State) => match s.sendOf d a.send with
    | none => s
    | some x => match x.hdr with
      | none => s
      | some h => if x.stage = 1 && (h.dpkg == s.pkgId) == a.via.isNone && a.via.all (fun v => v.2 == h.jobkey) then k s x else s
  match a.via with
  | none => match s.arrive_ (.die d) (.keyRep d a.send what) with
    | some s => go s
    | none => s
  | some (p, key) => match s.portTakes p key with
    | (s, true) => go s
    | (s, false) => s

/-- KEYWAY_ACK (R273): an eager send is locally complete; one to be pulled waits for the pull. -/
def execKeywayAck (d : DieId) (send : KReply) (s : State) : Host.Outcome State Fault Refusal :=
  .next (s.answered d send 0 (fun s x =>
    if 4096 < x.send.length then s.putSend d { x with stage := 3 } else s.endSend d x.send 0 0 0 0 0))

/-- KEYWAY_NACK (R265): the send is tried again after its backoff, which doubles up to 64 µs. -/
def execKeywayNack (d : DieId) (send : KReply) (s : State) : Host.Outcome State Fault Refusal :=
  .next (s.answered d send 1 (fun s x =>
    s.putSend d { x with stage := 2, at_ := s.time + x.delay, delay := Nat.min 64000 (2 * x.delay) }))

/-- A send breaks its channel: it and every other send of the channel that is not accepted complete with FABKEY (R265, R273). -/
def State.breakChannel (s : State) (d : DieId) (x : KSend) (sub : Nat) : State :=
  let s := s.modKctx d x.send.ctx (fun k => { k with broken := assocPut x.send.chan sub k.broken })
  let out := (s.die d).key.sends.filter (fun y => y.send.ctx == x.send.ctx && y.send.chan == x.send.chan && y.stage < 3)
  out.foldl (fun s y => s.endSend d y.send 0 sub 0x08 1 0) s

/-- KEYWAY_REJECT (R265, R273): FABKEY subcode 3. -/
def execKeywayReject (d : DieId) (send : KReply) (s : State) : Host.Outcome State Fault Refusal :=
  .next (s.answered d send 2 (fun s x => s.breakChannel d x 3))

/-- KEYWAY_RETRY (R265): the backoff of a NACKed send is over, and the message is sent again. -/
def execKeywayRetry (d : DieId) (send : Nat) (s : State) : Host.Outcome State Fault Refusal :=
  .next (let s := s.putBack
    match s.sendOf d send with
    | none => s
    | some x => match x.hdr with
      | none => s
      | some h =>
        if x.stage = 2 && x.at_ ≤ s.time then
          let y := { x with stage := 1, at_ := s.time }
          (s.putSend d y).transmit d y h
        else s)

/-- KEYWAY_ACK_TIMEOUT (R273): no answer within 1 ms of an attempt is FABKEY subcode 2. -/
def execKeywayAckTimeout (d : DieId) (send : Nat) (s : State) : Host.Outcome State Fault Refusal :=
  .next (let s := s.putBack
    match s.sendOf d send with
    | none => s
    | some x => if x.stage = 1 && x.at_ + 1000000 ≤ s.time then s.breakChannel d x 2 else s)

/-- PULL_REQUEST (R264): the sender of an accepted header-only message reads the bytes asked for and sends them. -/
def execPullRequest (m : PullReq) (s : State) : Host.Outcome State Fault Refusal :=
  .next (let s := s.putBack
    let go := fun (s : State) => match s.sendOf m.die m.send with
      | none => s
      | some x =>
        if x.stage = 3 || (x.stage = 1 && x.hdr == some m.hdr) then
          (s.putSend m.die { x with stage := 4, pull := some m, payload := [], cur := cursor x.send.id x.send.pc }).pumpSend m.die m.send
        else s
    match m.via with
    | none => match s.arrive_ (.die m.die) (.pullReq m) with
      | some s => go s
      | none => s
    | some p => match s.portTakes p m.hdr.jobkey with
      | (s, true) => go s
      | (s, false) => s)

/-- Join the parts of a payload that have come early to the part that is there, each at its offset. -/
def Recv.join (x : Recv) : Nat → Recv
  | 0 => x
  | n + 1 => match x.early.find? (fun e => e.1 == x.payload.length) with
    | none => x
    | some e => Recv.join { x with payload := x.payload ++ e.2.1, fail := e.2.2, early := x.early.filter (fun y => y != e) } n

/-- PULL_DATA (R264, R268, R273, R276): a part of the payload of a pull arrives and lands, in the order of the offsets; what comes
early waits for what is before it. -/
def execPullData (m : PullData) (s : State) : Host.Outcome State Fault Refusal :=
  .next (let s := s.putBack
    let go := fun (s : State) => match (s.die m.die).key.recvs.find? (fun x => x.txn == some m.txn) with
      | none => s
      | some x =>
        if m.off < x.payload.length || x.msg.any (fun g => g.hdr.jobkey != m.key) then s
        else
          let y : Recv := { x with early := x.early ++ [(m.off, m.bytes, m.fail)] }
          (s.putRecv m.die (y.join y.early.length)).pumpRecv m.die x.id
    match m.via with
    | none => match s.arrive_ (.die m.die) (.pullData m) with
      | some s => go s
      | none => s
    | some p => match s.portTakes p m.key with
      | (s, true) => go s
      | (s, false) => s)

end Sys2Proof.Machine
end

