-- ==== Sys2Proof/Machine/Binning.lean ====
section
/-! DEFINITION. The binning engine (R258, R259, R275): its operations queue in the crew's issue order, HOLD sends in their place
among them, and BINNING_COMPLETE performs the oldest. What the strand did before happens before the operation (R249; log 28). -/

namespace Sys2Proof.Machine

open Sys2Proof

/-- Queue an operation of the issuing crew. -/
def State.binPush (s : State) (o : BinOp) : State :=
  s.setCrew { s.crew with bin := { s.crew.bin with queue := s.crew.bin.queue ++ [o] } }

/-- binit (R258, R275). -/
def execBinit (e : Bool) (rd ra : SReg) (s : State) : Host.Outcome State Fault Refusal :=
  .next (s.gate [ra] [rd] [] (fun s =>
    let n := (s.rdS ra).toNat
    if n < 1 || 64 < n then s.illegal 4
    else s.releaseGate 1 (fun s =>
      let (op, s) := s.markBusy rd
      (s.binPush (.init op n)).finish e)))

/-- bcount (R258, R275): the lanes' bins are read at issue, routed by field A. -/
def execBcount (e : Bool) (rd ra : SReg) (vb : VReg) (s : State) : Host.Outcome State Fault Refusal :=
  .next (s.vgate true [(vb.toNat, false)] [ra] [rd] (fun s =>
    let a := s.rdS ra
    if a.toNat % 4 ≠ 0 then s.raise 0x03 1 a
    else if s.crew.hdr.scratch < a.toNat + 4 * s.lanes then s.raise 0x04 1 a
    else s.releaseGate 1 (fun s =>
      let (op, s) := s.markBusy rd
      (s.binPush (.count op a.toNat (s.guardLanes.map (fun i => (i, s.routed 0 false vb.toNat i % 2 ^ 32))))).finish e)))

/-- bpatch (R259, R275). -/
def execBpatch (e : Bool) (rd ra : SReg) (s : State) : Host.Outcome State Fault Refusal :=
  .next (s.gate [ra] [rd] [] (fun s => s.releaseGate 1 (fun s =>
    let (op, s) := s.markBusy rd
    (s.binPush (.patch op (s.rdS ra))).finish e)))

/-- brel (R259, R275). -/
def execBrel (e : Bool) (rd : SReg) (s : State) : Host.Outcome State Fault Refusal :=
  .next (s.gate [] [rd] [] (fun s => s.releaseGate 1 (fun s =>
    let (op, s) := s.markBusy rd
    (s.binPush (.release op)).finish e)))

/-- The lanes of a `bcount` in ascending order (R258): what each stores, and the counts after. -/
def countLanes (n : Nat) : List (Nat × Nat) → List (Nat × Nat) → List (Nat × Nat) × List (Nat × Nat)
  | [], cs => ([], cs)
  | (i, d) :: t, cs =>
    let r := if d < n then (lookD 0 d cs, setD 0 d (lookD 0 d cs + 1) cs) else (0xFFFFFFFF, cs)
    let (l, cs') := countLanes n t r.2
    ((i, r.1) :: l, cs')

/-- The length that `bpatch` gives a held send (R259). -/
def patched (b : Binning) (row : Word) (x : Send) : Send :=
  if kBin x.desc < b.n then { x with length := Nat.min (lookD 0 (kBin x.desc) b.counts * row.toNat) (kBytes x.desc) } else x

/-- Complete held sends as CANCELLED (R259, R269). -/
def State.dropHeld (s : State) (c : Nat) (xs : List Send) : State :=
  xs.foldl (fun s x => s.opDone c x.done x.pc 0 0 0 0 7) (s.modCrew c (fun k => { k with bin := { k.bin with held := [] } }))

/-- Perform an operation for a crew (R258, R259). -/
def State.binDo (s : State) (k : Crew) (o : BinOp) : State :=
  let c := k.uid
  match o with
  | .init op n =>
    let s := s.dropHeld c k.bin.held
    (s.modCrew c (fun k => { k with bin := { k.bin with n := n, counts := [] } })).signal c (.token op) 0 0
  | .count op off lanes =>
    let r := countLanes k.bin.n lanes k.bin.counts
    let s := s.modCrew c (fun k => { r.1.foldl (fun (k : Crew) x => k.spWrite (off + 4 * x.1) (leBytes 4 x.2)) k with
      bin := { k.bin with counts := r.2 } })
    (s.wakeLatches c).signal c (.token op) 0 0
  | .patch op row =>
    (s.modCrew c (fun k => { k with bin := { k.bin with held := k.bin.held.map (patched k.bin row) } })).signal c (.token op) 0 0
  | .release op =>
    let s := s.modCrew c (fun k => { k with bin := { k.bin with held := [] } })
    (k.bin.held.foldl (fun s x => s.startSend k.die x) s).signal c (.token op) 0 0
  | .hold x =>
    if 64 ≤ k.bin.held.length then s.opDone c x.done x.pc 0 0 0 0 3
    else s.modCrew c (fun k => { k with bin := { k.bin with held := k.bin.held ++ [x] } })

/-- BINNING_COMPLETE (R258, R259): the oldest operation of a crew is performed and writes its status. -/
def execBinningComplete (c : Nat) (s : State) : Host.Outcome State Fault Refusal :=
  .next (let s := s.putBack
    match s.crewOf c with
    | none => s
    | some k => match k.bin.queue with
      | [] => s
      | o :: t => (s.modCrew c (fun k => { k with bin := { k.bin with queue := t } })).binDo k o)

end Sys2Proof.Machine
end

