-- ==== Sys2Proof/Machine/Issue.lean ====
section
/-! DEFINITION. Issue slots (R326, R327), the wake events of `pause` and `waitc` (R78, R240), the rings and responses of the
service OS (R83, R85, R302, R334), returning from a fault (R113, R314), and the end and completion of a crew (R9, R77, R333). -/

namespace Sys2Proof.Machine

open Sys2Proof

/-! ### Issue slots -/

/-- A strand stands on a quarter of a core, its crew resident. -/
def State.onQuarter (s : State) (d : DieId) (c : CoreId) (q : QuarterId) (x : Strand) : Bool :=
  x.quarter == q && match s.anyCrew x.crew with
    | some k => k.die == d && k.core == c && !k.preempted
    | none => false

/-- Insert by the order of joining, before those that joined at the same moment: folded from the right this keeps the order of the
list among them (R327). -/
def insertJoin (x : Strand) : List Strand → List Strand
  | [] => [x]
  | y :: t => if y.joinSeq < x.joinSeq then y :: insertJoin x t else x :: y :: t

/-- A strand is passed over once more; at 128 it drops one class and joins its tail (R38, R327). -/
def State.passOver (s : State) (x : Strand) : State :=
  if x.passes + 1 < 128 then s.modStrand x.uid (fun y => { y with passes := y.passes + 1 })
  else if x.cls = 0 then s.modStrand x.uid (fun y => { y with passes := 0 })
  else { (s.modStrand x.uid (fun y => { y with passes := 0, cls := y.cls - 1, joinSeq := s.fresh })) with fresh := s.fresh + 1 }

/-- The crew of a strand is being pre-empted and the strand has no run in hand: it begins none (R45, R306). -/
def State.stopped (s : State) (x : Strand) : Bool := match s.anyCrew x.crew with
  | some k => x.run == 0 && s.halting k
  | none => false

/-- A strand takes an issue slot: it returns to its base class (R327), and goes on in its run, or begins one where none is in hand
(R13, R43, R326). `n` tells in which order runs begin. -/
def Strand.selected (y : Strand) (n : Nat) : Strand :=
  { y with state := .issuing, cls := y.baseCls, passes := 0, stalled := false, began := if y.run = 0 then n else y.began }

/-- SLOT_FILL (R326, R327): a free issue slot of the quarter takes the READY strand of the lowest class that joined it first; it
returns to its base class, and every other READY strand is passed over. -/
def execSlotFill (d : DieId) (core : CoreId) (qt : QuarterId) (s : State) : Host.Outcome State Fault Refusal :=
  .next (let s := s.putBack
    let xs := s.strands.filter (s.onQuarter d core qt)
    let ready := xs.filter (fun x => x.state == .ready && !s.stopped x)
    let low := ready.foldl (fun m x => Nat.min m x.cls) 4
    if 2 ≤ (xs.filter (fun x => x.state == .issuing)).length then s
    else match leastBy (fun (x : Strand) => x.joinSeq) (ready.filter (fun x => x.cls == low)) with
      | none => s
      | some x =>
        let s := { (s.modStrand x.uid (fun y => y.selected s.fresh)) with fresh := s.fresh + 1 }
        ((ready.filter (fun y => y.uid != x.uid)).foldr insertJoin []).foldl State.passOver s)

/-! ### Wake events -/

/-- The crew of a strand is pre-empted. -/
def State.away (s : State) (x : Strand) : Bool := match s.anyCrew x.crew with
  | some k => k.preempted
  | none => false

/-- PAUSE_EXPIRY (R78): the CLOCK has reached the strand's count. -/
def execPauseExpiry (u : Nat) (s : State) : Host.Outcome State Fault Refusal :=
  .next (let s := s.putBack
    match s.strandOf u with
    | none => s
    | some x => match x.state, x.park, s.crewOf x.crew with
      | .parked, some (.wait (.pause t)), some k =>
        if k.preempted || (s.die k.die).clock < t then s
        else { (s.modStrand u (fun y => y.completeParked s.fresh)) with fresh := s.fresh + 1 }
      | _, _, _ => s)

/-- A parked `waitc` looks again where `p` holds of its timeout, rereading and wake. -/
def State.waitcEvent (s : State) (u : Nat) (p : Nat → Option Nat → Bool → Bool) : State :=
  match s.take u with
  | none => s.putBack
  | some t =>
    if t.crew.preempted then t.putBack
    else match t.focus.state, t.focus.park with
      | .parked, some (.wait (.waitc dl rr _ wk _)) => if p dl rr wk then t.waitcAgain.putBack else t.putBack
      | _, _ => t.putBack

/-- WAITC_WAKE (R240): a wake event has come. -/
def execWaitcWake (u : Nat) (s : State) : Host.Outcome State Fault Refusal :=
  .next (s.waitcEvent u (fun _ _ wk => wk))

/-- WAITC_REREAD (R240): a word that is read at intervals is due. -/
def execWaitcReread (u : Nat) (s : State) : Host.Outcome State Fault Refusal :=
  .next (s.waitcEvent u (fun _ rr _ => match rr with
    | some t => t ≤ s.time
    | none => false))

/-- WAITC_TIMEOUT (R240): 10 µs have passed since issue. -/
def execWaitcTimeout (u : Nat) (s : State) : Host.Outcome State Fault Refusal :=
  .next (s.waitcEvent u (fun dl _ _ => dl ≤ s.time))

/-! ### Rings and responses -/

/-- The number of a parked `trap`. -/
def trapNumber : Instr → Nat
  | .trap n => n.toNat
  | _ => 0

/-- TRAP_RING_WRITE (R83): the oldest call record that waits goes into the ring once a record is free. -/
def execTrapRingWrite (d : DieId) (s : State) : Host.Outcome State Fault Refusal :=
  .next (let s := s.putBack
    let c := (s.die d).ctl
    match c.trapWait with
    | [] => s
    | u :: t =>
      if c.trap.full then s
      else
        let s := s.modCtl d (fun c => { c with trapWait := t })
        match s.strandOf u with
        | none => s
        | some x => match s.crewOf x.crew with
          | none => s
          | some k => s.writeCall d u (callRecord k x (trapNumber x.cur)))

/-- A crew that waited for the record of its engine operation ends (R302). -/
def State.endLate (s : State) (d : DieId) (r : FaultRec) : State :=
  match (s.die d).ctl.fltEnds.find? (fun x => x.2 == r) with
  | some x => (s.modCtl d (fun c => { c with fltEnds := c.fltEnds.filter (fun y => y != x) })).endCrew x.1 r
  | none => s

/-- FAULT_RING_WRITE (R302): the oldest fault record that waits goes into the ring once a record is free. -/
def execFaultRingWrite (d : DieId) (s : State) : Host.Outcome State Fault Refusal :=
  .next (let s := s.putBack
    let c := (s.die d).ctl
    match c.fltWait with
    | [] => s
    | r :: t =>
      if c.flt.full then s
      else
        ((s.modCtl d (fun c => { c with fltWait := t })).putFault d r).endLate d r)

/-- A head may move up to the tail, not past it (R334). -/
def Ring.headOk (r : Ring) (v : Nat) : Bool := (r.tail + 2 ^ 32 - v) % 2 ^ 32 ≤ (r.tail + 2 ^ 32 - r.head) % 2 ^ 32

/-- TRAPHEAD_WRITE (R334). -/
def execTrapheadWrite (d : DieId) (v : BitVec 32) (s : State) : Host.Outcome State Fault Refusal :=
  .next (s.putBack.modCtl d (fun c => if c.trap.headOk v.toNat then { c with trap := { c.trap with head := v.toNat } } else c))

/-- FLTHEAD_WRITE (R334). -/
def execFltheadWrite (d : DieId) (v : BitVec 32) (s : State) : Host.Outcome State Fault Refusal :=
  .next (s.putBack.modCtl d (fun c => if c.flt.headOk v.toNat then { c with flt := { c.flt with head := v.toNat } } else c))

/-- Apply a response to a strand parked in `trap` (R85): status 0 gives s1 to s4 and resumes it at the next word, any other
status ends its crew with SYSCALL, whose record goes to the fault ring (R302). -/
def State.respond (s : State) (u status : Nat) (vals : List Word) : State :=
  match s.anyStrand u with
  | none => s
  | some x =>
    if status = 0 then
      let y := (below 4).foldl (fun (y : Strand) i => y.wrS (BitVec.ofNat 6 (i + 1)) (vals.getD i 0)) x
      { (s.modStrand u (fun _ => y.completeParked s.fresh)) with fresh := s.fresh + 1 }
    else match s.anyCrew x.crew with
      | none => s
      | some k => s.endWith k
        { code := 0x11, sub := BitVec.ofNat 8 status, lane := match lanesOf k.hdr.lanes x.guard with
            | i :: _ => BitVec.ofNat 8 i
            | [] => 0xFF,
          strand := BitVec.ofNat 8 x.idx, eng := false, remn := x.isRemnant, defer := false, pc := x.unitPc, addr := 0,
          grid := k.slot.val, crew := k.num }

/-- TRAPRESP (R85, R334): the response names an outstanding record; one that names none is ignored and counted. For a
pre-empted crew it is applied when the strand resumes. -/
def execTrapresp (d : DieId) (idx status : BitVec 32) (vals : Resp4) (s : State) : Host.Outcome State Fault Refusal :=
  .next (let s := s.putBack
    let vs := [vals.v1, vals.v2, vals.v3, vals.v4]
    match (s.die d).ctl.trapOut.find? (fun x => x.1 == idx.toNat) with
    | none => s.modCtl d (fun c => { c with ignored := c.ignored + 1 })
    | some (i, u) =>
      let s := s.modCtl d (fun c => { c with trapOut := c.trapOut.filter (fun x => x.1 != i) })
      match s.strandOf u with
      | none => s
      | some x => match x.state, x.park with
        | .parked, some (.trap (some _)) =>
          if s.away x then s.modCrew x.crew (fun k => { k with kept := k.kept ++ [.response u status.toNat vs] })
          else s.respond u status.toNat vs
        | _, _ => s)

/-! ### Returning from a fault (R113, R302, R314) -/

/-- The faults of a strand that may be resumed (R303): NOTPRESENT, PROT, PEER, FABKEY subcode 1, DEBUG and MCAST_PARTIAL. -/
def FaultRec.resumable (r : FaultRec) : Bool :=
  r.code == 0x05 || r.code == 0x06 || r.code == 0x07 || (r.code == 0x08 && r.sub == 1) || r.code == 0x0D || r.code == 0x0F

/-- STRAND_RESUME (R113, R314): the service OS resumes a strand whose record it has and may resume. -/
def execStrandResume (u : Nat) (s : State) : Host.Outcome State Fault Refusal :=
  .next (let s := s.putBack
    match s.strandOf u with
    | none => s
    | some x => match x.faulted, s.crewOf x.crew with
      | some (r, _), some k =>
        if x.state != .parked || x.park != some .fault || !r.resumable || k.preempted || (s.die k.die).ctl.fltWait.contains r then s
        else { (s.modStrand u (fun y => y.resumed s.fresh)) with fresh := s.fresh + 1 }
      | _, _ => s)

/-- The special registers of a strand that a debugger may change (R314): LFAULT, with a bit for each of
the lanes `m`, FFLAGS, of which five bits are flags, PROGRESS, MCERR, STKLO. -/
def Strand.debugSr (f : Strand) (n : BitVec 6) (m v : Word) : Strand :=
  match n.toNat with
  | 14 => { f with lfault := v &&& m }
  | 15 => { f with fflags := v &&& 0x1F }
  | 16 => { f with progress := v }
  | 17 => { f with mcerr := v }
  | 21 => { f with stklo := v }
  | _ => f

/-- The service OS has the record of a strand's fault and may change the strand before it resumes it: one parked with a fault that can be
resumed (R111, R113, R299, R302, R314). -/
def Strand.openTo (x : Strand) : Bool := x.state == .parked && x.park == some .fault && x.faulted.any (fun f => f.1.resumable)

/-- A vector register that a strand holds now: below the prologue, or below the declared count once its family has the full allotment (R17,
R33). -/
def State.holdsReg (s : State) (x : Strand) (v : VReg) : Bool := (s.anyCrew x.crew).any (fun k =>
  v.toNat < (if x.full || k.hdr.fullAtOnce then k.hdr.vregs else k.hdr.vprologue))

/-- The debugger or a fault handler changes a register of a strand parked with a fault, before it is resumed (R111, R314). Bits that a
register does not have are not written (R16, R19), nor a vector register that the strand does not hold (R32, R33). -/
def State.debugPut (s : State) (u : Nat) (r : DebugReg) (v : Word) : State :=
  let s := s.putBack
  match s.strandOf u with
  | none => s
  | some x =>
    let n := match s.crewOf x.crew with
      | some k => k.hdr.lanes
      | none => 0
    let m : Word := BitVec.ofNat 64 (2 ^ n - 1)
    let waits := match s.crewOf x.crew with
      | some k => x.faulted.any (fun f => (s.die k.die).ctl.fltWait.contains f.1)
      | none => true
    if !x.openTo || waits then s
    else match r with
      | .s i => s.modStrand u (fun y => y.wrS i v)
      | .p i => s.modStrand u (fun y => y.wrP i (v &&& m))
      | .mode => s.modStrand u (fun y => { y with mode := v.setWidth 32 &&& 0x1FFF })
      | .sr i => s.modStrand u (fun y => y.debugSr i m v)
      | .pc => s.modStrand u (fun y => { y with pc := v, unitPc := v })
      | .v v_ i => if n ≤ i || !s.holdsReg x v_ then s else s.modCrew x.crew (fun k => { k with banks := put x.idx ((k.bank x.idx).setLane v_.toNat i (v.setWidth 32)) k.banks })

/-! ### The end of a crew (R9, R77, R302) -/

/-- The record the service OS ends a crew with: that of a strand parked with reason fault, else of its sequencer context. Which of
several is a DESIGN CHOICE (log 22): the strand first created. -/
def State.endingRecord (s : State) (k : Crew) : Option FaultRec :=
  match s.strands.findSome? (fun x => if x.crew == k.uid && x.park == some .fault then x.faulted.map (fun f => f.1) else none) with
  | some r => some r
  | none => if k.seq.state == .faulted then k.seq.frec else none

/-- CREW_END (R9, R302): the service OS ends a crew that a fault has stopped. -/
def execCrewEnd (c : Nat) (s : State) : Host.Outcome State Fault Refusal :=
  .next (let s := s.putBack
    match s.crewOf c with
    | none => s
    | some k => match s.endingRecord k with
      | none => s
      | some r => if (s.die k.die).ctl.fltWait.contains r then s else s.endCrew c r)

/-- The strands of a crew. -/
def State.strandsOf (s : State) (c : Nat) : List Strand := s.strands.filter (fun x => x.crew == c)

/-- Everything that R77 asks for has finished: strands, copies, binning, sends, landings into scratchpad, the tile operation, and
what is on its way for the crew's strands (DEDUCED, log 86). -/
def State.crewDone (s : State) (k : Crew) : Bool :=
  let xs := s.strandsOf k.uid
  let y := (s.die k.die).key
  !k.preempted && xs.all (fun x => x.state == .done && x.remotes.isEmpty && x.hstOut.isEmpty && x.asked.isEmpty && x.heldSt.isEmpty
      && match x.mcast with
      | some m => m.await.isEmpty
      | none => true)
    && k.seq.state == .stopped && !((s.die k.die).ctl.fltEnds.any (fun x => x.1 == k.uid)) && k.copies.isEmpty && k.bin.queue.isEmpty && !(y.sends.any (fun x => x.send.crew == k.uid))
    && !(y.recvs.any (fun x => x.crew == k.uid && !x.orphan && x.msg.isSome && kSpad x.desc))
    && match (s.core k.die k.core).array with
      | some a => a.crew != k.uid
      | none => true

/-- The record of a store whose failure no release has raised (R280, R281). -/
def State.lateStore (s : State) (k : Crew) : Option FaultRec :=
  (s.strandsOf k.uid).findSome? (fun x => match x.deferred.find? (fun y => y.store) with
    | some y => some
      { code := 0x08, sub := y.sub, lane := BitVec.ofNat 8 y.lane, strand := BitVec.ofNat 8 x.idx, eng := false,
        remn := x.isRemnant, defer := true, pc := y.pc, addr := y.va, grid := k.slot.val, crew := k.num }
    | none => none)

/-- The ending of a launch whose crews are all complete (R333). -/
def Grid.ending (g : Grid) (id : Nat) : Ending :=
  let f := leastBy (fun (x : Nat × FaultRec) => x.1) g.faults
  let kb := leastBy (fun (x : Nat × Word × Word) => x.1) g.killBy
  { id := id, queue := g.queue, tag := g.tag, status := if f.isSome then stFault else stOK, rec_ := f.map (fun x => x.2),
    kills := g.kills, firstOff := (kb.map (fun x => x.2.1)).getD 0, firstPc := (kb.map (fun x => x.2.2)).getD 0,
    counter := g.rec_.counter, grid := some g.slot }

/-- A crew's part in its launch is told (R131, R333); the last one ends the launch. -/
def State.tellGrid (s : State) (k : Crew) : State :=
  let s := s.modGrid k.die k.slot (fun g =>
    { g with complete := g.complete + 1, kills := g.kills ||| k.kills,
             killBy := if k.kills = 0 then g.killBy else g.killBy ++ [(k.num, k.firstOff, k.firstPc)],
             faults := match k.ended with
               | some r => g.faults ++ [(k.num, r)]
               | none => g.faults })
  match s.gridAt k.die k.slot with
  | none => s
  | some g =>
    if g.complete < crewCount g.hdr g.rec_ then s
    else (({ s with fresh := s.fresh + 1 } : State).modPort k.die
      (fun p => { p with grids := p.grids.filter (fun x => x.slot != k.slot) })).putEnding k.die (g.ending s.fresh)

/-- The Keyway lets a crew go (R261): its `kprobe` and `kcancel` have their matching events, receives into its scratchpad are cancelled, the others stay without it, its contexts are
unbound. -/
def State.unbindCrew (s : State) (k : Crew) : State :=
  let s := s.performAsks k.die (fun a => a.crew == k.uid)
  let mine := (s.die k.die).key.recvs.filter (fun x => x.crew == k.uid && !x.orphan)
  let s := mine.foldl (fun s x => if kSpad x.desc && x.msg.isNone then s.cancelRecv k.die x else s.putRecv k.die { x with orphan := true }) s
  s.modKey k.die (fun y => { y with ctxs := y.ctxs.map (fun c => if c.bound == some k.uid then { c with bound := none } else c) })

/-- A crew leaves its core with everything it held (R34, R77, R162). -/
def State.release (s : State) (k : Crew) : State :=
  let us := (s.strandsOf k.uid).map (fun x => x.uid)
  let s : State := { s with strands := s.strands.filter (fun x => x.crew != k.uid), crews := s.crews.filter (fun x => x.uid != k.uid) }
  let s := s.modCore k.die k.core (fun c => { c with claims := c.claims.filter (fun u => !us.contains u) })
  (s.serveCore k.die k.core).serveClaims k.die k.core

/-- CREW_COMPLETE (R77): a crew that has finished releases its resources; its posted receives into scratchpad and its held sends
are cancelled, and a store failure that nobody has raised ends it with that fault, once the fault ring has room for the record (R302). -/
def execCrewComplete (c : Nat) (s : State) : Host.Outcome State Fault Refusal :=
  .next (let s := s.putBack
    match s.crewOf c with
    | none => s
    | some k =>
      if !s.crewDone k || ((s.lateStore k).isSome && s.faultRingBusy k.die) then s
      else
        let s := match s.lateStore k with
          | some r => (s.reportFault k.die r).modCrew c (fun k => { k with ended := some (k.ended.getD r) })
          | none => s
        let s := (s.dropHeld c k.bin.held).unbindCrew k
        match s.crewOf c with
        | none => s
        | some k => (s.release k).tellGrid k)

end Sys2Proof.Machine
end

