-- ==== Sys2Proof/Machine/Tokens.lean ====
section
/-! DEFINITION. The messages of the token protocol (R199 to R224): requests, tokens, the Hasp tables and their activations,
recovery, recalls and the accesses that homes perform, and the host's CXL events. A message acts when its event takes it out of
the package network; one that its receiver may not answer yet stays there. -/

namespace Sys2Proof.Machine

open Sys2Proof

/-- A sector's data comes back to the memory of its home: host memory gets it by DirtyEvict (R207, R215, R224). -/
def State.backToMemory (s : State) (h : Home) (sec : Nat) (v : SectorData) : State :=
  let s := s.setMemSector sec 0xFFFF v
  match h with
  | .agent k => { (s.modHome h (fun q => { q with hostHeld := del sec q.hostHeld })) with hostOut := s.hostOut ++ [(k, sec, v)] }
  | .stack _ _ => s

/-- A home takes tokens (R207, R216): those under another serial are dropped; dirty data goes to memory, for host memory to the
host (DirtyEvict, R224). -/
def State.homeTake (s : State) (h : Home) (m : TokMsg) : State :=
  let line := m.sec / 8
  if m.serial != (s.home h).serial line then s
  else
    let x := (s.home h).hold m.sec
    let s := s.modHome h (fun q => q.setHold m.sec (x.1 + m.count, x.2 || m.own))
    let s := match m.own && m.dirty, m.data with
      | true, some v => s.backToMemory h m.sec v
      | _, _ => s
    match (s.home h).hasp.active with
    | some (e, l, mask) =>
      if e != 12 && l == line && mask.getLsbD (m.sec % 8) then s.homeGive h (entryHolder h e) m.sec
      else s.homeServe h m.sec
    | none => s.homeServe h m.sec

/-! ### Host agents as holders (R224) -/

/-- The sectors of a CXL line. -/
def hostSecs (line : Nat) : List Nat := (below 4).map (fun i => 4 * line + i)

/-- A host agent has what a host access needs of a sector (DEDUCED, log 63). -/
def State.hostHas (s : State) (k : LinkId) (own : Bool) (sec : Nat) : Bool :=
  let h := s.holdOf (.agent k) sec
  h.known && (if own then h.count == 16 else h.count != 0)

/-- The state of a sector by its holdings (R208). -/
def Hold.state (h : Hold) : LineState :=
  if h.count = 0 then .i
  else if h.count = 16 && h.own then (if h.dirty then .m else .e)
  else if h.own then .o else .s

/-- The rank of a state, weakest first (R224). -/
def LineState.rank : LineState → Nat
  | .i => 0
  | .s => 1
  | .o => 2
  | .e => 3
  | .m => 4

/-- The state in which a host agent presents a CXL line: the weakest of its four sectors' (R224). -/
def State.lineState (s : State) (k : LinkId) (line : Nat) : LineState :=
  (leastBy LineState.rank ((hostSecs line).map (fun sec => (s.holdOf (.agent k) sec).state))).getD .i

/-- The line is presented to the host in its state now (R224). -/
def State.present (s : State) (k : LinkId) (line : Nat) : State :=
  let rest := s.hostLines.filter (fun x => x.1 != (k, line))
  let st := s.lineState k line
  { s with hostLines := if st = .i then rest else rest ++ [((k, line), st)] }

/-- A host access has its tokens (R224): a read completes with the data, a write writes it, a snoop of host memory is answered
and its tokens go home. -/
def State.hostFinish (s : State) (a : HostAcc) : State :=
  let me : Holder := .agent a.link
  let s : State := { s with hostAccs := s.hostAccs.erase a }
  let read := (hostSecs a.line).map (fun sec => (a.link, sec, (s.holdOf me sec).data))
  match a.snp, a.data with
  | none, some v =>
    ((below 4).foldl (fun s i =>
      s.putHold me { s.holdOf me (4 * a.line + i) with dirty := true, data := (v >>> (128 * i)).setWidth 128 }) s).present a.link a.line
  | none, none => ({ s with hostOut := s.hostOut ++ read } : State).present a.link a.line
  | some inv, _ =>
    let s : State := { s with hostOut := s.hostOut ++ read }
    let h : Home := .agent a.link
    let s := (hostSecs a.line).foldl (fun s sec => s.sendAll me (.home h) sec false) s
    s.modHome h (fun q => { q with hostHeld := (hostSecs a.line).foldl (fun l sec =>
      if inv then del sec l else if (look sec l).isSome then put sec false l else l) q.hostHeld })

/-- Try a host access: what is missing is asked for; a snoop of host memory sets the link's own Hasp entry (R211, R224). -/
def State.hostTry (s : State) (a : HostAcc) : State :=
  let me : Holder := .agent a.link
  let missing := (hostSecs a.line).filter (fun sec => !s.hostHas a.link a.own sec)
  if missing.isEmpty then s.hostFinish a
  else match a.snp with
    | none => missing.foldl (fun s sec => s.request me sec a.own) s
    | some _ =>
      let h : Home := .agent a.link
      let t := (s.home h).hasp
      let e := 8 + a.link.val
      let busy := (look e t.set_).isSome || match t.active with
        | some (x, _, _) => x == e
        | none => false
      if busy then s
      else
        let s := missing.foldl (fun s sec => s.modCache me (fun c => c.putReq { s.newReq me sec true with stage := 2 })) s
        s.haspSet h e (a.line / 2) (BitVec.ofNat 8 (0xF * 2 ^ (4 * (a.line % 2))))

/-- Try every host access of a link, oldest first. -/
def State.hostAll (s : State) (k : LinkId) : State := (s.hostAccs.filter (fun a => a.link == k)).foldl State.hostTry s

/-- After tokens came to a host agent. -/
def State.agentSettle (s : State) (k : LinkId) (sec : Nat) : State :=
  let me : Holder := .agent k
  let s := match (s.cache me).reqs.find? (fun r => r.sec == sec) with
    | some r => if s.requestDone me r then s.modCache me (fun c => { c with reqs := c.reqs.filter (fun q => q.sec != sec) }) else s
    | none => s
  (s.hostAll k).pdoneIfIdle me

/-- The host must give a sector up first: BISnpInv, or BISnpData for a read (R224). -/
def State.snoop (s : State) (k : LinkId) (sec : Nat) (inv : Bool) (dst : Holder) (p : Bool) (recr : Option (BitVec 8)) : State :=
  { s with snoops := s.snoops ++ [{ link := k, sec := sec, inv := inv, dst := dst, p := p, recr := recr }] }

/-! ### Requests (R199, R200) -/

/-- A die cache keeps its tokens of a sector while its own GETX is outstanding; a host agent does not (R200). -/
def State.keeps (s : State) (who : Holder) (sec : Nat) : Bool := match who with
  | .die _ => (s.cache who).reqs.any (fun r => r.sec == sec && r.x)
  | _ => false

/-- The answer to a GETS (R199). -/
def State.answerGets (s : State) (who dst : Holder) (sec : Nat) : State :=
  let h := s.holdOf who sec
  if h.own && h.count != 0 then s.sendTokens who dst sec 1 (h.count == 1) true false else s

/-- The answer to a GETX (R199). -/
def State.answerGetx (s : State) (who dst : Holder) (sec : Nat) : State :=
  let h := s.holdOf who sec
  if h.count = 0 then s else s.sendTokens who dst sec h.count h.own h.own false

/-- Another requester's GETX tells the predictor (R210). -/
def State.predictX (s : State) (who src : Holder) (line : Nat) : State :=
  s.modCache who (fun c => if (look (line / 32) c.pred).isSome then
    { c with pred := put (line / 32) (BitVec.ofNat 13 (2 ^ holderBit src)) c.pred } else c)

/-- The home has activated another's persistent request for a sector: every token it holds or gets is for that requester (R202). -/
def HomeState.bound (q : HomeState) (sec : Nat) : Bool := match q.hasp.active with
  | some (e, line, mask) => e != 12 && line == sec / 8 && mask.getLsbD (sec % 8)
  | none => false

/-- A holder ignores a transient request for a sector: a die cache with its own GETX outstanding (R200), a home whose tokens are for the
requester of its active entry (R202). -/
def State.ignores (s : State) (who : Holder) (sec : Nat) : Bool := match who with
  | .home h => (s.home h).bound sec
  | _ => s.keeps who sec

/-- A home may take a transient request for a sector now: it ignores it, or no recovery runs, no access is queued, and the data is there
(R202, R215, R219, R224). -/
def State.homeMay (s : State) (h : Home) (x : Bool) (sec : Nat) : Bool :=
  let q := s.home h
  q.bound sec || (!q.recovering (sec / 8) && !q.queued [sec] && (!(q.hold sec).2 || s.homeReady h sec x))

/-- A transient request reaches a holder. -/
def State.requested (s : State) (to_ : Holder) (m : ReqMsg) (x : Bool) : State :=
  let s := match to_ with
    | .die _ => if x then s.predictX to_ m.src m.line else s
    | _ => s
  (secsOf m.line m.mask).foldl (fun s sec =>
    if s.ignores to_ sec then s
    else match to_ with
      | .agent k =>
        let h := s.holdOf to_ sec
        if h.count != 0 && (x || h.own) then s.snoop k sec x m.src false none else s
      | _ => if x then s.answerGetx to_ m.src sec else s.answerGets to_ m.src sec) s

/-- A transient request's event: at a home that may not answer yet the message waits, and the host is asked for its data. -/
def State.request_ (s : State) (to_ : Holder) (m : ReqMsg) (x : Bool) (msg : Msg) : State :=
  let s := s.putBack
  let secs := secsOf m.line m.mask
  let go := match s.arrive_ to_ msg with
    | some t => t.requested to_ m x
    | none => s
  match to_ with
  | .home h =>
    if secs.all (s.homeMay h x) then go
    else secs.foldl (fun s sec => if s.homeMay h x sec || !((s.home h).hold sec).2 then s else s.askHost h sec x) s
  | _ => go

/-- GETS (R199). -/
def execGets (to_ : Holder) (m : ReqMsg) (s : State) : Host.Outcome State Fault Refusal := .next (s.request_ to_ m false (.gets m))

/-- GETX (R199). -/
def execGetx (to_ : Holder) (m : ReqMsg) (s : State) : Host.Outcome State Fault Refusal := .next (s.request_ to_ m true (.getx m))

/-! ### TOK -/

/-- An epoch or serial is newer than another, modulo 256 (R212). -/
def newer (a b : BitVec 8) : Bool := a != b && (a - b).toNat < 128

/-- The newest entry of a holder's filter for a line: its serial, and when it lapses (R216). -/
def Cache.filterOf (c : Cache) (line : Nat) : Option (BitVec 8 × Nat) :=
  ((c.filter.filter (fun f => f.1 == line)).map (fun f => f.2)).foldl (fun b f => match b with
    | none => some f
    | some x => if newer x.1 f.1 then b else some f) none

/-- A holder's filter names a line with another serial (R216). With several entries for the line the newest serial is the line's (DEDUCED,
log 108). -/
def Cache.filters (c : Cache) (line : Nat) (serial : BitVec 8) : Bool := (c.filterOf line).any (fun f => f.1 != serial)

/-- Entries of a holder predictor (R210). -/
def predEntries : Nat := 4096

/-- The predictor learns where tokens came from (R210); with every entry taken, a new one replaces that of the lowest-numbered region
(DESIGN CHOICE, log 34). -/
def Cache.learn (c : Cache) (src : Holder) (sec : Nat) : Cache :=
  let p := if (look (sec / 256) c.pred).isSome then c.pred else c.pred.drop (c.pred.length + 1 - predEntries)
  { c with pred := put (sec / 256) (((look (sec / 256) p).getD 0) ||| BitVec.ofNat 13 (2 ^ holderBit src)) p }

/-- A host agent that gets tokens of a sector under another's activation sends them on, with those that it holds already once the host has
given the sector up (R202, R224). `old` is what it held before. -/
def State.agentForward (s : State) (k : LinkId) (sec old : Nat) (req : Holder) : State :=
  if s.snoops.any (fun x => x.link == k && x.sec == sec && x.inv) then s
  else if old = 0 then s.sendAll (.agent k) req sec true
  else s.snoop k sec true req true none

/-- A die cache or host agent takes tokens (R202, R207, R216): under another's activation it sends them on; those it asked for or has an
entry for it keeps, others go home. A die cache makes room for what it keeps. While its RECREATE is still on its way, a holder keeps tokens
of the new serial beside the old ones (DESIGN CHOICE, log 121). -/
def State.cacheTake (s : State) (to_ : Holder) (m : TokMsg) : State :=
  let c := s.cache to_
  let line := m.sec / 8
  if c.filters line m.serial then s
  else
    let h := s.holdOf to_ m.sec
    let entry := c.holds.any (fun x => x.sec / 8 == line)
    let mine := match c.activeFor m.sec with
      | some a => a.req == to_
      | none => false
    let asked := c.reqs.any (fun r => r.sec == m.sec) || mine
    let s := s.modCache to_ (fun c => { c with serials := put line m.serial c.serials })
    let s := s.putHold to_ { h with count := h.count + m.count, own := h.own || m.own, dirty := h.dirty || (m.own && m.dirty), known := h.known || m.data.isSome, data := m.data.getD h.data }
    let s := match to_ with
      | .die _ => s.modCache to_ (fun c => c.learn m.src m.sec)
      | _ => s
    let kept := match to_ with
      | .die d => s.makeRoom d m.sec
      | _ => s
    match c.activeFor m.sec with
    | some a =>
      if a.req = to_ then kept
      else match to_ with
        | .agent k => s.agentForward k m.sec h.count a.req
        | _ => s.sendAll to_ a.req m.sec true
    | none => if asked || entry then kept else s.sendAll to_ (s.homeHolder m.sec) m.sec false

/-- Homes may have performed accesses: what waits for a memory access looks again, and device launches whose records are written are
answered. -/
def State.homesServed (s : State) : State := ((below 8).foldl (fun s d => s.portGo (Fin.ofNat 8 d)) s).unstall.wake waitsPending

/-- Strands in EJECT-WAIT whose last load has returned are DONE (R76). -/
def State.leaveAll (s : State) : State := (s.allStrands.map (fun x => x.uid)).foldl (fun s u => s.leaveNow u) s

/-- What a holder does once it has taken tokens (DESIGN CHOICE, log 85). -/
def State.taken (s : State) (to_ : Holder) (sec : Nat) : State :=
  match to_ with
  | .die d => ((s.settle d sec).leaveAll.pumpKeyway d).pumpKeyway (partner d)
  | .agent k => s.agentSettle k sec
  | .home h => (s.homeDone h).homesServed

/-- TOK (R199, R203, R207, R216). -/
def execTok (to_ : Holder) (m : TokMsg) (s : State) : Host.Outcome State Fault Refusal :=
  .next (let s := s.putBack
    match (match s.arrive_ to_ (.tok m false) with
      | some t => some t
      | none => s.arrive_ to_ (.tok m true)) with
    | none => s
    | some s => match to_ with
      | .home h => (s.homeTake h m).taken to_ m.sec
      | _ => (s.cacheTake to_ m).taken to_ m.sec)

/-! ### Timeouts (R201, R211) -/

/-- Change a holder's request. -/
def State.modReq (s : State) (who : Holder) (sec : Nat) (f : CacheReq → CacheReq) : State :=
  s.modCache who (fun c => { c with reqs := c.reqs.map (fun r => if r.sec == sec then f r else r) })

/-- The holder has a persistent request set at a home and not yet deactivated, whether or not its access has been performed meanwhile
(R211). -/
def State.persists (s : State) (who : Holder) (h : Home) : Bool := (s.cache who).setAt.contains h

/-- TRANSIENT_TIMEOUT (R201): the request goes to every holder. -/
def execTransientTimeout (who : Holder) (sec : Nat) (s : State) : Host.Outcome State Fault Refusal :=
  .next (let s := s.putBack
    match (s.cache who).reqs.find? (fun r => r.sec == sec) with
    | none => s
    | some r =>
      if r.stage != 0 || s.time < r.at_ + r.t1 then s
      else
        let home := s.homeHolder sec
        (s.modReq who sec (fun r => { r with stage := 1, at_ := s.time })).askAll who sec r.x (everyHolder home who))

/-- PERSISTENT_TIMEOUT (R201, R209, R211): the request goes to the home as a persistent one, with every other one of the holder for the line
that is due too; a holder that has one set at that home already goes on with transient requests, to every holder and each time the second
timeout has passed again (DESIGN CHOICE, log 119). -/
def execPersistentTimeout (who : Holder) (sec : Nat) (s : State) : Host.Outcome State Fault Refusal :=
  .next (let s := s.putBack
    match (s.cache who).reqs.find? (fun r => r.sec == sec) with
    | none => s
    | some r =>
      if r.stage != 1 || s.time < r.at_ + r.t2 then s
      else
        let h := s.homeOf (16 * sec)
        if s.persists who h then (s.modReq who sec (fun r => { r with at_ := s.time })).askAll who sec r.x (everyHolder (.home h) who)
        else
          let line := sec / 8
          let mine := (s.cache who).reqs.filter (fun r => r.sec / 8 == line && r.stage == 1 && r.at_ + r.t2 ≤ s.time)
          let mask := mine.foldl (fun m r => m ||| BitVec.ofNat 8 (2 ^ (r.sec % 8))) (0 : BitVec 8)
          let s := mine.foldl (fun s r => s.modReq who r.sec (fun r => { r with stage := 2, at_ := s.time })) s
          (s.modCache who (fun c => { c with setAt := c.setAt ++ [h] })).sendTo (.home h) (.preq { src := who, line := line, mask := mask }))

/-! ### Persistent requests (R202, R211, R212) -/

/-- PREQ (R202): the requester's entry is set. -/
def execPreq (m : ReqMsg) (s : State) : Host.Outcome State Fault Refusal :=
  .next (let s := s.putBack
    let h := s.homeOfLine m.line
    match s.arrive_ (.home h) (.preq m) with
    | none => s
    | some s => s.haspSet h (haspEntry m.src) m.line m.mask)

/-- What a holder has recorded of a home. -/
def Cache.actOf (c : Cache) (h : Home) : Option ActSeen := c.acts.find? (fun a => a.home == h)

/-- Record an activation or deactivation (R212); what it follows is deactivated, and with it a request of the holder's own (R211). -/
def Cache.putAct (c : Cache) (me : Holder) (a : ActSeen) : Cache :=
  let mine := match c.actOf a.home with
    | some b => b.active && b.req == me
    | none => false
  { c with acts := c.acts.filter (fun b => b.home != a.home) ++ [a], setAt := if mine then c.setAt.erase a.home else c.setAt }

/-- Under an activation a holder sends every token it has; a host agent gets them from its host first (R202, R224). -/
def State.obey (s : State) (to_ : Holder) (m : ActMsg) : State :=
  if m.req = to_ then s.pdoneIfIdle to_
  else (secsOf m.line m.mask).foldl (fun s sec => match to_ with
    | .agent k => if (s.holdOf to_ sec).count = 0 then s else s.snoop k sec true m.req true none
    | _ => s.sendAll to_ m.req sec true) s

/-- PACT (R202, R212): only one newer than what is recorded counts. -/
def execPact (to_ : Holder) (m : ActMsg) (s : State) : Host.Outcome State Fault Refusal :=
  .next (let s := s.putBack
    match s.arrive_ to_ (.pact m) with
    | none => s
    | some s =>
      let old := match (s.cache to_).actOf m.home with
        | some a => !newer m.epoch a.epoch
        | none => false
      if old then s
      else (s.modCache to_ (fun c => c.putAct to_ { home := m.home, epoch := m.epoch, line := m.line, mask := m.mask, req := m.req, active := true, done := false })).obey to_ m)

/-- PDONE (R202, R212): the active entry is deactivated and the next one activated. -/
def execPdone (h : Home) (epoch : BitVec 8) (s : State) : Host.Outcome State Fault Refusal :=
  .next (let s := s.putBack
    match s.arrive_ (.home h) (.pdone h epoch) with
    | none => s
    | some s =>
      if (s.home h).hasp.active.isNone || (s.home h).hasp.epoch != epoch then s
      else
        let s := (s.deactivate h).haspGo h haspTurns
        let s := ((s.home h).queue.foldl (fun s x => s.homeServe h x.1) s).homesServed
        match h with
        | .agent k => s.hostAll k
        | .stack _ _ => s)

/-- PDEACT (R212): it ends the activation recorded under its epoch; a newer one is recorded, and an older one ignored (DEDUCED,
log 23). -/
def execPdeact (to_ : Holder) (h : Home) (epoch : BitVec 8) (s : State) : Host.Outcome State Fault Refusal :=
  .next (let s := s.putBack
    match s.arrive_ to_ (.pdeact h epoch) with
    | none => s
    | some s => s.modCache to_ (fun c => match c.actOf h with
      | some a => if a.epoch = epoch || newer epoch a.epoch then c.putAct to_ { a with epoch := epoch, active := false } else c
      | none => c.putAct to_ { home := h, epoch := epoch, line := 0, mask := 0, req := to_, active := false, done := false }))

/-! ### Recovery (R215, R216) -/

/-- The device starts at most 64 recoveries in any 50 µs (R216). -/
def State.recoveryRoom (s : State) : Bool := (s.recStarts.filter (fun t => s.time < t + 50000)).length < 64

/-- The home starts to recover the line of its active request (R215). -/
def State.startRecovery (s : State) (h : Home) (line : Nat) : State :=
  let q := s.home h
  let n := q.serial line + 1
  let own := BitVec.ofNat 8 (((below 8).filter (fun i => (q.hold (8 * line + i)).2)).foldl (fun a i => a + 2 ^ i) 0)
  let s := s.modHome h (fun q =>
    { ((below 8).foldl (fun (q : HomeState) i => q.setHold (8 * line + i) (0, false)) q) with
      serials := put line n q.serials,
      recov := q.recov ++ [{ line := line, serial := n, start := s.time, acks := [], intact := own, served := false,
                                  active := q.hasp.active.map (fun a => entryHolder h a.1) }] })
  ({ s with recStarts := s.recStarts.filter (fun t => s.time < t + 50000) ++ [s.time] } : State).broadcast (.recreate line n)

/-- A persistent request has been active for 20 µs, no recovery runs at the home, and the rate allows one (R215, R216). A recovery does
not set the 20 µs back: a request that is still active when the loss check is over may have its line recovered again (DESIGN CHOICE,
log 107). -/
def State.recoverIf (s : State) (h : Home) : State :=
  let s := s.putBack
  match (s.home h).hasp.active with
  | none => s
  | some (_, line, _) =>
    if s.time < (s.home h).hasp.since + 20000 || !(s.home h).recov.isEmpty || !s.recoveryRoom then s else s.startRecovery h line

/-- RECOVERY_TIMEOUT (R215). -/
def execRecoveryTimeout (h : Home) (s : State) : Host.Outcome State Fault Refusal := .next (s.recoverIf h)

/-- RECOVERY_RATE_WINDOW (R216): a recovery that waited for the limit starts. -/
def execRecoveryRateWindow (h : Home) (s : State) : Host.Outcome State Fault Refusal := .next (s.recoverIf h)

/-- A holder drops a line and acknowledges, with the data of its owner tokens (R215). -/
def State.recreateAt (s : State) (to_ : Holder) (line : Nat) (serial : BitVec 8) : State :=
  let hs := (s.cache to_).holds.filter (fun x => x.sec / 8 == line)
  let own := (hs.filter (fun x => x.own)).map (fun x => (x.sec % 8, x.data))
  let s := s.modCache to_ (fun c =>
    { c with holds := c.holds.filter (fun x => x.sec / 8 != line), serials := del line c.serials })
  let s := match to_ with
    | .die d => hs.foldl (fun (s : State) (x : Hold) => s.wakeWaitc d x.sec) s
    | _ => s
  let s : State := match to_ with
    | .agent k => { s with hostLines := s.hostLines.filter (fun x => x.1 != (k, 2 * line) && x.1 != (k, 2 * line + 1)) }
    | _ => s
  s.sendTo (.home (s.homeOfLine line)) (.recack { src := to_, line := line, serial := serial, owner := own, held := !hs.isEmpty })

/-- RECREATE (R215, R216, R224): the filter takes the line with its serial; a host agent asks its host for the tokens first. One that a newer
one of the line has overtaken finds no token of its line that it could drop: it is acknowledged empty, and its entry lapses with the newer
one's (DEDUCED, log 108). -/
def execRecreate (to_ : Holder) (line : Nat) (serial : BitVec 8) (s : State) : Host.Outcome State Fault Refusal :=
  .next (let s := s.putBack
    match s.arrive_ to_ (.recreate line serial) with
    | none => s
    | some s =>
      let late := ((s.cache to_).filterOf line).filter (fun f => newer f.1 serial)
      let at_ := (late.map (fun f => f.2)).getD (s.time + 50000)
      let s := s.modCache to_ (fun c => { c with filter := c.filter ++ [(line, serial, at_)] })
      let held := (s.cache to_).holds.filter (fun x => x.sec / 8 == line)
      if late.isSome then
        s.sendTo (.home (s.homeOfLine line)) (.recack { src := to_, line := line, serial := serial, owner := [], held := false })
      else match to_ with
      | .agent k =>
        if held.isEmpty then s.recreateAt to_ line serial
        else held.foldl (fun s x => s.snoop k x.sec true (.home (s.homeOfLine line)) true (some serial)) s
      | _ => s.recreateAt to_ line serial)

/-- RECREATE_FILTER_EXPIRY (R216). -/
def execRecreateFilterExpiry (who : Holder) (line : Nat) (s : State) : Host.Outcome State Fault Refusal :=
  .next (let s := s.putBack
    s.modCache who (fun c => { c with filter := c.filter.filter (fun f => f.1 != line || s.time < f.2.2) }))

/-- Step 4 of R215: the home holds all 16 tokens of every sector, clean, and serves the active request at once. -/
def State.finishRecovery (s : State) (h : Home) (line : Nat) : State :=
  let s := s.modHome h (fun q =>
    { ((below 8).foldl (fun (q : HomeState) i => q.setHold (8 * line + i) (16, true)) q) with
      recov := q.recov.map (fun r => if r.line == line then { r with served := true } else r) })
  let s := s.homeForward h
  (((below 8).foldl (fun s i => s.homeServe h (8 * line + i)) s).homeDone h).homesServed

/-- RECACK (R215, R217): its data goes to memory; with the last one the recovery's step 4 is done (DEDUCED, log 24). One that
names no recovery in progress is ignored. -/
def execRecack (m : RecAck) (s : State) : Host.Outcome State Fault Refusal :=
  .next (let s := s.putBack
    let h := s.homeOfLine m.line
    match s.arrive_ (.home h) (.recack m) with
    | none => s
    | some s => match (s.home h).recov.find? (fun r => r.line == m.line && r.serial == m.serial) with
      | none => s
      | some r =>
        if r.acks.any (fun a => a.1 == m.src) then s
        else
          let s := m.owner.foldl (fun s x => s.backToMemory h (8 * m.line + x.1) x.2) s
          let r := { r with acks := r.acks ++ [(m.src, m.held)],
                            intact := m.owner.foldl (fun b x => b ||| BitVec.ofNat 8 (2 ^ x.1)) r.intact }
          let s := s.modHome h (fun q => { q with recov := q.recov.map (fun x => if x.line == m.line then r else x) })
          if !r.served && s.sharers.all (fun x => r.acks.any (fun a => a.1 == x)) then s.finishRecovery h m.line else s)

/-- FLIT_GIVE_UP (R215): a flit not delivered 10 µs after it was sent is lost, and its tokens with it (DESIGN CHOICE, log 64). -/
def execFlitGiveUp (n : Nat) (s : State) : Host.Outcome State Fault Refusal :=
  .next (let s := s.putBack
    match s.net[n]? with
    | none => s
    | some f => if s.time < f.sent + 10000 then s else { s with net := s.net.eraseIdx n })

/-! ### Recalls and accesses at homes (R219, R220) -/

/-- RECALL (R200, R219): the tokens go home, unless the die cache has its own GETX outstanding. -/
def execRecall (to_ : Holder) (m : RecallMsg) (s : State) : Host.Outcome State Fault Refusal :=
  .next (let s := s.putBack
    match s.arrive_ to_ (.recallTokens m) with
    | none => s
    | some s => (secsOf m.line m.mask).foldl (fun s sec =>
      if s.keeps to_ sec then s
      else match to_ with
        | .agent k => if (s.holdOf to_ sec).count = 0 then s else s.snoop k sec true (s.homeHolder sec) false none
        | _ => s.sendAll to_ (s.homeHolder sec) sec false) s)

/-- RECALL_TIMEOUT (R219): after 900 ns the home sets its own entry. -/
def execRecallTimeout (sec : Nat) (s : State) : Host.Outcome State Fault Refusal :=
  .next (let s := s.putBack
    let h := s.homeOf (16 * sec)
    let q := s.home h
    let busy := (look 12 q.hasp.set_).isSome || match q.hasp.active with
      | some (e, _, _) => e == 12
      | none => false
    match look sec q.recalls with
    | none => s
    | some t => if s.time < t + 900 || busy then s else s.haspSet h 12 (sec / 8) (BitVec.ofNat 8 (2 ^ (sec % 8))))

/-- An access reaches its home: it is queued, and performed once the home has every token. -/
def State.homeAccess (s : State) (sec : Nat) (i : HomeAcc) (msg : Msg) : State :=
  let s := s.putBack
  match s.arrive_ (s.homeHolder sec) msg with
  | none => s
  | some s => (s.homeQueue sec i).homesServed

/-- ATOM (R219). -/
def execAtom (m : AtomMsg) (s : State) : Host.Outcome State Fault Refusal := .next (s.homeAccess m.sec (.atom m) (.atom m))

/-- HLD (R220). -/
def execHld (m : HldMsg) (s : State) : Host.Outcome State Fault Refusal := .next (s.homeAccess m.sec (.hld m) (.hld m))

/-- HST (R220). -/
def execHst (m : HstMsg) (s : State) : Host.Outcome State Fault Refusal := .next (s.homeAccess m.sec (.hst m) (.hst m))

/-! ### Answers of homes -/

/-- The answer to a memory packet (R276). -/
def State.replyTo (s : State) (p : PortId) (req : Packet) (kind status : Nat) (payload : List Byte) : State :=
  s.emit p { key := req.key, dpkg := req.spkg, ddie := req.sdie, kind := BitVec.ofNat 8 kind, spkg := s.pkgId, sdie := req.ddie,
             status := BitVec.ofNat 8 status, nbytes := BitVec.ofNat 16 payload.length, txn := req.txn, addr := 0, frag := 0,
             khdr := none, atom := none, payload := payload }

/-- A packet's access has been performed in one more sector; with the last one the port answers (R221, R278). The piece is told
by its fragment offset. -/
def State.portPiece (s : State) (p : PortId) (piece : Packet) (data : SectorData) : State :=
  let same := fun (j : PortJob) => j.port == p && j.req.spkg == piece.spkg && j.req.sdie == piece.sdie && j.req.txn == piece.txn
    && j.req.kind == piece.kind
  match s.portJobs.find? same with
  | none => s
  | some j =>
    let j := { j with left := j.left - 1,
                      got := put piece.frag.toNat ((below piece.nbytes.toNat).map (fun k => sectorByte data k)) j.got }
    if j.left = 0 then
      let bytes := (j.got.map (fun x => x.2)).flatten
      let k := j.req.kind.toNat
      let s : State := { s with portJobs := s.portJobs.eraseP same }
      if k = 0 then s.replyTo p j.req 1 0 bytes
      else if k = 4 then s.replyTo p j.req 5 0 (match j.req.atom with
        | some a => if a.ret then bytes else []
        | none => [])
      else s.replyTo p j.req 3 0 []
    else { s with portJobs := s.portJobs.map (fun x => if same x then j else x) }

/-- A strand looks again at its unit, and a parked `waitc` at its word. -/
def Strand.lookAgain (x : Strand) : Strand :=
  { x with stalled := false, park := match x.park with
    | some (.wait (.waitc a b w _ n)) => some (.wait (.waitc a b w true n))
    | p => p }

/-- The answer of a home for an engine's cursor. -/
def CopyOp.homeReply (txn : Nat) (st : Byte) (data : SectorData) (o : CopyOp) : CopyOp :=
  if o.home = some txn && o.reply.isNone then { o with reply := some (st, data.setWidth 64) } else o

/-- The answer of a home for the engines and agents of a die (R219, R220). -/
def State.answerEngines (s : State) (d : DieId) (txn : Nat) (st : Byte) (data : SectorData) : State :=
  let f := CopyOp.homeReply txn st data
  let s : State := { s with crews := s.crews.map (fun k => if k.die == d then { k with copies := k.copies.map f } else k) }
  let s := s.modKey d (fun y => { y with sends := y.sends.map (fun x => { x with cur := f x.cur }), recvs := y.recvs.map (fun x => { x with cur := f x.cur }) })
  s.modDie d (fun x => { x with far := x.far.map (fun g =>
    if g.kind = .home && g.txn == txn && g.reply.isNone then { g with reply := some (st, (below 16).map (sectorByte data)) } else g) })

/-- What a home has read for an element of a strand is written into the L1 copy of its core (R127, R253). -/
def State.placeRead (s : State) (d : DieId) (txn : Nat) (data : SectorData) : State :=
  match s.allStrands.find? (fun x => (s.coreAt d x).isSome && x.homeReads.any (fun r => r.1 == txn)) with
  | none => s
  | some x => match s.coreAt d x, x.homeReads.find? (fun r => r.1 == txn) with
    | some (c, _), some (_, pa, n) =>
      let sec := pa / 16
      let s := s.modStrands (fun y => y.uid == x.uid) (fun y => { y with homeReads := y.homeReads.filter (fun r => r.1 != txn) })
      s.homeRead d c txn sec (sectorMask (pa % 16) n) (data <<< (8 * (pa % 16)))
    | _, _ => s

/-- A home's answer for an element of a strand of a die (R209, R219, R220): a value, or the completion of a store. -/
def State.answerDie (s : State) (d : DieId) (txn : Nat) (data : SectorData) : State :=
  let mine := fun (x : Strand) => match s.anyCrew x.crew with
    | some k => k.die == d
    | none => false
  let s := s.placeRead d txn data
  let s := s.modStrands (fun x => mine x && x.asked.any (fun a => a.2 == txn))
    (fun x => { x with got := (x.asked.filter (fun (a : Nat × Nat) => a.2 == txn)).foldl (fun (g : List (Nat × Word)) (a : Nat × Nat) => put a.1 (data.setWidth 64) g) x.got,
                       asked := x.asked.filter (fun (a : Nat × Nat) => a.2 != txn) }.lookAgain)
  let s := s.modStrands (fun x => mine x && x.hstOut.any (fun a => a.1 == txn))
    (fun x => { x with hstOut := x.hstOut.filter (fun a => a.1 != txn) }.lookAgain)
  s.leaveAll.homesServed

/-- ATOMR, HLDR or HSTR arrives at its requester. -/
def State.homeAnswer (s : State) (kind : Fin 3) (m : RepMsg) : State :=
  let s := s.putBack
  match m.dst with
  | .die d txn => match s.arrive_ (.die d) (.rep kind m) with
    | some s => ((s.answerDie d txn m.data).answerEngines d txn m.status m.data).pumpKeyway d
    | none => s
  | .port p piece => match s.net.find? (fun f => f.msg == .rep kind m) with
    | some f => match s.arrive_ f.dst (.rep kind m) with
      | some s => s.portPiece p piece m.data
      | none => s
    | none => s

/-- ATOMR (R219). -/
def execAtomr (m : RepMsg) (s : State) : Host.Outcome State Fault Refusal := .next (s.homeAnswer 0 m)

/-- HLDR (R220). -/
def execHldr (m : RepMsg) (s : State) : Host.Outcome State Fault Refusal := .next (s.homeAnswer 1 m)

/-- HSTR (R220). -/
def execHstr (m : RepMsg) (s : State) : Host.Outcome State Fault Refusal := .next (s.homeAnswer 2 m)

/-! ### The host (R224) -/

/-- A host access to device memory begins. A link's decoder exposes the device memory of its own base die, without the service OS's
memory (R334, R335). -/
def State.hostAccess (s : State) (k : LinkId) (line : Nat) (own : Bool) (data : Option (BitVec 512)) : Host.Outcome State Fault Refusal :=
  let s := s.putBack
  if !s.inDevice (64 * line) then .fault (.noSuchPhysicalAddress (64 * line))
  else if !s.cxl.getLsbD k.val || 64 * line / 2 ^ 38 != k.val || s.carved (64 * line) 64 then .next s
  else .next (({ s with hostAccs := s.hostAccs ++ [{ link := k, line := line, own := own, data := data, snp := none }] } : State).hostAll k)

/-- CXL_MEMRD (R224): GETS for the four sectors, then it completes with the data. -/
def execCxlMemrd (k : LinkId) (line : Nat) (s : State) : Host.Outcome State Fault Refusal := s.hostAccess k line false none

/-- CXL_MEMWR (R224): GETX for the four sectors; a write, or a read for ownership where no data comes with it. -/
def execCxlMemwr (k : LinkId) (line : Nat) (data : Option (BitVec 512)) (s : State) : Host.Outcome State Fault Refusal :=
  s.hostAccess k line true data

/-- CXL_SNOOP (R224): the host snoops its own memory; the tokens are gathered before the answer. -/
def execCxlSnoop (k : LinkId) (line : Nat) (inv : Bool) (s : State) : Host.Outcome State Fault Refusal :=
  .next (let s := s.putBack
    if !s.cxl.getLsbD k.val || !inHost (64 * line) || s.homeOf (64 * line) != .agent k then s
    else ({ s with hostAccs := s.hostAccs ++ [{ link := k, line := line, own := true, data := none, snp := some inv }] } : State).hostAll k)

/-- Where tokens go that a host has given up: another requester active now, else who the snoop served, but home after an activation that is
over (R199, R202, R212). -/
def State.snoopTo (s : State) (x : Snoop) : Holder × Bool :=
  let own := if x.p then (s.homeHolder x.sec, false) else (x.dst, false)
  match (s.cache (.agent x.link)).activeFor x.sec with
  | some a => if a.req = .agent x.link then own else (a.req, true)
  | none => own

/-- BISNP_RESPONSE (R224): the host gives a sector up, with data it had modified; the tokens held for it move. Under another's activation
a GETS that came before gets nothing: every token is for the active requester (R202). While the line is being recreated a snoop made
before only has its data taken: the tokens are dropped, and the data goes with the RECACK (R215). -/
def execBisnpResponse (k : LinkId) (sec : Nat) (data : Option (BitVec 128)) (s : State) : Host.Outcome State Fault Refusal :=
  .next (let s := s.putBack
    let me : Holder := .agent k
    match s.snoops.find? (fun x => x.link == k && x.sec == sec) with
    | none => s
    | some x =>
      let s : State := { s with snoops := s.snoops.erase x }
      let h := s.holdOf me sec
      let s := match data with
        | some v => if h.count = 16 then s.putHold me { h with dirty := true, data := v } else s
        | none => s
      match x.recr with
      | some n =>
        if s.snoops.any (fun y => y.link == k && y.sec / 8 == sec / 8 && y.recr == some n) then s
        else s.recreateAt me (sec / 8) n
      | none =>
        if s.snoops.any (fun y => y.link == k && y.sec / 8 == sec / 8 && y.recr.isSome) then s
        else if x.inv then
          let to_ := s.snoopTo x
          (s.sendAll me to_.1 sec to_.2).present k (sec / 4)
        else
          let s := match (s.cache me).activeFor sec with
            | some a => if a.req = me then s.answerGets me x.dst sec else s.agentForward k sec (s.holdOf me sec).count a.req
            | none => s.answerGets me x.dst sec
          s.present k (sec / 4))

/-- CXL_HOST_DATA (R224): the host completes RdShared or RdOwn; what waited for the data goes on. -/
def execCxlHostData (k : LinkId) (sec : Nat) (own : Bool) (data : BitVec 128) (s : State) : Host.Outcome State Fault Refusal :=
  .next (let s := s.putBack
    let h : Home := .agent k
    if !(s.hostReads.any (fun x => x == (k, sec, own))) then s
    else
      let s : State := { s with hostReads := s.hostReads.filter (fun x => x != (k, sec, own)) }
      let s := (s.setMemSector sec 0xFFFF data).modHome h (fun q =>
        { q with hostHeld := put sec (own || (look sec q.hostHeld).getD false) q.hostHeld })
      (((s.homeForward h).homeServe h sec).homeDone h).homesServed)

end Sys2Proof.Machine
end

