-- ==== Sys2Proof/Machine/Fabric.lean ====
section
/-! DEFINITION. Packets at the scale-up ports (R276 to R283): what a target port does with remote reads, writes, atomics and
multicast writes (R221, R278, R282), and what their replies and timeouts do at the sender (R279 to R281, R283). -/

namespace Sys2Proof.Machine

open Sys2Proof

/-! ### The target side (R221, R278, R282) -/

/-- The bytes from `pa` on, cut at the sectors: address, offset in the access, length. -/
def pieces (pa off : Nat) : Nat → Nat → List (Nat × Nat × Nat)
  | 0, _ => []
  | f + 1, n =>
    if n = 0 then []
    else
      let k := Nat.min n (16 - pa % 16)
      (pa, off, k) :: pieces (pa + k) (off + k) f (n - k)

/-- The local address of a window access of `n` bytes; `none` where the page is absent, lacks a permission, or does not hold the
bytes (R278, R334) (DEDUCED, log 65). -/
def State.windowPa (s : State) (addr : Word) (n : Nat) (r w : Bool) : Option Nat :=
  let e := lookD 0 (addr.toNat / 65536 % 65536) s.fabwin
  let o := addr.toNat % 65536
  let pa := e.toNat / 65536 % 2 ^ 32 * 65536 + o
  if bit e 63 && (!r || bit e 1) && (!w || bit e 2) && decide (o + n ≤ 65536) && s.paOk pa && s.paOk (pa + n - 1) && !s.carved pa n then some pa else none

/-- A port serves a memory packet: each sector's part goes to its home as for a PLACE 3 page, and the reply follows when all have
answered; a window page that is absent or not permitted is answered with status 1 (R221, R278). -/
def State.portServe (s : State) (p : PortId) (pk : Packet) (reply n : Nat) (r w : Bool)
    (mk : Requester → Nat → Nat → Nat → Msg) : State :=
  let s := s.putBack
  match s.portTakes p pk.key with
  | (s, false) => s
  | (s, true) => match s.windowPa pk.addr n r w with
    | none => s.replyTo p pk reply 1 []
    | some pa =>
      let xs := pieces pa 0 (n / 16 + 2) n
      if xs.isEmpty then s.replyTo p pk reply 0 []
      else
        let s : State := { s with portJobs := s.portJobs ++ [{ port := p, req := pk, got := [], left := xs.length }] }
        xs.foldl (fun s x =>
          let piece : Packet := { pk with nbytes := BitVec.ofNat 16 x.2.2, frag := BitVec.ofNat 32 x.2.1 }
          s.sendTo (s.homeHolder (x.1 / 16)) (mk (.port p piece) x.1 x.2.1 x.2.2)) s

/-- The bytes of a payload placed in their sector. -/
def placeBytes (pa : Nat) (bs : List Byte) : SectorData := BitVec.ofNat 128 (leNat bs * 2 ^ (8 * (pa % 16)))

/-- FAB_READ (R221, R278). -/
def execFabRead (port : PortId) (pk : Packet) (s : State) : Host.Outcome State Fault Refusal :=
  .next (s.portServe port { pk with kind := 0 } 1 pk.nbytes.toNat true false
    (fun r pa _ k => .hld { src := r, sec := pa / 16, mask := sectorMask (pa % 16) k }))

/-- The part of a write packet that goes to one sector. -/
def writePart (pk : Packet) (r : Requester) (pa off k : Nat) : Msg :=
  .hst { src := r, sec := pa / 16, mask := sectorMask (pa % 16) k, data := placeBytes pa ((pk.payload.drop off).take k) }

/-- FAB_WRITE (R221, R278). -/
def execFabWrite (port : PortId) (pk : Packet) (s : State) : Host.Outcome State Fault Refusal :=
  .next (s.portServe port { pk with kind := 2 } 3 pk.payload.length false true (writePart pk))

/-- MULTICAST_WRITE (R282): performed here as a unicast store would be. -/
def execMulticastWrite (port : PortId) (pk : Packet) (s : State) : Host.Outcome State Fault Refusal :=
  .next (s.portServe port { pk with kind := 9 } 3 pk.payload.length false true (writePart pk))

/-- FAB_ATOMIC (R221, R278): it needs R and W, and executes at the home. A packet without operands is no atomic and has no effect once the port has let it pass (R277) (DESIGN CHOICE, log 8). -/
def execFabAtomic (port : PortId) (pk : Packet) (s : State) : Host.Outcome State Fault Refusal :=
  .next (match pk.atom with
    | none => (s.putBack.portTakes port pk.key).1
    | some a =>
      let n := if a.w64 then 8 else 4
      if pk.addr.toNat % n ≠ 0 then match s.putBack.portTakes port pk.key with
        | (s, true) => s.replyTo port { pk with kind := 4 } 5 1 []
        | (s, false) => s
      else s.portServe port { pk with kind := 4, nbytes := BitVec.ofNat 16 n } 5 n true true
        (fun r pa _ _ => .atom { src := r, sec := pa / 16, off := pa % 16, args := a }))

/-- UNKNOWN_PACKET_TYPE (R276): dropped and counted. -/
def execUnknownPacketType (port : PortId) (pk : Packet) (s : State) : Host.Outcome State Fault Refusal :=
  .next (let s := s.putBack
    if pk.kind.toNat ≤ 10 then s
    else { s with ports := s.ports.set port { s.ports[port] with drop := s.ports[port].drop + 1 } })

/-! ### The sender's side (R279 to R281, R283) -/

/-- A remote access has a part with a transaction. -/
def Remote.has (m : Remote) (txn : Nat) : Bool := m.parts.any (fun p => p.txn == txn)

/-- The failure of a part is kept until its destination is read, or for a store until a release at sys scope; of one access the
lowest failing lane counts (R280, R281). What nothing can read again is forgotten. -/
def Strand.defer (f : Strand) (m : Remote) (p : RemotePart) (sub : Byte) : Strand :=
  let x : Deferred := { store := m.store, dest := m.dest, sub := sub, pc := m.pc, va := p.va, lane := p.lane }
  let same := fun (y : Deferred) => y.store == x.store && y.dest == x.dest && y.pc == x.pc
  if !m.store && m.dest == .none then f
  else match f.deferred.find? same with
    | none => { f with deferred := f.deferred ++ [x] }
    | some y => if x.lane < y.lane then { f with deferred := f.deferred.map (fun z => if same z then x else z) } else f

/-- What a remote load returned goes to its destination (R86, R109, R279). -/
def State.landRemote (s : State) (m : Remote) (p : RemotePart) (bytes : List Byte) : State :=
  match m.dest with
  | .none => s
  | .sreg r size sign => s.wrS r (extendLoad size sign (BitVec.ofNat 64 (leNat (bytes.take size))))
  | .vreg v size => s.putElems (size == 8) v.toNat [(p.lane, leNat (bytes.take size))]

/-- A strand that a reply lets go on. -/
def replyWakes (u : Nat) (x : Strand) : Bool := x.uid == u && match x.park with
  | some .remoteLoad => true
  | some (.wait .fence) => true
  | some (.wait .mcast) => true
  | _ => false

/-- The answer to a strand's remote access (R279, R280), for every lane that names its element: `sub` is 0, or the FABKEY subcode
of its failure. Packets that it kept back may leave (R279). A `waitc` takes the
value and looks again, or faults at once, for it is the instruction that reads it. What comes for a strand that has left is discarded, and the
strand retires with the last of it (R76). -/
def State.strandReply (s : State) (u txn : Nat) (sub : Byte) (bytes : List Byte) : State :=
  match s.take u with
  | none => s.putBack
  | some s => match s.focus.remotes.find? (fun m => m.has txn) with
    | none => s.putBack
    | some m =>
      let ps := m.parts.filter (fun p => p.txn == txn)
      match ps with
      | [] => s.putBack
      | p :: _ =>
        let whole := m.parts.all (fun p => p.txn == txn)
        let gone := s.focus.state == .done || s.focus.state == .ejectWait
        let s := s.setFocus { s.focus with
          remotes := (s.focus.remotes.map (fun r => { r with parts := r.parts.filter (fun q => q.txn != txn) })).filter
            (fun r => !r.parts.isEmpty) }
        let s := if s.focus.asked.any (fun a => a.2 == txn) then
            let s := s.setFocus { s.focus with asked := s.focus.asked.filter (fun a => a.2 != txn) }
            if gone then s
            else if sub ≠ 0 then s.takeFault (s.faultRec 0x08 sub.toNat 0 s.focus.unitPc p.va true)
            else
              s.setFocus { s.focus with got := put 0 (BitVec.ofNat 64 (leNat (bytes.take 8))) s.focus.got }.lookAgain
          else if sub = 0 then ps.foldl (fun s p => s.landRemote m p bytes) s
          else s.setFocus (ps.foldl (fun f p => f.defer m p sub) s.focus)
        let s := s.sendMine
        let s := if 2 ≤ m.acqAt && whole then s.modL1 s.crew.die s.crew.core (fun _ => []) else s
        let s := s.putBack.leaveNow u
        if whole then s.wake (replyWakes u) else s

/-- A member's acknowledgement of a multicast store, or its failure (R283). -/
def State.memberReply (s : State) (u txn : Nat) (bad : Bool) : State :=
  let s := s.modStrand u (fun x => match x.mcast with
    | none => x
    | some m =>
      let gone := m.await.filter (fun a => a.2.txn == txn)
      { x with mcast := some { m with
          await := m.await.filter (fun a => a.2.txn != txn),
          failed := if bad then gone.foldl (fun f a => f ||| ((1 : Word) <<< a.1)) m.failed else m.failed } })
  let s := match s.anyStrand u with
    | some f => let r := s.sendHeld f
      r.1.modStrand u (fun _ => r.2)
    | none => s
  s.wake (replyWakes u)

/-- A strand's multicast record awaits a transaction. -/
def Strand.awaits (x : Strand) (txn : Nat) : Bool := match x.mcast with
  | some m => m.await.any (fun a => a.2.txn == txn)
  | none => false

/-- A strand of a crew on a die. -/
def State.strandOn (s : State) (d : DieId) (x : Strand) : Bool := match s.anyCrew x.crew with
  | some k => k.die == d
  | none => false

/-- The remote transactions that a cursor of an engine awaits, with the TIMEs they left at: one access, or the members of a multicast
store. -/
def CopyOp.txns (o : CopyOp) : List (Nat × Nat) :=
  (if o.reply.isNone then o.txn.toList else []) ++ (o.mcast.map (fun m => m.1)).getD []

/-- A cursor of an engine awaits a transaction. -/
def CopyOp.awaits (o : CopyOp) (txn : Nat) : Bool := o.txns.any (fun t => t.1 == txn)

/-- The answer to an engine's element: of a multicast store the members' acknowledgements come one by one, and a failure is kept (R283). -/
def CopyOp.answer (o : CopyOp) (txn : Nat) (sub : Byte) (bytes : List Byte) : CopyOp :=
  match o.mcast with
  | some (l, f) => { o with mcast := some (l.filter (fun t => t.1 != txn), if sub = 0 then f else sub) }
  | none => { o with reply := some (sub, BitVec.ofNat 64 (leNat (bytes.take 8))) }

/-- The answer to an outstanding remote access of a die, of the owners that `own` names: a strand, a copy, a send or a receive by
its cursor, or (0) the die itself. -/
def State.farAnswer (s : State) (d : DieId) (txn : Nat) (sub : Byte) (bytes : List Byte) (own : Nat → Bool) : State :=
  match s.strands.find? (fun x => own x.uid && s.strandOn d x && x.remotes.any (fun m => m.has txn)) with
  | some x => s.strandReply x.uid txn sub bytes
  | none => match s.strands.find? (fun x => own x.uid && s.strandOn d x && x.awaits txn) with
    | some x => s.memberReply x.uid txn (sub != 0)
    | none => match s.crews.find? (fun k => k.die == d && k.copies.any (fun o => own o.id && o.awaits txn)) with
      | some k => s.modCrew k.uid (fun k => { k with copies := k.copies.map (fun o =>
          if own o.id && o.awaits txn then o.answer txn sub bytes else o) })
      | none =>
        let y := (s.die d).key
        if y.sends.any (fun x => own x.cur.id && x.cur.awaits txn) || y.recvs.any (fun x => own x.cur.id && x.cur.awaits txn) then
          (s.modKey d (fun y => { y with
            sends := y.sends.map (fun x => if own x.cur.id && x.cur.awaits txn then { x with cur := x.cur.answer txn sub bytes } else x),
            recvs := y.recvs.map (fun x => if own x.cur.id && x.cur.awaits txn then { x with cur := x.cur.answer txn sub bytes } else x)
            })).pumpKeyway d
        else if own 0 then
          s.modDie d (fun x => { x with far := x.far.map (fun f =>
            if f.kind = .remote && f.txn == txn && f.reply.isNone then { f with reply := some (sub, bytes) } else f) })
        else s

/-- A reply packet arrives: status 1 is FABKEY subcode 4 (R276, R280). One that nothing awaits has no effect. -/
def State.fabReply (s : State) (port : PortId) (pk : Packet) : State :=
  match s.putBack.portTakes port pk.key with
  | (s, true) => s.farAnswer pk.ddie pk.txn.toNat (if pk.status = 0 then 0 else 4) pk.payload (fun _ => true)
  | (s, false) => s

/-- FAB_READ_REPLY (R279). -/
def execFabReadReply (port : PortId) (pk : Packet) (s : State) : Host.Outcome State Fault Refusal := .next (s.fabReply port pk)

/-- FAB_WRITE_ACK (R279, R283). -/
def execFabWriteAck (port : PortId) (pk : Packet) (s : State) : Host.Outcome State Fault Refusal := .next (s.fabReply port pk)

/-- FAB_ATOMIC_REPLY (R279). -/
def execFabAtomicReply (port : PortId) (pk : Packet) (s : State) : Host.Outcome State Fault Refusal := .next (s.fabReply port pk)

/-- 1 ms of TIME has passed since. -/
def State.msSince (s : State) (t : Nat) : Bool := t + 1000000 ≤ s.time

/-- An outstanding access of owner `u` with a transaction on a die has had no answer for 1 ms. -/
def State.farDue (s : State) (d : DieId) (u txn : Nat) : Bool :=
  let op := fun (o : CopyOp) => o.id == u && o.txns.any (fun t => t.1 == txn && s.msSince t.2)
  s.strands.any (fun x => x.uid == u && s.strandOn d x && x.remotes.any (fun m => m.parts.any (fun p => p.txn == txn && !p.held && s.msSince p.sent)))
    || s.crews.any (fun k => k.die == d && k.copies.any op)
    || (s.die d).key.sends.any (fun x => op x.cur) || (s.die d).key.recvs.any (fun x => op x.cur)
    || (u == 0 && (s.die d).far.any (fun f => f.kind = .remote && f.txn == txn && f.reply.isNone && s.msSince f.sent))

/-- REMOTE_TIMEOUT (R280): an access of a strand, an engine operation or (0) a die's own agents has had no reply within 1 ms. -/
def execRemoteTimeout (u txn : Nat) (s : State) : Host.Outcome State Fault Refusal :=
  .next (let s := s.putBack
    match ((below 8).map (Fin.ofNat 8)).find? (fun d => s.farDue d u txn) with
    | none => s
    | some d => s.farAnswer d txn 2 [] (fun o => o == u))

/-- MCAST_ACK_TIMEOUT (R283): the member has failed. -/
def execMcastAckTimeout (u txn : Nat) (s : State) : Host.Outcome State Fault Refusal :=
  .next (let s := s.putBack
    match s.strandOf u with
    | none => s
    | some x => match x.mcast with
      | none => s
      | some m => if m.await.any (fun a => a.2.txn == txn && !a.2.held && s.msSince a.2.sent) then s.memberReply u txn true else s)

end Sys2Proof.Machine
end

