-- ==== Sys2Proof/Machine/Sequencer.lean ====
section
/-! DEFINITION. The sequencer context (R163 to R174): starting and querying it, its own instructions, and the array's events
(R168, R171). A sequencer instruction acts on the context of the crew in hand (`State.takeCrew`). -/

namespace Sys2Proof.Machine

open Sys2Proof

/-! ### mgo and mstat (R164, R165) -/

/-- The header's stream address of a crew. -/
def Crew.streamStart (c : Crew) : Word := c.hdrAddr + BitVec.ofNat 64 (4 * c.hdr.stream)

/-- The eight q registers from a parameter block (R164). -/
def Crew.qBlock (c : Crew) (p : Nat) : Vector Word 8 := Vector.ofFn (fun n => BitVec.ofNat 64 (c.spRead (p + 8 * n.val) 8))

/-- mgo (R164): what the strand did before happens before the stream (R164, R248; log 28). -/
def execMgo (e : Bool) (rd ra : SReg) (s : State) : Host.Outcome State Fault Refusal :=
  .next (if s.crew.hdr.stream = 0 then s.illegal 4
    else s.gate [ra] [rd] [] (fun s =>
      let p := s.rdS ra
      if p.toNat % 8 ≠ 0 then s.raise 0x03 1 p
      else if s.crew.hdr.scratch < p.toNat + 64 then s.raise 0x04 1 p
      else if s.crew.seq.state != .stopped then (s.wrS rd 0).finish e
      else s.releaseGate 1 (fun s =>
        let q : Seq := { s.crew.seq with state := .running, pc := s.crew.streamStart, start := s.crew.streamStart,
                                         q := s.crew.qBlock p.toNat }
        ((s.setCrew { s.crew with seq := q }).wrS rd 1).finish e)))

/-- The code of a context's state (R165). -/
def SeqState.code : SeqState → Nat
  | .stopped => 0
  | .running => 1
  | .waiting => 2
  | .holding => 3
  | .faulted => 4

/-- The status word of a context (R165). -/
def Seq.status (q : Seq) : Word :=
  BitVec.ofNat 64 ((q.pc - q.start).toNat / 4 % 2 ^ 32 * 2 ^ 32 + q.fsub.toNat * 2 ^ 16 + q.fcode.toNat * 2 ^ 8 + q.state.code)

/-- What `mstat` answers for a selector (R165). -/
def Crew.mstat (c : Crew) (sel : Nat) : Word :=
  if !c.hasSeq then 0
  else if sel = 0 then c.seq.status
  else if sel ≤ 8 then c.seq.q[Fin.ofNat 8 (sel - 1)] else 0

/-- mstat (R165) (DEDUCED, log 95). -/
def execMstat (e : Bool) (rd ra : SReg) (s : State) : Host.Outcome State Fault Refusal :=
  .next (s.gate [ra] [rd] [] (fun s => (s.wrS rd (s.crew.mstat (s.rdS ra).toNat)).finish e))

/-! ### The context's own instructions (R173, R174) -/

/-- Replace the context. -/
def State.setSeq (s : State) (q : Seq) : State := s.setCrew { s.crew with seq := q }

/-- The context goes on at an address. -/
def State.seqGoto (s : State) (pc : Word) : State := s.setSeq { s.crew.seq with state := .running, pc := pc }

/-- The context goes on at the next word. -/
def State.seqNext (s : State) : State := s.seqGoto (s.crew.seq.pc + 4)

/-- TAKING A SEQUENCER FAULT: the context stops at the word, and the record goes to the fault ring (R169). -/
def State.seqFault (s : State) (code sub addr : Nat) : State :=
  let r := s.engineRec code sub s.crew.seq.pc (BitVec.ofNat 64 addr)
  let q := { s.crew.seq with state := .faulted, fcode := BitVec.ofNat 8 code, fsub := BitVec.ofNat 8 sub, frec := some r }
  (s.setSeq q).reportFault s.crew.die r

/-- A q register. -/
def State.qReg (s : State) (q : BitVec 3) : Word := s.crew.seq.q[q.toNat]'(q.isLt)

/-- Write a q register. -/
def State.setQ (s : State) (q : BitVec 3) (v : Word) : State := s.setSeq { s.crew.seq with q := s.crew.seq.q.set q.toNat v q.isLt }

/-- mnop (R173). -/
def execMnop (s : State) : Host.Outcome State Fault Refusal := .next s.seqNext

/-- mend (R170, R173): the context stops, standing at the next word. -/
def execMend (s : State) : Host.Outcome State Fault Refusal :=
  .next (s.setSeq { s.crew.seq with state := .stopped, pc := s.crew.seq.pc + 4 })

/-- mloop (R173). -/
def execMloop (q : BitVec 3) (disp : BitVec 16) (s : State) : Host.Outcome State Fault Refusal :=
  let v := s.qReg q - 1
  let t := s.setQ q v
  .next (if v = 0 then t.seqNext else t.seqGoto (s.crew.seq.pc + sext disp * 4))

/-- mqadd (R173). -/
def execMqadd (q : BitVec 3) (imm : BitVec 24) (s : State) : Host.Outcome State Fault Refusal :=
  .next (s.setQ q (s.qReg q + sext imm)).seqNext

/-- mset (R173). -/
def execMset (q : BitVec 3) (imm : BitVec 24) (s : State) : Host.Outcome State Fault Refusal :=
  .next (s.setQ q (sext imm)).seqNext

/-- mhwait (R166, R174): completes once every participant has arrived once more than MC; until then the context is WAITING, and its PC is that
of this word (DESIGN CHOICE, log 127). -/
def execMhwait (h : BitVec 4) (s : State) : Host.Outcome State Fault Refusal :=
  .next (if s.hingeFull s.crew h then
      ((s.setCrew (s.crew.modHinge h (fun g => { g with mc := g.mc + 1 }))).seqNext).hingeMoved s.crew.uid
    else s.setSeq { s.crew.seq with state := .waiting, hinge := h })

/-- mharr (R166, R174): one more release, unless a participant has 255 not taken; until then the context is HOLDING, and its PC is that of
this word (DESIGN CHOICE, log 127). -/
def execMharr (h : BitVec 4) (s : State) : Host.Outcome State Fault Refusal :=
  .next (if s.hingeFree s.crew h then
      ((s.setCrew (s.crew.modHinge h (fun g => { g with rc := g.rc + 1 }))).seqNext).hingeMoved s.crew.uid
    else s.setSeq { s.crew.seq with state := .holding, hinge := h })

/-! ### Tile operations: begun and ended in one step, where the array is free (R168) -/

/-- The array of the crew's core is free. -/
def State.arrayFree (s : State) : Bool := (s.core s.crew.die s.crew.core).array.isNone

/-- A tile operation of the crew in hand, whole: its fault, or what it writes, and the context goes on, its turn taken. While the array
is busy the operation does not begin. All its reads fall together at its start and all its writes at its end (DESIGN CHOICE, log 106). -/
def State.tileOp (s : State) (r : TileRes) : State :=
  if s.arrayFree then
    match r with
    | .bad code sub addr => s.seqFault code sub addr
    | .ok ws _ =>
      let s := s.modCore s.crew.die s.crew.core (fun k => { k with turn := s.crew.uid })
      ((s.setCrew (s.crew.tileWriteAll ws)).wakeLatches s.crew.uid).seqNext
  else s

/-- mzero (R175). -/
def execMzero (acc : BitVec 4) (s : State) : Host.Outcome State Fault Refusal := .next (s.tileOp (mzeroEffect s.crew acc))

/-- mldo (R176). -/
def execMldo (slot : BitVec 6) (q : BitVec 3) (side : Bool) (imm : BitVec 12) (s : State) : Host.Outcome State Fault Refusal :=
  .next (s.tileOp (mldoEffect s.crew slot q side imm))

/-- mdeq (R177). -/
def execMdeq (slot : BitVec 6) (q : BitVec 3) (blk : BitVec 8) (ftz : Bool) (s : State) : Host.Outcome State Fault Refusal :=
  .next (s.tileOp (mdeqEffect s.crew slot q blk ftz))

/-- mhad (R178). -/
def execMhad (n : BitVec 2) (slot : BitVec 6) (fmt : BitVec 3) (ftz : Bool) (s : State) : Host.Outcome State Fault Refusal :=
  .next (s.tileOp (mhadEffect s.crew n slot fmt ftz))

/-- mqnt (R179). -/
def execMqnt (dst src : BitVec 6) (gb4 ftz : Bool) (s : State) : Host.Outcome State Fault Refusal :=
  .next (s.tileOp (mqntEffect s.crew dst src gb4 ftz))

/-- mmla (R180). -/
def execMmla (acc : BitVec 4) (sa sb : BitVec 6) (fa fb : BitVec 3) (ftz : Bool) (s : State) : Host.Outcome State Fault Refusal :=
  .next (s.tileOp (mmlaEffect s.crew acc sa sb fa fb ftz))

/-- msto (R181). -/
def execMsto (q : BitVec 3) (acc : BitVec 4) (out : BitVec 2) (rs : Bool) (slot : BitVec 6) (ftz : Bool) (s : State) :
    Host.Outcome State Fault Refusal :=
  .next (s.tileOp (mstoEffect s.crew q acc out rs slot ftz))

/-! ### The array taking operations one by one (R168, R171) -/

/-- What a context reads next; neither while the word comes from the host. -/
inductive SeqGot where
  | wait
  | instr (i : Instr)
  | bad (code sub addr : Nat)

/-- Fetch and decode the stream word at the context's PC (R47, R57, R169) (DEDUCED, log 44). -/
def State.seqFetch (s : State) : State × SeqGot :=
  let pc := s.crew.seq.pc
  match s.fetchWord pc.toNat with
  | (s, .wait) => (s, .wait)
  | (s, .bad c sub) => (s, .bad c sub pc.toNat)
  | (s, .word w) => match decodeSeq w with
    | .ok i => (s, .instr i)
    | .error (.illegal n) => (s, .bad 0x10 n 0)
    | .error _ => (s, .bad 0x10 1 0)

/-- The tile operation that a crew's context has next, if it has one ready. -/
def State.readyTile (s : State) (c : Nat) : Option (State × Instr) :=
  match s.takeCrew c with
  | none => none
  | some t =>
    if t.crew.seq.state != .running then none
    else match t.seqFetch with
      | (t, .instr i) => (tileEffect t.crew i).map (fun _ => (t, i))
      | _ => none

/-- The crews of a core after the one served last, then the others: round-robin order (R168). -/
def State.tileOrder (s : State) (d : DieId) (c : CoreId) : List Nat :=
  let us := (s.crews.filter (fun k => k.die == d && k.core == c && k.hasSeq && !k.preempted && !s.halting k)).map (fun k => k.uid)
  let last := (s.core d c).turn
  us.filter (fun u => last < u) ++ us.filter (fun u => u ≤ last)

/-- It is a crew's turn for the array: no context before it in the order has an operation ready (R168). -/
def State.tileTurn (s : State) (k : Crew) : Bool :=
  (((s.tileOrder k.die k.core).takeWhile (fun c => c != k.uid)).all (fun c => (s.readyTile c).isNone))

/-- TILE_OP_START (R168, R171): the free array takes the next ready operation and reads what it reads, all at once (DESIGN CHOICE,
log 106). The context's PC is that of the operation's word until it ends (DESIGN CHOICE, log 127). -/
def execTileOpStart (d : DieId) (core : CoreId) (s : State) : Host.Outcome State Fault Refusal :=
  let s := s.putBack
  .next (if (s.core d core).array.isSome then s
    else match (s.tileOrder d core).findSome? (fun c => s.readyTile c) with
      | none => s
      | some (t, i) => match tileEffect t.crew i with
        | none => s
        | some (.bad code sub addr) => (t.seqFault code sub addr).putBack
        | some (.ok ws us) =>
          let u := t.crew.uid
          (t.modCore d core (fun k =>
            { k with array := some { crew := u, writes := ws, uses := us, gone := 0 }, turn := u })).putBack)

/-- TILE_OP_COMPLETE (R168, R171): the operation writes its results, its context goes on at the next word, or stops there if its crew's
strands have all been released meanwhile or the crew has ended (R9, R170), and slots released in the meantime come free (R162). -/
def execTileOpComplete (d : DieId) (core : CoreId) (s : State) : Host.Outcome State Fault Refusal :=
  let s := s.putBack
  .next (match (s.core d core).array with
    | none => s
    | some a =>
      let s := s.modCore d core (fun k => { k with array := none })
      let s := s.modCrew a.crew (fun c =>
        let c := c.tileWriteAll a.writes
        if c.seq.state == .running then { c with seq := { c.seq with pc := c.seq.pc + 4 } } else c)
      let s := if s.crewIdle a.crew || (s.anyCrew a.crew).any (fun k => k.ended.isSome) then s.stopSeq a.crew else s
      (s.wakeLatches a.crew).serveClaims d core)

end Sys2Proof.Machine
end

