-- ==== Sys2Proof/Machine/Preempt.lean ====
section
/-! DEFINITION. Device errors (R304, R305), the loss check of a recovery (R217), pre-emption with its context image (R306 to
R310), and TLB invalidation (R289). -/

namespace Sys2Proof.Machine

open Sys2Proof

/-! ### The memory that the service OS has in use -/

/-- The bytes of a posted-list area: 4,096 entries (R261) of 64 bytes (DESIGN CHOICE, log 61). -/
def postedArea : Nat := 4096 * 64

/-- Memory is in use from now on: the service OS takes none of it for anything else. -/
def State.useMemory (s : State) (rs : List (Nat × Nat)) : State := { s with inUse := s.inUse ++ rs }

/-- The memory that registers of a die name: the root table, the rings, the posted lists (R267, R334). -/
def Die.named (x : Die) : List (Nat × Nat) :=
  [(x.ctl.root, 65536), (x.ctl.trap.base, 64 * 2 ^ x.ctl.trap.log), (x.ctl.flt.base, 32 * 2 ^ x.ctl.flt.log)]
    ++ (x.ctl.dq.toList.filter (fun g => g.log != 0)).flatMap (fun g => [(g.base, 64 * 2 ^ g.log), (g.headAt, 8)])
    ++ (x.key.ctxs.toList.filter (fun k => k.configured)).flatMap (fun k => [(k.ring.toNat, 4160 * k.cap), (k.plist.toNat, postedArea)])

/-- Some of a range is in use. -/
def State.used (s : State) (pa len : Nat) : Bool :=
  (s.inUse ++ s.dies.toList.flatMap Die.named).any (fun r => pa < r.1 + r.2 && r.1 < pa + len)

/-- What a range leaves of another. -/
def rangeLess (pa len : Nat) (r : Nat × Nat) : List (Nat × Nat) :=
  if r.1 + r.2 ≤ pa || pa + len ≤ r.1 then [r]
  else [(r.1, pa - r.1), (pa + len, r.1 + r.2 - (pa + len))].filter (fun x => x.2 != 0)

/-- The service OS frees memory that it had in use: a replica frame that no die can read any more (R290), or the memory of a context image
that has been restored (R310). -/
def State.freeMemory (s : State) (pa len : Nat) : State :=
  { s.putBack with inUse := s.putBack.inUse.flatMap (rangeLess pa len) }

/-! ### Discarding the work of a die (R305) -/

/-- A crew ends where it stands: its strands, engine operations and context stop, and its receives are let go as at completion
(R261, R305). -/
def State.dropCrew (s : State) (k : Crew) : State :=
  let us := (s.strandsOf k.uid).map (fun x => x.uid)
  let s := (s.dropHeld k.uid k.bin.held).unbindCrew k
  let s := s.modKey k.die (fun y => { y with
    sends := y.sends.filter (fun x => x.send.crew != k.uid),
    recvs := y.recvs.filter (fun x => !(x.crew == k.uid && kSpad x.desc)) })
  let s : State := { s with strands := s.strands.filter (fun x => x.crew != k.uid), crews := s.crews.filter (fun x => x.uid != k.uid) }
  let s := s.modCtl k.die (fun c => { c with trapWait := c.trapWait.filter (fun u => !us.contains u),
                                              trapOut := c.trapOut.filter (fun x => !us.contains x.2),
                                              fltEnds := c.fltEnds.filter (fun x => x.1 != k.uid) })
  s.modCore k.die k.core (fun c =>
    { c with claims := c.claims.filter (fun u => !us.contains u),
             array := match c.array with
               | some a => if a.crew == k.uid then none else some a
               | none => none })

/-- The ending of a discarded launch (R305, R333): no counter, the kill records of its crews. -/
def Grid.discarded (g : Grid) (ks : List Crew) (id : Nat) : Ending :=
  let by_ := g.killBy ++ (ks.filter (fun k => k.kills != 0)).map (fun k => (k.num, k.firstOff, k.firstPc))
  let kb := leastBy (fun (x : Nat × Word × Word) => x.1) by_
  { id := id, queue := g.queue, tag := g.tag, status := stDiscarded, rec_ := none,
    kills := ks.foldl (fun m k => m ||| k.kills) g.kills, firstOff := (kb.map (fun x => x.2.1)).getD 0,
    firstPc := (kb.map (fun x => x.2.2)).getD 0, counter := 0, grid := some g.slot }

/-- Discard all work in flight on a die (R305): every admitted crew ends, every launch with an admitted crew reports DISCARDED,
and launches not yet admitted stay in their queues. -/
def State.discardDie (s : State) (d : DieId) : State :=
  let ks := s.crews.filter (fun k => k.die == d)
  let gs := (s.die d).port.grids
  let ends := (below gs.length).zip gs |>.map (fun x => x.2.discarded (ks.filter (fun k => k.slot == x.2.slot)) (s.fresh + x.1))
  let s := ks.foldl State.dropCrew s
  ({ s with fresh := s.fresh + gs.length } : State).modPort d (fun p =>
    { p with grids := [], ends := p.ends ++ ends, queues := p.queues.map (fun q => stampHead s.time (q.filter (fun e => e.grid.isNone))),
             reserved := match p.reserved with
               | some q => match p.queues[Fin.ofNat 64 q].head? with
                 | some e => if e.grid.isSome then none else some q
                 | none => none
               | none => none })

/-- The record of LINE_LOST or MACHINE (R303): GRID and CREW are 0 (DESIGN CHOICE, log 117). -/
def deviceRec (code sub : Nat) (addr : Word) : FaultRec :=
  { code := BitVec.ofNat 8 code, sub := BitVec.ofNat 8 sub, lane := 0xFF, strand := 0xFF, eng := true, remn := false, defer := true,
    pc := 0, addr := addr, grid := 0, crew := 0 }

/-- Report LINE_LOST or MACHINE: an event of type 2 on the management function (R303, R330). A full queue holds it (DEDUCED, log 66). -/
def State.report (s : State) (r : FaultRec) : State :=
  let b : Event := [2] ++ List.replicate 31 0 ++ r.bytes
  if s.mgmt.free = 0 then { s with mgmt := { s.mgmt with held := s.mgmt.held ++ [b] } } else { s with mgmt := s.mgmt.event b }

/-- ECC corrects an error in storage of a die: it is counted, and nothing else is seen of it (R304). -/
def State.eccCorrect (s : State) (d : DieId) : State := s.putBack.modDie d (fun x => { x with corrected := x.corrected + 1 })

/-- A parity error drops an L1 copy (R304). -/
def State.parityDrop (s : State) (d : DieId) (c : CoreId) (sec : Nat) : State := s.putBack.modL1 d c (fun l => l.filter (fun x => x.sec != sec))

/-- A parity error drops the translations of an address from the TLB of a core, or from the die's (R304). -/
def State.parityTlb (s : State) (d : DieId) (c : Option CoreId) (va : Nat) : State :=
  let keep := fun (t : List TlbEntry) => t.filter (fun l => !l.maps va)
  (match c with
    | some c => s.putBack.modCore d c (fun k => { k with tlb := keep k.tlb })
    | none => s.putBack.modDie d (fun x => { x with l2tlb := keep x.l2tlb })).wakeMig d

/-- MACHINE (R304, R305): an error that check codes cannot correct (DEDUCED, log 67). -/
def execMachine (d : DieId) (sub : BitVec 8) (addr : BitVec 64) (s : State) : Host.Outcome State Fault Refusal :=
  .next (let s := s.putBack
    if sub.toNat < 1 || 6 < sub.toNat then s else (s.report (deviceRec 0x13 sub.toNat addr)).discardDie d)

/-- LOSS_CHECK (R217): 4 µs after RECREATE. Where a sector is not intact the line is lost: it is reported, and the work of every
die that reported tokens of it, and of the die whose request was active, is discarded. A recovery that still waits for a RECACK completes
here: the home takes every sector's tokens anew and serves (step 4), though the holder that has not answered may still have old ones, which
it drops when the RECREATE reaches it (DESIGN CHOICE, log 122). -/
def execLossCheck (line : Nat) (s : State) : Host.Outcome State Fault Refusal :=
  .next (let s := s.putBack
    let h := s.homeOfLine line
    match (s.home h).recov.find? (fun r => r.line == line) with
    | none => s
    | some r =>
      if s.time < r.start + 4000 then s
      else
        let s := if r.served then s else s.finishRecovery h line
        let s := s.modHome h (fun q => { q with recov := q.recov.filter (fun x => x.line != line) })
        if r.intact = 0xFF then s
        else
          let hit := fun (d : DieId) => r.acks.any (fun a => a == (.die d, true)) || r.active == some (.die d)
          let s := s.report (deviceRec 0x12 0 (BitVec.ofNat 64 (128 * line)))
          (((below 8).map (Fin.ofNat 8)).filter hit).foldl State.discardDie s)

/-! ### The context image (R308, R309) -/

/-- Fill a section to a 64-byte boundary. -/
def sect (b : List Byte) : List Byte := padTo ((b.length + 63) / 64 * 64) b

/-- One bank: the bitmap of its nonzero 64-byte chunks, then those chunks (R309). -/
def packBank (b : List Byte) : List Byte :=
  let cs := (below 64).map (fun c => (b.drop (64 * c)).take 64)
  let nz := fun (c : List Byte) => c.any (fun x => x != 0)
  leBytes 8 (((below 64).filter (fun i => nz (cs.getD i []))).foldl (fun m i => m + 2 ^ i) 0) ++ (cs.filter nz).flatten

/-- A region compressed bank by bank, padded with zeros to whole banks (R309). -/
def packRegion (b : List Byte) : List Byte :=
  ((below ((b.length + 4095) / 4096)).map (fun i => packBank (padTo 4096 ((b.drop (4096 * i)).take 4096)))).flatten

/-- The code of a strand's state (R308). -/
def StrandState.code : StrandState → Nat
  | .ready => 0
  | .issuing => 1
  | .parked => 2
  | .ejectWait => 3
  | .done => 4

/-- The code of a park reason, and the park data (R308): of a `pause` the cycles that remain at CLOCK `clock`. They are 0 for `gbar`, and for
a `trap` whose call record has no ring index yet (DESIGN CHOICE, log 118). -/
def parkCode (clock : Nat) : Option Park → Nat × Nat
  | none => (0, 0)
  | some .remoteLoad => (1, 0)
  | some (.wait w) => (2, match w with
      | .pause t => t - clock
      | .latch off _ => off
      | _ => 0)
  | some (.trap r) => (3, r.getD 0)
  | some .fault => (4, 0)
  | some (.hinge h) => (5, h.toNat)
  | some (.barrier b) => (6, (b.map (fun x => x.toNat)).getD 0)
  | some .acquire => (7, 0)
  | some .join => (8, 0)

/-- The fault a strand is parked with is DEBUG with one of two subcodes. -/
def Strand.debugFault (x : Strand) (a b : Byte) : Bool := x.faulted.any (fun f => f.1.code == 0x0D && (f.1.sub == a || f.1.sub == b))

/-- Where a strand goes on once it resumes (R13, R113, R308): parked, at the unit that parked it, but after DEBUG subcode 1 or 2 at the
next unit (R314). -/
def Strand.savedPc (x : Strand) : Word := if x.state == .parked && !x.debugFault 1 2 then x.unitPc else x.pc

/-- The vector registers, in whole granules, that a strand's family holds (R29, R33): none once it is DONE (R25). -/
def Strand.regsHeld (k : Crew) (x : Strand) : Nat :=
  if x.state == .done then 0 else granules (if x.full then k.hdr.vregs else k.hdr.vprologue)

/-- A strand record at CLOCK `clock` (R308): 1,024 bytes. -/
def strandRecord (k : Crew) (clock parent : Nat) (x : Strand) : List Byte :=
  let p := parkCode clock x.park
  let pc := x.savedPc
  let held := x.regsHeld k / 8
  let mc : Nat × Bool × Word := match x.mcast with
    | some m => (m.group.toNat, m.failed != 0, m.failed)
    | none => (0, false, 0)
  padTo 1024 (((below 63).map (fun i => leBytes 8 (x.rdS (BitVec.ofNat 6 (i + 1))).toNat)).flatten ++ leBytes 8 pc.toNat
    ++ ((below 7).map (fun i => leBytes 8 (x.rdP (BitVec.ofNat 3 (i + 1))).toNat)).flatten
    ++ leBytes 8 x.live.toNat ++ leBytes 8 x.returned.toNat ++ leBytes 4 x.mode.toNat ++ leBytes 1 x.state.code ++ leBytes 1 p.1
    ++ leBytes 1 x.joins ++ leBytes 1 ((if x.isRemnant then 1 else 0) + (if x.skipBrk || x.debugFault 3 4 then 2 else 0))
    ++ leBytes 2 parent ++ leBytes 1 held ++ leBytes 5 0
    ++ leBytes 8 x.stklo.toNat ++ leBytes 8 x.fflags.toNat ++ leBytes 8 x.lfault.toNat ++ leBytes 8 x.progress.toNat
    ++ leBytes 8 x.mcerr.toNat ++ leBytes 8 p.2 ++ leBytes 8 (maskOf (x.busy.map (fun b => b.1))).toNat
    ++ leBytes 1 mc.1 ++ leBytes 7 (if mc.2.1 then 1 else 0) ++ leBytes 8 mc.2.2.toNat)

/-- The strands that have a record: the roots in STRAND order (one that was born DONE among them), then the live remnants in the
order they were created (R31, R308). -/
def State.recorded (s : State) (k : Crew) : List Strand :=
  let xs := s.strandsOf k.uid
  (below k.hdr.strands).map (fun i => (xs.find? (fun x => x.parent.isNone && x.idx == i)).getD { Strand.blank with idx := i })
    ++ xs.filter (fun x => x.parent.isSome && x.state != .done)

/-- A strand's vector allocation: register vN of width L from byte 4LN on (R309). A strand that is DONE has none. -/
def vectorBytes (k : Crew) (x : Strand) : List Byte :=
  let n := x.regsHeld k
  let b := k.bank x.idx
  ((below n).map (fun v => ((below k.hdr.lanes).map (fun i => leBytes 4 (b.lane v i).toNat)).flatten)).flatten

/-- The synchronisation section (R308): 896 bytes. Differences of a Hinge are those of its participants `live`, by STRAND; a
strand that has reached DONE has 0. -/
def syncBytes (k : Crew) (gphase : Nat) (live : List Nat) : List Byte :=
  padTo 896 (((below 16).map (fun i => let b := at16 k.bars i; leBytes 4 (b.phase % 2 * 65536 + b.arrived.toNat))).flatten
    ++ leBytes 4 (gphase % 2 * 65536 + k.garrived.toNat)
    ++ ((below 16).map (fun i =>
        let h := at16 k.hinges i
        ((below 16).map (fun j => leBytes 1 (if live.contains j then at16 h.ac j - h.mc else 0))).flatten
          ++ ((below 16).map (fun j => leBytes 1 (if live.contains j then h.rc - at16 h.wc j else 0))).flatten
          ++ leBytes 8 h.mc ++ leBytes 8 h.rc)).flatten)

/-- The header of an image (R308): 256 bytes. -/
def State.imageHeader (s : State) (k : Crew) (n : Nat) : List Byte :=
  let bound := maskOf ((below 64).filter (fun c => (s.kctx k.die (Fin.ofNat 64 c)).bound == some k.uid))
  padTo 256 (leBytes 4 0x48454C44 ++ leBytes 2 1 ++ leBytes 2 n ++ leBytes 8 k.hdrAddr.toNat
    ++ leBytes 8 (k.slot.val * 2 ^ 59 + k.num % 2 ^ 40) ++ leBytes 4 k.hdr.scratch ++ leBytes 1 k.slots.length ++ leBytes 1 k.tiles.length
    ++ leBytes 1 k.seq.state.code ++ leBytes 1 0 ++ leBytes 4 ((k.seq.pc - k.seq.start).toNat / 4) ++ leBytes 4 0
    ++ ((below 8).map (fun i => leBytes 8 k.seq.q[Fin.ofNat 8 i].toNat)).flatten ++ leBytes 8 k.energy.toNat
    ++ leBytes 8 k.kills.toNat ++ leBytes 8 k.firstOff.toNat ++ leBytes 8 k.firstPc.toNat ++ leBytes 8 bound.toNat)

/-- The context image of a crew (R308, R309). -/
def State.contextImage (s : State) (k : Crew) : List Byte :=
  let xs := s.recorded k
  let at_ := fun (x : Strand) => match x.parent with
    | none => 0xFFFF
    | some u => (xs.findIdx? (fun y => y.uid == u)).getD 0xFFFF
  let gp := match s.gridAt k.die k.slot with
    | some g => g.gphase
    | none => 0
  sect (s.imageHeader k xs.length) ++ (xs.map (fun x => strandRecord k (s.die k.die).clock (at_ x) x)).flatten
    ++ sect ((xs.filter (fun x => x.parent.isNone)).map (fun x => packRegion (vectorBytes k x))).flatten
    ++ sect (packRegion (k.spBytes 0 k.hdr.scratch)) ++ sect (syncBytes k gp ((s.hingeParticipants k.uid).map (fun x => x.idx)))
    ++ sect (k.streams.map (fun x => padTo 64 x.desc ++ leBytes 8 x.next)).flatten
    ++ (k.slots.map (fun x => (below 4096).map x.byte ++ (below 2048).map x.sideByte)).flatten
    ++ (k.tiles.map (fun t => ((below 4096).map (fun w => leBytes 4 (lookD 0 w t).toNat)).flatten)).flatten

/-! ### Pre-emption (R306, R307) -/

/-- A strand stands at a run boundary (R45): one that issues has not begun its run, one that is READY has none in hand, and nothing it
has asked for is on its way. -/
def Strand.atBoundary (x : Strand) : Bool :=
  x.asked.isEmpty && x.near.isNone && x.heldSt.isEmpty && match x.state with
    | .issuing => x.run == 0 && x.pc == x.unitPc && x.got.isEmpty && x.fills.isEmpty && x.wants.isEmpty
    | .ready => x.run == 0
    | _ => true

/-- What the device waits for before it saves a crew (R306) (DEDUCED, log 69). -/
def State.canSave (s : State) (k : Crew) : Bool :=
  let y := (s.die k.die).key
  (s.strandsOf k.uid).all (fun x => x.atBoundary && !(x.remotes.any (fun m => m.load)) && match x.mcast with
      | some m => m.await.isEmpty
      | none => true)
    && k.copies.isEmpty && k.bin.queue.isEmpty && !((s.die k.die).port.asks.any (fun a => a.crew == k.uid)) && !(y.asks.any (fun a => a.crew == k.uid)) && !((s.die k.die).ctl.fltEnds.any (fun x => x.1 == k.uid))
    && !(y.recvs.any (fun x => x.crew == k.uid && !x.orphan && x.msg.isSome && (x.pull || kSpad x.desc)))
    && match (s.core k.die k.core).array with
      | some a => a.crew != k.uid
      | none => true

/-- How a strand is saved (R306): an `acquire`, a `waitc` and a parked `mclaim` are made again, a `pause` goes on to its CLOCK (R78),
and whatever goes on does so in a new run (R13, R45). -/
def Strand.saved (seq : Nat) (x : Strand) : Strand :=
  let again := { (x.rewind.clearUnit.toReady seq) with pc := x.unitPc, run := 0 }
  if x.state == .issuing then { x.toReady seq with run := 0 }
  else match x.park with
    | some .acquire => again
    | some (.wait (.waitc _ _ _ _ _)) => again
    | some (.wait .slots) => again
    | _ => { x with checked := [], run := 0 }

/-- Save a crew: its image is written, into memory that is in use from then on, it leaves its core, and what it held there comes free
(DEDUCED, log 60). -/
def State.saveCrew (s : State) (k : Crew) (image : Nat) : State :=
  let us := (s.strandsOf k.uid).map (fun x => x.uid)
  let s := { (s.modStrands (fun x => x.crew == k.uid) (Strand.saved s.fresh)) with fresh := s.fresh + 1 }
  let b := s.contextImage k
  let s := (s.devWrite k.die image b).useMemory [(image, b.length)]
  let s := s.modCrew k.uid (fun k => { k with preempted := true, stopping := none })
  let s := s.modCore k.die k.core (fun c => { c with claims := c.claims.filter (fun u => !us.contains u) })
  (s.serveCore k.die k.core).serveClaims k.die k.core

/-- The memory that the service OS names for a crew's image: 64-byte aligned, inside physical memory, and in use for nothing else. -/
def State.imageFits (s : State) (k : Crew) (image : Nat) : Bool :=
  let n := (s.contextImage k).length
  image % 64 == 0 && s.paOk image && s.paOk (image + n - 1) && !s.used image n

/-- PREEMPT (R306 to R309): the service OS names the memory of the image, 64-byte aligned and in use for nothing else. From then on the crew's strands stop
at run boundaries, and it is saved once nothing of R306 is outstanding. The crews of a COOP grid stop once an image has been named for
each of them (R239) (DEDUCED, log 68). -/
def execPreempt (c image : Nat) (s : State) : Host.Outcome State Fault Refusal :=
  .next (let s := s.putBack
    match s.crewOf c with
    | none => s
    | some k =>
      if k.preempted || !s.imageFits k image then s
      else
        let k := { k with stopping := some image }
        let s := s.modCrew c (fun _ => k)
        if s.halting k && s.canSave k then s.saveCrew k image else s)

/-! ### Resuming (R307, R310) -/

/-- An effect kept for a crew is applied (R85, R307). -/
def State.applyKept (s : State) (c : Nat) : Kept → State
  | .status op v => s.deliver op v
  | .record off b => (s.modCrew c (fun k => k.spWrite off b)).wakeLatches c
  | .latch off => s.updateLatch c off (-1)
  | .response u st vals => s.respond u st vals

/-- The messages kept for a crew's receives are landed, and pulled where they are header-only; their ring entries come free
(R307). -/
def State.landKept (s : State) (d : DieId) (c : Nat) : State :=
  ((s.die d).key.recvs.filter (fun x => x.crew == c)).foldl (fun s x => match x.ring, x.msg with
    | some i, some m => (s.freeEntry d x.ctx i).takeMsg d x m
    | _, _ => s) s

/-- A crew goes on on a core, whose L1 is emptied first (R310); `none` where the core has no room. -/
def State.resumeCrew (s : State) (k : Crew) (core : CoreId) : Option State :=
  (s.resumeOn k core).map (fun s =>
    let s := s.modL1 k.die core (fun _ => [])
    let s := s.modCrew k.uid (fun x => { x with kept := [] })
    let s := k.kept.foldl (fun s e => s.applyKept k.uid e) s
    ((s.recount k.uid).landKept k.die k.uid).pumpKeyway k.die)

/-- The other crews of a COOP grid go on with it, each on the best core it fits (R239, R319). -/
def State.resumeRest (s : State) (d : DieId) : List Crew → Option State
  | [] => some s
  | k :: t => (s.bestCore d (fun c => s.resumeCrew k c)).bind (fun s => s.resumeRest d t)

/-- A ready head of higher effective priority comes before a crew that awaits its resumption: one that could be admitted now, or one whose
header has not been read yet (R317; DEDUCED, log 53). -/
def State.headFirst (s : State) (d : DieId) (prio : Nat) : Bool :=
  allOfQueues.any (fun q => match s.queue d q with
    | e :: _ => e.hdr.isNone && e.waits.all (fun w => w.met) && decide (s.effPrio e < prio)
    | [] => false)
    || (s.tryable d).any (fun x => decide (s.effPrio x.e < prio) && match s.admitHead d x with
      | .done _ => true
      | _ => false)

/-- CREW_RESUME (R239, R310, R317): not while a head of higher effective priority goes first. A COOP grid is resumed as a whole, once all of
it is pre-empted (DEDUCED, log 68). -/
def execCrewResume (c : Nat) (core : CoreId) (s : State) : Host.Outcome State Fault Refusal :=
  .next (let s := s.putBack
    match s.crewOf c with
    | none => s
    | some k =>
      if !k.preempted then s
      else
        let rest := if k.hdr.coop then (s.crewsOf k.die k.slot).filter (fun x => x.uid != c) else []
        if rest.all (fun x => x.preempted) && !s.headFirst k.die k.rec_.prio then ((s.resumeCrew k core).bind (fun t => t.resumeRest k.die rest)).getD s else s)

/-! ### TLB invalidation (R289) -/

/-- Drop a range from every TLB of a die (R289). -/
def State.dropTlb (s : State) (d : DieId) (va len : Nat) : State :=
  let keep := fun (t : List TlbEntry) => t.filter (fun l => !l.meets va len)
  s.modDie d (fun x => { x with l2tlb := keep x.l2tlb, cores := x.cores.map (fun c => { c with tlb := keep c.tlb }) })

/-- An access of an engine is under way: an answer, a sector or an acknowledgement is still to come. -/
def CopyOp.underWay (o : CopyOp) : Bool := ((o.txn.isSome || o.home.isSome) && o.reply.isNone) || o.want.isSome || o.mcast.any (fun m => !m.1.isEmpty)

/-- An access that translated through the old entries is not yet performed, or has not returned its value (R289) (DEDUCED, log 70). -/
def State.invalBusy (s : State) (d : DieId) (v : Inval) : Bool :=
  let y := (s.die d).key
  s.strands.any (fun x => s.strandOn d x && (x.checked.any (fun l => l.2.meets v.va v.len) || !x.hstOut.isEmpty || !x.heldSt.isEmpty
      || x.mcast.any (fun m => m.await.any (fun a => v.va ≤ a.2.va.toNat && a.2.va.toNat < v.va + v.len))
      || x.remotes.any (fun m => m.parts.any (fun p => v.va ≤ p.va.toNat && p.va.toNat < v.va + v.len))))
    || (s.die d).pend.any (fun e => e.since < v.seq)
    || s.crews.any (fun k => k.die == d && k.copies.any CopyOp.underWay)
    || y.sends.any (fun x => x.cur.underWay) || y.recvs.any (fun x => x.cur.underWay) || (s.die d).far.any (fun f => f.reply.isNone)

/-- The write of an agent of the device that waits for no answer. -/
def agentWrite : Requester → Bool
  | .die _ txn => txn == 0
  | .port _ _ => false

/-- A home has a write of an agent queued: a table entry that the service OS has written may still be on its way to memory. -/
def State.agentQueued (s : State) : Bool :=
  s.homes.any (fun h => h.2.queue.any (fun x => match x.2 with
    | .hst m => agentWrite m.src
    | .atom m => agentWrite m.src
    | .hld _ => false))

/-- Once the table entries that the service OS has written are in memory, the TLBs drop again the ranges of the invalidations that were
requested before: a walk in between may have read an old entry (R289). -/
def State.dropAgain (s : State) (d : DieId) : State :=
  let vs := (s.die d).invals.filter (fun v => v.again)
  if vs.isEmpty || s.agentQueued then s
  else
    let s := vs.foldl (fun s v => s.dropTlb d v.va v.len) s
    let s := s.modDie d (fun x => { x with invals := x.invals.map (fun v => if v.again then { v with again := false, seq := s.fresh } else v) })
    ({ s with fresh := s.fresh + 1 } : State).wakeMig d

/-- The invalidations of a die that are done complete, and their requests are answered; the TLBs drop what they have cached of the ranges
since, so that whatever translates from now on uses the entries as they stand; held writes and engines translate again (R288, R289). -/
def State.invalGo (s : State) (d : DieId) : State :=
  let s := s.dropAgain d
  let done_ := (s.die d).invals.filter (fun v => !v.again && !s.invalBusy d v)
  if done_.isEmpty then s
  else
    let s := done_.foldl (fun s v => s.dropTlb d v.va v.len) s
    let s := s.modDie d (fun x => { x with
      invals := x.invals.filter (fun v => !done_.contains v),
      face := { x.face with responses := x.face.responses ++ done_.filterMap (fun v => v.tag.map (fun t => { tag := t.1, status := 0, value := t.2 })) } })
    (s.wakeMig d).pumpKeyway d

/-- Begin an invalidation: the TLBs drop the range now, and writes that it held translate again (R288). -/
def State.invalidate (s : State) (d : DieId) (va len : Nat) (tag : Option (BitVec 32 × Word)) : State :=
  let s := (s.dropTlb d va len).wakeMig d
  ({ (s.modDie d (fun x => { x with invals := x.invals ++ [{ va := va, len := len, seq := s.fresh, again := s.agentQueued, tag := tag }] })) with
    fresh := s.fresh + 1 } : State).invalGo d

/-- TLB_INVALIDATE (R289): the service OS requests the invalidation of a range, which completes when nothing is left that it waits for. -/
def execTlbInvalidate (d : DieId) (va len : Nat) (s : State) : Host.Outcome State Fault Refusal :=
  .next (s.putBack.invalidate d va len none)

end Sys2Proof.Machine
end

