-- ==== Sys2Proof/Machine/Requests.lean ====
section
/-! DEFINITION. The requests of the host (R330 to R333, R336): launches, copies, mappings, exports and imports, signals, queries,
resets, file extents, firmware, and the debugger's writes. A request has its effect, or completes with the status the manual
gives; the response goes to its function. A request to a function that does not take requests yet has no effect. -/

namespace Sys2Proof.Machine

open Sys2Proof

/-! ### Responses (R331, R337) -/

/-- Statuses of responses (R331). -/
def rsOK : Nat := 0
def rsBADREQ : Nat := 1
def rsDENIED : Nat := 2
def rsNOSPACE : Nat := 3
def rsREVOKED : Nat := 4
def rsDISCARDED : Nat := 5
def rsFAULT : Nat := 6

/-- Write a response of a die's function. -/
def State.answer (s : State) (d : DieId) (tag : BitVec 32) (status : Nat) (value : Word) : State :=
  s.modDie d (fun x => { x with face := { x.face with
    responses := x.face.responses ++ [{ tag := tag, status := status, value := value }] } })

/-- Write a response of the management function. -/
def State.answerM (s : State) (tag : BitVec 32) (status : Nat) : State :=
  { s with mgmt := { s.mgmt with responses := s.mgmt.responses ++ [{ tag := tag, status := status, value := 0 }] } }

/-- A function takes requests other than QUERY: CONFIG_UNLOCKED or RUN (R337). -/
def HostFace.takes (h : HostFace) : Bool := h.tdisp == .configUnlocked || h.tdisp == .run

/-- A request to a die's function: the die is there and ready, and its TDISP state takes requests (R337, R338, R341). -/
def State.dieRequest (s : State) (d : DieId) (tag : BitVec 32) (k : State → State) : State :=
  let s := s.putBack
  if !(s.die d).present || !(s.die d).ready then s
  else if !(s.die d).face.takes then s.answer d tag rsDENIED 0
  else k s

/-- A COPY or SIGNAL of a submission queue is not complete: the requests behind it wait, for a queue completes in order (R331). -/
def State.subBusy (s : State) (d : DieId) (q : QueueId) : Bool := (s.die d).copies.any (fun c => c.queue == q.val)

/-- A request of a submission queue: it waits for those before it, whatever it then comes to (R331). -/
def State.subRequest (s : State) (d : DieId) (q : QueueId) (tag : BitVec 32) (k : State → State) : State :=
  if s.putBack.subBusy d q then s.putBack else s.dieRequest d tag k

/-! ### LAUNCH, COPY, SIGNAL, RESET -/

/-- LAUNCH (R315, R331): queued with its waits; a nonzero wait address that is not a multiple of 8 completes BADREQ (DEDUCED, log 82). -/
def execLaunch (d : DieId) (q : QueueId) (tag : BitVec 32) (record : List Byte) (waits : List (BitVec 64 × BitVec 64)) (s : State) :
    Host.Outcome State Fault Refusal :=
  .next (s.subRequest d q tag (fun s =>
      let ws := waits.filter (fun w => w.1 != 0)
      if 4 < waits.length || ws.any (fun w => w.1.toNat % 8 != 0) then s.answer d tag rsBADREQ 0
      else (s.enqueue d q (padTo 64 record) ws tag false).answer d tag rsOK 0))

/-- Every chunk of a physical range is this die's (R261, R297, R331). -/
def State.ownRange (s : State) (d : DieId) (pa len : Nat) : Bool :=
  s.inDevice pa && s.inDevice (pa + len - 1) && pa / 2 ^ 38 == (pa + len - 1) / 2 ^ 38
    && (below ((pa + len - 1) / 2 ^ 30 - pa / 2 ^ 30 + 1)).all (fun i => ownerDie ((pa / 2 ^ 30 + i) * 2 ^ 30) == d)

/-- An extent of a die. -/
def State.extent (s : State) (d : DieId) (id : Nat) : Option Extent := (s.die d).extents.find? (fun e => e.id == id)

/-- COPY (R331, R334, R336): checked now, performed by COPY_REQUEST_COMPLETE. An extent that is revoked, or being so, ends it at once. -/
def execCopy (d : DieId) (q : QueueId) (tag : BitVec 32) (src dst len : BitVec 64) (ext flags : BitVec 32) (s : State) :
    Host.Outcome State Fault Refusal :=
  .next (s.subRequest d q tag (fun s =>
    let n := len.toNat
    let f := flags.toNat
    if 3 ≤ f then s.answer d tag rsBADREQ 0
    else
      let e := if f = 0 then none else s.extent d ext.toNat
      let revoked := match e with
        | some e => e.len == 0 || !e.revoking.isEmpty
        | none => false
      let inExt := fun (a : Nat) (w : Bool) => match e with
        | some e => (if w then e.w else e.r) && a + n ≤ e.len
        | none => false
      let own := fun (a : Nat) => n == 0 || (s.ownRange d a n && !s.carved a n)
      let ok := (if f = 1 then inExt src.toNat false else own src.toNat) && (if f = 2 then inExt dst.toNat true else own dst.toNat)
      if revoked then s.answer d tag rsREVOKED 0
      else if !ok then s.answer d tag rsBADREQ 0
      else
        let base := match e with
          | some e => e.base
          | none => 0
        let c : HostCopy := { id := s.fresh, src := src.toNat + (if f = 1 then base else 0), dst := dst.toNat + (if f = 2 then base else 0),
                              len := n, pos := 0, sent := false, stop := none, leaves := none,
                              ext := if f = 0 then none else some ext.toNat, tag := tag, queue := q.val, sig := none }
        { (s.modDie d (fun x => { x with copies := x.copies ++ [c] })) with fresh := s.fresh + 1 }))

/-- How many bytes of a COPY move next: within a sector of the source and one of the destination, up to where it stops, and no further
than each byte is read where it stands when its turn comes. -/
def HostCopy.chunk (c : HostCopy) : Nat :=
  let n := Nat.min (c.stop.getD c.len - c.pos) (Nat.min (16 - (c.src + c.pos) % 16) (16 - (c.dst + c.pos) % 16))
  if c.src < c.dst then Nat.min n (c.dst - c.src) else n

/-- The next bytes of a COPY move, in ascending order: read at their home once it has every token, and written at theirs (R205, R331). -/
def State.copyStep (s : State) (d : DieId) (c : HostCopy) : State × HostCopy :=
  let n := c.chunk
  let a := c.src + c.pos
  let b := c.dst + c.pos
  if n = 0 then (s, c)
  else
    let r : State × HostCopy :=
      if c.sent then (s, c)
      else if !s.homeOpen (a / 16) then (s.homeGather d [a / 16], c)
      else (s.homePut d 0 b ((below n).map (fun i => s.memByte (a + i))), { c with sent := true })
    if r.2.sent && !r.1.homeBusy (b / 16) then (r.1, { r.2 with pos := c.pos + n, sent := false }) else r

/-- The revocations of an extent complete once no COPY names it (R336). -/
def State.revokeGo (s : State) (d : DieId) : State :=
  let free := fun (e : Extent) => !e.revoking.isEmpty && !((s.die d).copies.any (fun c => c.ext == some e.id))
  let tags := ((s.die d).extents.filter free).flatMap (fun e => e.revoking)
  let s := s.modDie d (fun x => { x with extents := x.extents.map (fun e => if free e then { e with len := 0, revoking := [] } else e) })
  tags.foldl (fun s t => s.answer d t rsOK 0) s

/-- A SIGNAL at its counter: done, held, or failed (R288, R331). -/
def State.signalAt (s : State) (d : DieId) (q : Nat) (tag : BitVec 32) (ctr : Nat) (op : AOp) (x : Word) : State × CRes :=
  s.counterAtomic d (tag.toNat, 1000 + q) ctr op x

/-- A held SIGNAL, the oldest of its queue, is tried again; one that fails now completes FAULT (R331). -/
def State.signalAgain (s : State) (d : DieId) (c : HostCopy) (op : AOp) (x : Word) : State :=
  let gone := fun (s : State) => s.modDie d (fun y => { y with copies := y.copies.filter (fun z => z.id != c.id) })
  match s.signalAt d c.queue c.tag c.dst op x with
  | (s, .wait) => s
  | (s, .done) => (gone s).answer d c.tag rsOK 0
  | (s, .bad k sub) => (gone s).answer d c.tag rsFAULT (BitVec.ofNat 64 (k * 256 + sub))

/-- SIGNAL (R331): an atomic at sys scope on a counter of the die. One that MIG, a pending store or a fabric window holds stays in
its queue, and the requests behind it wait (R288; log 71) (DEDUCED, log 72). -/
def execSignal (d : DieId) (q : QueueId) (tag : BitVec 32) (ctr operand : BitVec 64) (op : BitVec 32) (s : State) :
    Host.Outcome State Fault Refusal :=
  .next (s.subRequest d q tag (fun s =>
    let o : AOp := if op = 0 then .xchg else .add
    if ctr.toNat % 8 ≠ 0 || 1 < op.toNat then s.answer d tag rsBADREQ 0
    else match s.signalAt d q.val tag ctr.toNat o operand with
      | (s, .wait) =>
        let c : HostCopy := { id := s.fresh, src := 0, dst := ctr.toNat, len := 0, pos := 0, sent := false, stop := none, leaves := none,
                              ext := none, tag := tag, queue := q.val, sig := some (o, operand) }
        { (s.modDie d (fun x => { x with copies := x.copies ++ [c] })) with fresh := s.fresh + 1 }
      | (s, .done) => s.answer d tag rsOK 0
      | (s, .bad c sub) => s.answer d tag rsFAULT (BitVec.ofNat 64 (c * 256 + sub))))

/-- RESET (R331): the entries of a queue without an admitted crew are dropped, each reported DISCARDED. A dropped head has the port
reserved no longer (R323). -/
def execReset (d : DieId) (tag queue : BitVec 32) (s : State) : Host.Outcome State Fault Refusal :=
  .next (s.dieRequest d tag (fun s =>
    if h : queue.toNat < 64 then
      let q : QueueId := ⟨queue.toNat, h⟩
      let out := (s.queue d q).filter (fun e => e.grid.isNone)
      let gone := ((s.queue d q).head?).any (fun e => e.grid.isNone)
      let s := (s.modQueue d q (fun l => l.filter (fun e => e.grid.isSome))).modPort d
        (fun p => { p with reserved := if gone && p.reserved == some q.val then none else p.reserved })
      (out.foldl (fun s e => s.putEnding d (bareEnding e.id q.val e.tag stDiscarded none 0 none)) s).answer d tag rsOK 0
    else s.answer d tag rsBADREQ 0))

/-! ### Page tables of the service OS (R291 to R295, R331) -/

/-- A frame that the service OS takes, if it lies in memory, is in use for nothing else, and is one that it may take (log 25). -/
def State.takeFrame (s : State) (may : Nat → Bool) : State × Option Nat :=
  let pa := Config.freeFrame s.free % 2 ^ 32 * 65536
  let s : State := { s with free := s.free + 1 }
  if s.paOk pa && s.paOk (pa + 65535) && !s.used pa 65536 && may pa then (s.useMemory [(pa, 65536)], some pa) else (s, none)

/-- Any frame, as for a table of its own. -/
def anyFrame : Nat → Bool := fun _ => true

/-- A table entry as the service OS reads it, what it has written and no home has performed yet among it. -/
def State.tableWord (s : State) (pa : Nat) : Word := sectorTake (s.homeSector (pa / 16)) (pa % 16) 8

/-- Fill a table page with entries. -/
def State.fillTable (s : State) (d : DieId) (pa : Nat) (f : Nat → Word) : State :=
  s.devWrite d pa ((below 8192).map (fun i => leBytes 8 (f i).toNat)).flatten

/-- The pages of a block leaf (R278, R291): entry `j` of the table that replaces it. -/
def splitLeaf (w : Word) (j : Nat) : Word := (w &&& ~~~(0x100 : Word)) + BitVec.ofNat 64 (j * 65536)

/-- The table below an entry: the one it points to, or a new one, which holds the pages of a block leaf that stood there (DEDUCED, log 73). -/
def State.tableBelow (s : State) (d : DieId) (at_ : Nat) (block : Bool) : State × Option Nat :=
  let w := s.tableWord at_
  if ptePointer w then (s, some (pteFrame w * 65536))
  else match s.takeFrame anyFrame with
    | (s, none) => (s, none)
    | (s, some t) =>
      let s := s.fillTable d t (fun j => if block && bit w 0 then splitLeaf w j else 0)
      (s.devWrite d at_ (leBytes 8 (t + 1)), some t)

/-- The L0 table of a die; the service OS makes one where ROOT is 0 (R291). -/
def State.rootTable (s : State) (d : DieId) : State × Option Nat :=
  let r := (s.die d).ctl.root
  if r ≠ 0 then (s, some r)
  else match s.takeFrame anyFrame with
    | (s, none) => (s, none)
    | (s, some t) =>
      if t = 0 then (s, none) else ((s.fillTable d t (fun _ => 0)).modCtl d (fun c => { c with root := t }), some t)

/-- Where the entry of an address stands, its tables built as needed (R331); level 1 for a block, 2 for a page. -/
def State.entryAt (s : State) (d : DieId) (level va : Nat) : State × Option Nat :=
  match s.rootTable d with
  | (s, none) => (s, none)
  | (s, some r) => match s.tableBelow d (r + 8 * (va / 2 ^ 42 % 8192)) false with
    | (s, none) => (s, none)
    | (s, some l1) =>
      let e1 := l1 + 8 * (va / 2 ^ 29 % 8192)
      if level = 1 then (s, some e1)
      else match s.tableBelow d e1 true with
        | (s, none) => (s, none)
        | (s, some l2) => (s, some (l2 + 8 * (va / 65536 % 8192)))

/-- Write leaves one after the other; false where a table cannot be allocated. -/
def State.putLeaves (s : State) (d : DieId) (level : Nat) : List (Nat × Word) → State × Bool
  | [] => (s, true)
  | x :: t => match s.entryAt d level x.1 with
    | (s, none) => (s, false)
    | (s, some e) => (s.devWrite d e (leBytes 8 x.2.toNat)).putLeaves d level t

/-- The level of a SIZE field, and the bytes of its leaves. -/
def sizeLevel (size : BitVec 32) : Nat := if size = 0 then 2 else 1
def leafBytes (size : BitVec 32) : Nat := if size = 0 then 65536 else 2 ^ 29

/-- The address and size of a MAP or UNMAP are well formed: aligned leaves inside the virtual space. -/
def mapOk (va : BitVec 64) (count size : BitVec 32) : Bool :=
  size.toNat ≤ 1 && va.toNat % leafBytes size == 0 && va.toNat + count.toNat * leafBytes size ≤ 2 ^ 55

/-- FRAME of leaf `i` (R331): one page or block on per leaf; a fabric entry counts its window page on within its package. -/
def advanceFrame (frame bits : Word) (size : BitVec 32) (i : Nat) : Nat :=
  let f := frame.toNat / 65536
  let step := if size = 0 then 1 else 8192
  if bit bits 15 then f / 65536 * 65536 + (f % 65536 + i * step) % 65536 else (f + i * step) % 2 ^ 32

/-- The memory that a leaf maps, a block at level 1. -/
def leafRange (level : Nat) (w : Word) : List (Nat × Nat) :=
  if bit w 0 && !pteFab w then [(pteFrame w * 65536, if level = 1 then 2 ^ 29 else 65536)] else []

/-- Write leaves of a request, invalidate, and answer once the invalidation is complete (R289, R331). -/
def State.mapAll (s : State) (d : DieId) (tag : BitVec 32) (value : Word) (level va len : Nat) (ls : List (Nat × Word)) : State :=
  let s := s.useMemory (ls.flatMap (fun x => leafRange level x.2))
  match s.putLeaves d level ls with
  | (s, false) => (s.invalidate d va len none).answer d tag rsNOSPACE 0
  | (s, true) => s.invalidate d va len (some (tag, value))

/-- MAP (R331). -/
def execMap (d : DieId) (tag : BitVec 32) (va frame bits : BitVec 64) (count size : BitVec 32) (s : State) :
    Host.Outcome State Fault Refusal :=
  .next (s.dieRequest d tag (fun s =>
    if !mapOk va count size || frame.toNat % 65536 ≠ 0 || 2 ^ 48 ≤ frame.toNat || bits.toNat / 65536 % 2 ^ 32 ≠ 0 then s.answer d tag rsBADREQ 0
    else
      let ls := (below count.toNat).map (fun i =>
        (va.toNat + i * leafBytes size, bits ||| BitVec.ofNat 64 (advanceFrame frame bits size i * 65536)))
      s.mapAll d tag 0 (sizeLevel size) va.toNat (count.toNat * leafBytes size) ls))

/-- Where the entry of an address stands now, if its tables are there. -/
def State.entryNow (s : State) (d : DieId) (level va : Nat) : Option Nat :=
  let r := (s.die d).ctl.root
  let w0 := s.tableWord (r + 8 * (va / 2 ^ 42 % 8192))
  if r = 0 || !ptePointer w0 then none
  else
    let e1 := pteFrame w0 * 65536 + 8 * (va / 2 ^ 29 % 8192)
    let w1 := s.tableWord e1
    if level = 1 then some e1
    else if ptePointer w1 then some (pteFrame w1 * 65536 + 8 * (va / 65536 % 8192)) else none

/-- Clear V of leaves; a page inside a block splits the block first; false where no table can be had for that. -/
def State.clearLeaves (s : State) (d : DieId) (level : Nat) : List Nat → State × Bool
  | [] => (s, true)
  | va :: t =>
    let go := fun (s : State) (e : Nat) =>
      (s.devWrite d e (leBytes 8 (s.tableWord e &&& ~~~(1 : Word)).toNat)).clearLeaves d level t
    match s.entryNow d level va with
    | some e => go s e
    | none => match s.entryNow d 1 va with
      | none => s.clearLeaves d level t
      | some e1 =>
        if !bit (s.tableWord e1) 0 then s.clearLeaves d level t
        else match s.entryAt d level va with
          | (s, none) => (s, false)
          | (s, some e) => go s e

/-- UNMAP (R331). -/
def execUnmap (d : DieId) (tag : BitVec 32) (va : BitVec 64) (count size : BitVec 32) (s : State) : Host.Outcome State Fault Refusal :=
  .next (s.dieRequest d tag (fun s =>
    if !mapOk va count size then s.answer d tag rsBADREQ 0
    else
      let len := count.toNat * leafBytes size
      match s.clearLeaves d (sizeLevel size) ((below count.toNat).map (fun i => va.toNat + i * leafBytes size)) with
      | (s, false) => (s.invalidate d va.toNat len none).answer d tag rsNOSPACE 0
      | (s, true) => s.invalidate d va.toNat len (some (tag, 0))))

/-! ### EXPORT and IMPORT (R284, R286, R331) -/

/-- The leaf of one page of a die as a page leaf; `none` where it is not present (R292). -/
def State.pageLeaf (s : State) (d : DieId) (va : Nat) : Option Word :=
  ((walkWith s.tableWord s.paOk (s.die d).ctl.root va).filter s.leafOk).map
    (fun l => if l.level = 1 then splitLeaf l.pte (va / 65536 % 8192) else l.pte)

/-- The leaves of `n` pages, or the first page that is not present. -/
def State.pageLeaves (s : State) (d : DieId) (va : Nat) : Nat → Except Nat (List Word)
  | 0 => .ok []
  | n + 1 => match s.pageLeaf d va with
    | none => .error va
    | some w => match s.pageLeaves d (va + 65536) n with
      | .ok l => .ok (w :: l)
      | .error a => .error a

/-- A leaf of a replicated range: DUP = 1, R = 1, W = 0, X and PLACE as they stood, and a frame (R286). -/
def dupLeaf (w : Word) (pa : Nat) : Word := (w &&& 0xC8) ||| 0x203 ||| BitVec.ofNat 64 pa

/-- A peer's leaf: R, W, X and PLACE as they stood, PEER and PEERDIE, every other bit but FRAME zero (R331). -/
def peerLeaf (d : DieId) (w : Word) : Word := (w &&& 0xFFFFFFFF00CE) ||| 0x801 ||| BitVec.ofNat 64 (d.val * 4096)

/-- C is set on every aligned group of 32 entries that the range covers whole and that meets R295. -/
def withC (ls : List (Nat × Word)) : List (Nat × Word) :=
  let frame := fun (w : Word) => w.toNat / 65536 % 2 ^ 32
  let fits := fun (g : Nat) =>
    let es := ls.filter (fun x => x.1 / 2 ^ 21 == g)
    es.length == 32 && match es with
      | [] => false
      | e :: _ => es.all (fun x => frame x.2 % 32 == x.1 / 65536 % 32 && ((x.2 ^^^ e.2) &&& ~~~(0x1F0000 : Word)) == 0)
  ls.map (fun x => if fits (x.1 / 2 ^ 21) then (x.1, x.2 ||| 0x100) else x)

/-- C of the pages of a list is cleared where it is set. -/
def State.uncontig (s : State) (d : DieId) (vas : List Nat) : State :=
  vas.foldl (fun s va => match s.entryNow d 2 va with
    | none => s
    | some e => let w := s.tableWord e
      if bit w 8 then s.devWrite d e (leBytes 8 (w &&& ~~~(0x100 : Word)).toNat) else s) s

/-- Write the page leaves of an export or an import: no entry of a contiguous group that the range only partly covers keeps C, for no
translation may go by a neighbour as the range's own entries no longer say (R286, R295) (DESIGN CHOICE, log 116). -/
def State.mapPages (s : State) (d : DieId) (tag : BitVec 32) (value : Word) (va len : Nat) (ls : List (Nat × Word)) : State :=
  let lo := va / 2 ^ 21 * 2 ^ 21
  let hi := (va + len + 2 ^ 21 - 1) / 2 ^ 21 * 2 ^ 21
  let before := (below ((va - lo) / 65536)).map (fun i => lo + 65536 * i)
  let after_ := (below ((hi - (va + len)) / 65536)).map (fun i => va + len + 65536 * i)
  if len = 0 then s.mapAll d tag value 2 va 0 []
  else (s.uncontig d (before ++ after_)).mapAll d tag value 2 lo (hi - lo) ls

/-- The exporter's own leaves of a replicated range: each keeps C where the range has the whole of its group, with C, and this meets R295. -/
def ownDups (va : Nat) (ws : List Word) : List (Nat × Word) :=
  let old := ((below ws.length).zip ws).map (fun x => (va + 65536 * x.1, x.2))
  let c := withC (old.map (fun x => (x.1, dupLeaf x.2 (x.2.toNat / 65536 % 2 ^ 32 * 65536))))
  (old.zip c).map (fun x => (x.2.1, if bit x.1.2 8 then x.2.2 else x.2.2 &&& ~~~(0x100 : Word)))

/-- EXPORT (R284, R286, R331): the leaves as they stand are kept under a new handle; with replication the exporter's own leaves
become read-only duplicates. A page of another package or of a peer is none of this die's to export (DEDUCED, log 74). -/
def execExportReq (d : DieId) (tag : BitVec 32) (va len : BitVec 64) (flags : BitVec 32) (s : State) : Host.Outcome State Fault Refusal :=
  .next (s.dieRequest d tag (fun s =>
    if len.toNat % 65536 ≠ 0 || va.toNat % 65536 ≠ 0 || 2 ^ 55 < va.toNat + len.toNat || 1 < flags.toNat then s.answer d tag rsBADREQ 0
    else match s.pageLeaves d va.toNat (len.toNat / 65536) with
      | .error _ => s.answer d tag rsFAULT 0x0501
      | .ok ws =>
        if ws.any (fun w => pteFab w || bit w 11) then s.answer d tag rsBADREQ 0
        else
          let h := Config.freeHandle s.free
          let s : State := { s with free := s.free + 1, exports := s.exports ++ [{ handle := h, die := d, leaves := ws, rep := flags != 0 }] }
          if flags = 0 then s.answer d tag rsOK h
          else s.mapPages d tag h va.toNat len.toNat (ownDups va.toNat ws)))

/-- Replicas of pages in frames of the importer's own memory, apart from the frames in `home`, which the service OS takes: source, frame, and
the leaf to be written at its address (R286). -/
def State.replicas (s : State) (d : DieId) (home : List Nat) (va : Nat) : List Word → State × Option (List (Nat × Nat × Nat × Word))
  | [] => (s, some [])
  | w :: t => match s.takeFrame (fun pa => s.ownRange d pa 65536 && !s.carved pa 65536 && !home.contains pa) with
    | (s, none) => (s, none)
    | (s, some pa) => match s.replicas d home (va + 65536) t with
      | (s, none) => (s, none)
      | (s, some l) => (s, some ((w.toNat / 65536 % 2 ^ 32 * 65536, pa, va, dupLeaf w pa) :: l))

/-- The service OS fills replicas from the home frames before it writes the leaves (R286): each is a copy of the control queue, and the last
one brings the leaves. -/
def State.fillReplicas (s : State) (d : DieId) (tag : BitVec 32) (va len : Nat) (xs : List (Nat × Nat × Nat × Word)) : State :=
  let ls := withC (xs.map (fun x => (x.2.2.1, x.2.2.2)))
  let one := fun (i : Nat) (x : Nat × Nat × Nat × Word) =>
    ({ id := s.fresh + i, src := x.1, dst := x.2.1, len := 65536, pos := 0, sent := false, stop := none,
       leaves := if i + 1 = xs.length then some (va, len, ls) else none, ext := none, tag := tag, queue := 64, sig := none } : HostCopy)
  if xs.isEmpty then s.mapPages d tag 0 va len []
  else { (s.modDie d (fun y => { y with copies := y.copies ++ ((below xs.length).zip xs).map (fun x => one x.1 x.2) })) with
         fresh := s.fresh + xs.length }

/-- IMPORT (R284, R286, R331): as a peer's pages, or as replicas; DENIED where the exporter lies outside the die's partition (DEDUCED, log 91). -/
def execImportReq (d : DieId) (tag : BitVec 32) (handle va : BitVec 64) (s : State) : Host.Outcome State Fault Refusal :=
  .next (s.dieRequest d tag (fun s => match s.exports.find? (fun x => x.handle == handle) with
    | none => s.answer d tag rsBADREQ 0
    | some x =>
      let len := 65536 * x.leaves.length
      if !((s.die d).ctl.partition.getLsbD x.die.val) then s.answer d tag rsDENIED 0
      else if va.toNat % 65536 ≠ 0 || 2 ^ 55 < va.toNat + len then s.answer d tag rsBADREQ 0
      else if x.rep then match s.replicas d (x.leaves.map (fun w => w.toNat / 65536 % 2 ^ 32 * 65536)) va.toNat x.leaves with
        | (s, none) => s.answer d tag rsNOSPACE 0
        | (s, some xs) => s.fillReplicas d tag va.toNat len xs
      else
        let ls := ((below x.leaves.length).zip x.leaves).map (fun y => (va.toNat + 65536 * y.1, peerLeaf x.die y.2))
        s.mapPages d tag 0 va.toNat len (withC ls)))

/-! ### COPY goes on (R286, R331, R336) -/

/-- What a COPY still has to move is no more: its extent is being revoked, and it stops after a prefix of its bytes whose length is a free
value, behind what is on its way (R336, log 75). -/
def State.copyCut (s : State) (d : DieId) (c : HostCopy) : State × HostCopy :=
  let cut := match c.ext.bind (s.extent d) with
    | some e => !e.revoking.isEmpty
    | none => false
  if cut && c.stop.isNone then
    let lo := c.pos + (if c.sent then c.chunk else 0)
    ({ s with free := s.free + 1 }, { c with stop := some (lo + Config.freePrefix s.free % (c.len - lo + 1)) })
  else (s, c)

/-- The bytes of a COPY have moved: it is answered, or the replicas of an import are full and its leaves are written (R286, R331, R336). -/
def State.copyDone (s : State) (d : DieId) (c : HostCopy) : State :=
  let s := s.modDie d (fun x => { x with copies := x.copies.filter (fun y => y.id != c.id) })
  if c.queue < 64 then (s.answer d c.tag (if c.stop.isSome then rsREVOKED else rsOK) 0).revokeGo d
  else match c.leaves with
    | some (va, len, ls) => s.mapPages d c.tag 0 va len ls
    | none => s

/-- COPY_REQUEST_COMPLETE (R331, R336): the oldest COPY of its queue moves on, and is answered with its last byte; one whose extent is being
revoked ends with EXTENT_REVOKED after a prefix of its bytes. A held SIGNAL is tried again (log 71). -/
def execCopyRequestComplete (d : DieId) (id : Nat) (s : State) : Host.Outcome State Fault Refusal :=
  .next (let s := s.putBack
    match (s.die d).copies.find? (fun c => c.id == id) with
    | none => s
    | some c =>
      if (s.die d).copies.find? (fun x => x.queue == c.queue) != some c then s
      else match c.sig with
      | some (op, x) => s.signalAgain d c op x
      | none =>
        let a := s.copyCut d c
        let r := a.1.copyStep d a.2
        let s := (r.1.modDie d (fun x => { x with copies := x.copies.map (fun y => if y.id == id then r.2 else y) })).homesServed
        if r.2.sent || r.2.pos < r.2.stop.getD r.2.len then s else s.copyDone d r.2)

/-! ### QUERY (R332) -/

/-- The 512 bytes of R332: package-wide fields, and a die's own unless the management function answers. -/
def State.queryRecord (s : State) (f : FuncId) : List Byte :=
  let own : Nat × Word × Word := match f with
    | .die d => (d.val, (s.die d).ctl.clkmode, (s.die d).ctl.cohmode)
    | .mgmt => (0xFF, 0, 0)
  padTo 512 (leBytes 2 1 ++ leBytes 2 s.pkgId.toNat ++ leBytes 1 s.liveDies.toNat ++ leBytes 1 own.1 ++ leBytes 2 s.liveStacks.toNat
    ++ ((below 4).map (fun b => leBytes 1 (s.stacksOf b).length)).flatten ++ leBytes 4 0 ++ leBytes 8 s.fwVersion.toNat
    ++ leBytes 8 own.2.1.toNat ++ leBytes 8 own.2.2.toNat
    ++ ((below 8).map (fun d => let x := s.die (Fin.ofNat 8 d); leBytes 8 (if x.present then x.corrected.toNat else 0))).flatten
    ++ ((below 64).map (fun p =>
        let x := s.ports[Fin.ofNat 64 p]
        leBytes 1 (x.width.toNat + (if x.slow && x.width != 0 then 4 else 0)))).flatten
    ++ ((below 4).map (fun k => leBytes 1 ((if s.links.getLsbD k then 1 else 0) + (if s.cxl.getLsbD k then 2 else 0)))).flatten)

/-- QUERY (R332, R337, R340): taken in every TDISP state, and by the management function in recovery. -/
def execQuery (f : FuncId) (tag : BitVec 32) (s : State) : Host.Outcome State Fault Refusal :=
  .next (let s := s.putBack
    let b := s.queryRecord f
    match f with
    | .die d =>
      if !(s.die d).present || !(s.die d).ready then s
      else (s.modDie d (fun x => { x with face := { x.face with queries := x.face.queries ++ [(tag, b)] } })).answer d tag rsOK 0
    | .mgmt => ({ s with mgmt := { s.mgmt with queries := s.mgmt.queries ++ [(tag, b)] } } : State).answerM tag rsOK)

/-! ### File extents (R336) -/

/-- FILEGRANT (R336): grants an extent, or revokes it when the length is 0; a revocation completes once every COPY that names the
extent has ended, and a grant of an extent whose revocation has not completed waits for it (log 71). -/
def execFilegrant (d : DieId) (tag ext access : BitVec 32) (base len : BitVec 64) (s : State) : Host.Outcome State Fault Refusal :=
  .next (s.dieRequest d tag (fun s =>
    let id := ext.toNat
    if 3 < access.toNat then s.answer d tag rsBADREQ 0
    else if len = 0 then match s.extent d id with
      | none => s.answer d tag rsOK 0
      | some _ =>
        (s.modDie d (fun x => { x with extents := x.extents.map (fun e => if e.id == id then { e with revoking := e.revoking ++ [tag] } else e) })).revokeGo d
    else if (s.extent d id).any (fun e => !e.revoking.isEmpty) then s
    else if !inHost base.toNat || !inHost (base.toNat + len.toNat - 1) then s.answer d tag rsBADREQ 0
    else
      let e : Extent := { id := id, r := access.getLsbD 0, w := access.getLsbD 1, base := base.toNat, len := len.toNat, revoking := [] }
      (s.modDie d (fun x => { x with extents := upsert (fun y => y.id) e x.extents })).answer d tag rsOK 0))

/-! ### The management function (R311, R313, R331, R340) -/

/-- A request of the management function alone: on a die's function it completes BADREQ (R331, R337). In recovery only FWUPDATE
is taken (R340). -/
def State.mgmtRequest (s : State) (f : FuncId) (tag : BitVec 32) (inRecovery : Bool) (k : State → State) : State :=
  match f with
  | .die d => s.dieRequest d tag (fun s => s.answer d tag rsBADREQ 0)
  | .mgmt =>
    let s := s.putBack
    if s.recovery && !inRecovery then s
    else if !s.mgmt.takes then s.answerM tag rsDENIED
    else k s

/-- FWUPDATE (R331, R340): the image, in host memory behind host link 0, is written over the one that the firmware store holds, which has
none until that is done. One update is written at a time (DEDUCED, log 109). -/
def execFwupdate (f : FuncId) (tag : BitVec 32) (addr len : BitVec 64) (s : State) : Host.Outcome State Fault Refusal :=
  .next (s.mgmtRequest f tag true (fun s =>
    let host0 := fun (a : Nat) => a / 2 ^ 44 == 4
    if s.fwBusy.isSome then s
    else if len ≠ 0 && !(host0 addr.toNat && host0 (addr.toNat + len.toNat - 1)) then s.answerM tag rsBADREQ
    else { s with fwImage := none, fwBusy := some (tag, addr.toNat, len.toNat) }))

/-- The sectors of a range whose data their homes do not have: of host memory, those that the host has not sent (R224). -/
def State.absent (s : State) (pa len : Nat) : List Nat :=
  ((below ((pa + len + 15) / 16 - pa / 16)).map (fun i => pa / 16 + i)).filter (fun n => !s.homeReady (s.homeOf (16 * n)) n false)

/-- The firmware store is written: what of the image the host has not sent is asked of it, and once all of it is there the store holds the
image as host memory then has it, and the request completes (R331, R340). -/
def State.fwWrite (s : State) : State :=
  match s.fwBusy with
  | none => s
  | some (tag, addr, len) =>
    let ask := s.absent addr len
    let b := fun (k : Nat) => sectorByte (s.performed ((addr + k) / 16)) ((addr + k) % 16)
    if !ask.isEmpty then ask.foldl (fun s n => s.askHost (s.homeOf (16 * n)) n false) s
    else ({ s with fwBusy := none,
                   fwImage := some (len, (below len).foldr (fun k l => if b k = 0 then l else (k, b k) :: l) []) } : State).answerM tag rsOK

/-- DEBUGSET (R311, R331): the launch with that tag in that queue, queued or running; tag 0 is every later one of the queue. For a die that
is not there it completes BADREQ, with tag 0 too (DESIGN CHOICE, log 120). -/
def execDebugset (f : FuncId) (tag : BitVec 32) (die queue : BitVec 8) (ltag : BitVec 32) (word : BitVec 64) (s : State) :
    Host.Outcome State Fault Refusal :=
  .next (s.mgmtRequest f tag false (fun s =>
    let d : DieId := Fin.ofNat 8 die.toNat
    let q : QueueId := Fin.ofNat 64 queue.toNat
    if 8 ≤ die.toNat || 64 ≤ queue.toNat || !(s.die d).present || 4 ≤ word.toNat then s.answerM tag rsBADREQ
    else if ltag = 0 then (s.modPort d (fun p => { p with debugQ := put q.val word p.debugQ })).answerM tag rsOK
    else
      let es := (s.queue d q).filter (fun e => e.tag == ltag)
      let gs := (s.die d).port.grids.filter (fun g => g.queue == q.val && g.tag == ltag)
      if es.isEmpty && gs.isEmpty then s.answerM tag rsBADREQ
      else
        let s := s.modPort d (fun p => { p with
          debugT := es.foldl (fun t e => put e.id word t) p.debugT,
          grids := p.grids.map (fun g => if g.queue == q.val && g.tag == ltag then { g with debug := word } else g) })
        let s : State := { s with crews := s.crews.map (fun k =>
          if k.die == d && gs.any (fun g => g.slot == k.slot) then { k with debug := word } else k) }
        s.answerM tag rsOK))

/-- BRKSET (R313, R331); for a die that is not there it completes BADREQ (DESIGN CHOICE, log 120). -/
def execBrkset (f : FuncId) (tag : BitVec 32) (die brk kind mask : BitVec 8) (addr : BitVec 64) (s : State) :
    Host.Outcome State Fault Refusal :=
  .next (s.mgmtRequest f tag false (fun s =>
    let d : DieId := Fin.ofNat 8 die.toNat
    if 8 ≤ die.toNat || 4 ≤ brk.toNat || !(s.die d).present || 4 < kind.toNat || mask.toNat < 2 || 16 < mask.toNat
        || addr.toNat % 2 ^ mask.toNat ≠ 0 then s.answerM tag rsBADREQ
    else (s.modCtl d (fun c =>
      { c with brk := c.brk.set (Fin.ofNat 4 brk.toNat) { addr := addr, mask := mask.toNat, kind := kind.toNat } })).answerM tag rsOK))

/-! ### Functions, their queues, and the requests as the host writes them (R330, R331) -/

/-- The PCIe function number of a die on its link, and the host link of a function (R330). -/
def pciFunction (d : DieId) : Nat := d.val
def hostLink : FuncId → LinkId
  | .die d => Fin.ofNat 4 (d.val / 2)
  | .mgmt => 0

/-- The PCI vendor and device ID of a function (R330). -/
def pciId : FuncId → Nat × Nat
  | .die _ => (Config.pciVendor, Config.pciDie)
  | .mgmt => (Config.pciVendor, Config.pciMgmt)

/-- The entries of a function's virtqueue; none where it has no such queue (R330). -/
def queueEntries : FuncId → Nat → Option Nat
  | .die _, q => if q = 0 then some Config.controlQueueEntries else if q ≤ 64 then some Config.submissionQueueEntries
      else if q = 65 then some Config.eventQueueEntries else none
  | .mgmt, q => if q = 0 then some Config.mgmtControlEntries else if q = 1 then some Config.mgmtEventEntries else none

/-- The length of a request's body by its type (R331). -/
def bodyLength (type : Nat) : Option Nat :=
  look type [(1, 128), (2, 32), (3, 32), (4, 16), (5, 24), (6, 24), (7, 24), (8, 0), (9, 8), (10, 24), (11, 16), (12, 16), (13, 16)]

/-- A header of 16 bytes with its zeros, and the body of its type behind it (R331). -/
def chainOk (raw : List Byte) : Bool :=
  field raw 2 2 == 0 && field raw 8 8 == 0 && (bodyLength (field raw 0 2)).any (fun n => raw.length == 16 + n)

/-- What an event or a request does to a state. -/
abbrev Meaning := State → Host.Outcome State Fault Refusal

/-- What a submission queue feeds its launch queue (R330, R331). -/
def submission (d : DieId) (q : QueueId) (raw : List Byte) : Option Meaning :=
  let tag := BitVec.ofNat 32 (field raw 4 4)
  let u32 := fun (o : Nat) => BitVec.ofNat 32 (field raw (16 + o) 4)
  let u64 := fun (o : Nat) => BitVec.ofNat 64 (field raw (16 + o) 8)
  match field raw 0 2 with
  | 1 => some (execLaunch d q tag ((raw.drop 16).take 64) ((below 4).map (fun i => (u64 (64 + 16 * i), u64 (72 + 16 * i)))))
  | 2 => some (execCopy d q tag (u64 0) (u64 8) (u64 16) (u32 24) (u32 28))
  | 7 => if u32 20 = 0 then some (execSignal d q tag (u64 0) (u64 8) (u32 16)) else none
  | _ => none

/-- A request on a die's control queue (R330, R331). -/
def dieControl (d : DieId) (raw : List Byte) : Option Meaning :=
  let tag := BitVec.ofNat 32 (field raw 4 4)
  let u32 := fun (o : Nat) => BitVec.ofNat 32 (field raw (16 + o) 4)
  let u64 := fun (o : Nat) => BitVec.ofNat 64 (field raw (16 + o) 8)
  match field raw 0 2 with
  | 3 => some (execMap d tag (u64 0) (u64 8) (u64 16) (u32 24) (u32 28))
  | 4 => some (execUnmap d tag (u64 0) (u32 8) (u32 12))
  | 5 => if u32 20 = 0 then some (execExportReq d tag (u64 0) (u64 8) (u32 16)) else none
  | 6 => if u64 16 = 0 then some (execImportReq d tag (u64 0) (u64 8)) else none
  | 8 => some (execQuery (.die d) tag)
  | 9 => if u32 4 = 0 then some (execReset d tag (u32 0)) else none
  | 10 => some (execFilegrant d tag (u32 0) (u32 4) (u64 8) (u64 16))
  | _ => none

/-- A request on the control queue of the management function (R330, R331). -/
def mgmtControl (raw : List Byte) : Option Meaning :=
  let tag := BitVec.ofNat 32 (field raw 4 4)
  let u8 := fun (o : Nat) => BitVec.ofNat 8 (field raw (16 + o) 1)
  let u64 := fun (o : Nat) => BitVec.ofNat 64 (field raw (16 + o) 8)
  match field raw 0 2 with
  | 8 => some (execQuery .mgmt tag)
  | 11 => some (execFwupdate .mgmt tag (u64 0) (u64 8))
  | 12 => if field raw 18 2 = 0 then some (execDebugset .mgmt tag (u8 0) (u8 1) (BitVec.ofNat 32 (field raw 20 4)) (u64 8)) else none
  | 13 => if field raw 20 4 = 0 then some (execBrkset .mgmt tag (u8 0) (u8 1) (u8 2) (u8 3) (u64 8)) else none
  | _ => none

/-- The request that a descriptor chain holds; none where its type is not one of its queue, its body is malformed or a reserved field is
not zero (R331) (DEDUCED, log 110). -/
def requestOf (f : FuncId) (vq : Nat) (raw : List Byte) : Option Meaning :=
  if !chainOk raw then none
  else match f with
    | .die d => if vq = 0 then dieControl d raw else if vq ≤ 64 then submission d (Fin.ofNat 64 (vq - 1)) raw else none
    | .mgmt => if vq = 0 then mgmtControl raw else none

/-- A chain that holds no request of its queue completes BADREQ, in the order of a submission queue (R331). A queue that the device writes
takes no request. -/
def State.badRequest (s : State) (f : FuncId) (vq : Nat) (raw : List Byte) : State :=
  let tag := BitVec.ofNat 32 (field raw 4 4)
  match f with
  | .die d =>
    if 65 ≤ vq then s.putBack
    else if vq = 0 then s.dieRequest d tag (fun s => s.answer d tag rsBADREQ 0)
    else s.subRequest d (Fin.ofNat 64 (vq - 1)) tag (fun s => s.answer d tag rsBADREQ 0)
  | .mgmt => if vq = 0 then s.mgmtRequest .mgmt tag true (fun s => s.answerM tag rsBADREQ) else s.putBack

end Sys2Proof.Machine
end

