-- ==== Sys2Proof/Machine/Service.lean ====
section
/-! DEFINITION. The service side: writes to the control blocks (R261, R265, R277, R282, R291, R328, R329, R334), page-table stores,
TDISP (R337), die reset (R218, R338), package reset and bring-up (R340, R341), and the event queues' entries (R333). A write that
breaks a limit is refused and leaves the register unchanged. -/

namespace Sys2Proof.Machine

open Sys2Proof

/-! ### Registers with an event of their own -/

/-- A ring of `n` bytes may stand at a base: aligned to its size, inside physical memory (R297, R334) (DEDUCED, log 32). -/
def State.ringOk (s : State) (base n : Nat) : Bool := base % n == 0 && s.paOk base && s.paOk (base + n - 1)

/-- KCTX_WRITE (R261, R265, R334): refused for a bound context, and where the ring or the posted-list area does not stand in chunks that
this die owns; one that sets CONFIGURED resets every channel of the context (DESIGN CHOICE, log 61). -/
def execKctxWrite (d : DieId) (c : CtxId) (w0 ring plist : BitVec 64) (s : State) : Host.Outcome State Fault Refusal :=
  .next (let s := s.putBack
    let k := w0.toNat / 2 ^ 32 % 256
    let n := 4160 * 2 ^ k
    let set_ := bit w0 63
    if (s.kctx d c).bound.isSome || w0.toNat / 2 ^ 40 % 2 ^ 23 ≠ 0 || 16 < k then s
    else if set_ && (ring.toNat % n ≠ 0 || !s.ownRange d ring.toNat n || !s.ownRange d plist.toNat postedArea) then s
    else s.modKctx d c (fun x =>
      { x with w0 := w0, ring := ring, plist := plist, expect := if set_ then [] else x.expect,
               sendSeq := if set_ then [] else x.sendSeq, broken := if set_ then [] else x.broken }))

/-- KCHRESET (R265, R334): the sending or receiving side of one channel. -/
def execKchreset (d : DieId) (v : BitVec 64) (s : State) : Host.Outcome State Fault Refusal :=
  .next (let s := s.putBack
    let n := v.toNat
    let c : CtxId := Fin.ofNat 64 (n % 64)
    let ch := (n / 2 ^ 16 % 2 ^ 16, n / 2 ^ 32 % 8)
    if n / 64 % 1024 ≠ 0 || n / 2 ^ 35 % 2 ^ 27 ≠ 0 then s
    else s.modKctx d c (fun x =>
      { x with sendSeq := if bit v 63 then x.sendSeq.filter (fun e => e.1 != ch) else x.sendSeq,
               broken := if bit v 63 then x.broken.filter (fun e => e.1 != ch) else x.broken,
               expect := if bit v 62 then x.expect.filter (fun e => e.1 != ch) else x.expect }))

/-- A CLKMODE word within its limits (R328). -/
def clkmodeOk (v : Word) : Bool :=
  let f := v.toNat / 256 % 64
  v.toNat / 2 ^ 14 == 0 && v.toNat / 4 % 64 == 0 && v.toNat % 4 != 3 && (f == 0 || (12 ≤ f && f ≤ 38))

/-- CLKMODE_WRITE (R328): from the next window on. -/
def execClkmodeWrite (d : DieId) (v : BitVec 64) (s : State) : Host.Outcome State Fault Refusal :=
  .next (s.putBack.modCtl d (fun c => if clkmodeOk v then { c with clkNext := v } else c))

/-- A COHMODE word within its limits (R329). -/
def cohmodeOk (v : Word) : Bool :=
  let t1 := v.toNat % 1024
  let t2 := v.toNat / 1024 % 1024
  v.toNat / 2 ^ 21 == 0 && 10 ≤ t1 && t1 ≤ 1000 && 10 ≤ t2 && t2 ≤ 1000

/-- COHMODE_WRITE (R328, R329): requests in flight keep their timeouts. -/
def execCohmodeWrite (d : DieId) (v : BitVec 64) (s : State) : Host.Outcome State Fault Refusal :=
  .next (s.putBack.modCtl d (fun c => if cohmodeOk v then { c with cohmode := v } else c))

/-- ROOT_WRITE (R291, R334). -/
def execRootWrite (d : DieId) (v : BitVec 64) (s : State) : Host.Outcome State Fault Refusal :=
  .next (let s := s.putBack
    if v = 0 || (v.toNat % 65536 == 0 && s.paOk v.toNat) then s.modCtl d (fun c => { c with root := v.toNat }) else s)

/-! ### REGISTER_WRITE -/

/-- A register write without behaviour of its own (R277, R278, R282, R284, R334) (DEDUCED, log 76). -/
def State.ctlWrite (s : State) : CtlWrite → State
  | .trapRing d base log =>
    let n := log.toNat
    if n < 4 || 16 < n || !s.ringOk base.toNat (64 * 2 ^ n) then s
    else s.modCtl d (fun c => { c with trap := { base := base.toNat, log := n, head := 0, tail := 0 } })
  | .faultRing d base log =>
    let n := log.toNat
    if n < 4 || 16 < n || !s.ringOk base.toNat (32 * 2 ^ n) then s
    else s.modCtl d (fun c => { c with flt := { base := base.toNat, log := n, head := 0, tail := 0 } })
  | .dqcfg d q base n head =>
    if n.toNat = 0 then s.modDq d q (fun _ => { DevQueue.reset with base := base.toNat, headAt := head.toNat })
    else if 57 < n.toNat || head.toNat % 8 ≠ 0 || !s.paOk head.toNat || !s.ringOk base.toNat (64 * 2 ^ n.toNat) then s
    else s.modDq d q (fun _ => { base := base.toNat, log := n.toNat, headAt := head.toNat, head := 0, tail := 0, filled := [] })
  | .stkpool d q base len =>
    if base.toNat % 65536 ≠ 0 || len.toNat % 65536 ≠ 0 || 2 ^ 55 < base.toNat + len.toNat then s
    else s.modCtl d (fun c => { c with pools := c.pools.set q (base.toNat, len.toNat) })
  | .keytab d i v => s.modCtl d (fun c => { c with keytab := setD 0 i.toNat v c.keytab })
  | .mcgrp d g m v =>
    if v.toNat % 65536 ≠ 0 || v.toNat / 2 ^ 48 % 2 ^ 15 ≠ 0 then s
    else s.modCtl d (fun c => { c with mcgrp := setD 0 (64 * g.toNat + m.toNat) v c.mcgrp })
  | .partition d v => s.modCtl d (fun c => { c with partition := v })
  | .portmemb p e v =>
    if v.toNat / 2 ^ 32 % 2 ^ 31 ≠ 0 then s
    else { s with ports := s.ports.set p { s.ports[p] with memb := setD 0 e.toNat v s.ports[p].memb } }
  | .fabwin w v =>
    if v.toNat / 2 ^ 48 % 2 ^ 15 ≠ 0 || v.toNat / 8 % 2 ^ 13 ≠ 0 || bit v 0 then s
    else { s with fabwin := setD 0 w.toNat v s.fabwin }
  | .dieEnable d on => if (s.die d).ready then s.modDie d (fun x => { x with enabled := on }) else s

/-- REGISTER_WRITE (R334). -/
def execRegisterWrite (r : CtlWrite) (s : State) : Host.Outcome State Fault Refusal := .next (s.putBack.ctlWrite r)

/-- The memory that an entry names: a table, or what a leaf maps. -/
def entryRange (v : Word) : List (Nat × Nat) :=
  if ptePointer v then [(pteFrame v * 65536, 65536)] else leafRange (if pteFrame v % 8192 = 0 then 1 else 2) v

/-- PAGE_TABLE_STORE (R290, R294): a service core stores an entry, performed at pkg scope. An address outside every range of R297
does not exist (DEDUCED, log 83). -/
def execPageTableStore (pa : Nat) (v : BitVec 64) (s : State) : Host.Outcome State Fault Refusal :=
  if !s.paOk pa then .fault (.noSuchPhysicalAddress pa)
  else .next (if pa % 8 = 0 then (s.putBack.devWrite 0 pa (leBytes 8 v.toNat)).useMemory (entryRange v) else s.putBack)

/-! ### TDISP (R337) -/

/-- Change the TDISP state of a function (R337). -/
def State.modTdisp (s : State) (f : FuncId) (g : Tdisp → Tdisp) : State :=
  match f with
  | .die d => s.modDie d (fun x => { x with face := { x.face with tdisp := g x.face.tdisp } })
  | .mgmt => { s with mgmt := { s.mgmt with tdisp := g s.mgmt.tdisp } }

/-- LOCK_INTERFACE_REQUEST (R337). -/
def execLockInterfaceRequest (f : FuncId) (s : State) : Host.Outcome State Fault Refusal :=
  .next (s.putBack.modTdisp f (fun t => if t = .configUnlocked then .configLocked else t))

/-- START_INTERFACE_REQUEST (R337). -/
def execStartInterfaceRequest (f : FuncId) (s : State) : Host.Outcome State Fault Refusal :=
  .next (s.putBack.modTdisp f (fun t => if t = .configLocked then .run else t))

/-- TDISP_STOP (R337): back to CONFIG_UNLOCKED, from whatever state (PRESUMED, log 77). -/
def execTdispStop (f : FuncId) (s : State) : Host.Outcome State Fault Refusal :=
  .next (s.putBack.modTdisp f (fun _ => .configUnlocked))

/-! ### Event queues (R333) -/

/-- A free entry takes the oldest held event, or stays free. -/
def HostFace.freed (h : HostFace) : HostFace :=
  match h.held with
  | [] => { h with free := h.free + 1 }
  | e :: t => { h with events := h.events ++ [e], held := t }

/-- EVENT_QUEUE_ENTRY_FREE (R333): a held event of the management function is written; a launch held back is written by its own
event. -/
def execEventQueueEntryFree (f : FuncId) (s : State) : Host.Outcome State Fault Refusal :=
  .next (match f with
    | .die d => s.putBack.modDie d (fun x => { x with face := x.face.freed })
    | .mgmt => { s.putBack with mgmt := s.putBack.mgmt.freed })

/-! ### Die reset (R218, R338) -/

/-- The homes of a package (R205). -/
def State.allHomes (s : State) : List Home :=
  (((below 4).map (fun b => (s.stacksOf b).map (fun i => Home.stack (Fin.ofNat 4 b) (Fin.ofNat 3 i)))).flatten)
    ++ (below 4).map (fun k => .agent (Fin.ofNat 4 k))

/-- A sector is of a die's own memory, which its key encrypts: not of the memory that the service OS has carved out (R297, R337). -/
def State.ownSector (s : State) (d : DieId) (sec : Nat) : Bool :=
  s.inDevice (16 * sec) && !s.carved (16 * sec) 1 && ownerDie (16 * sec) == d

/-- A resetting die sends the tokens of a sector home; dirty data goes with the owner token, but not of the die's own memory. -/
def State.returnTokens (s : State) (d : DieId) (h : Hold) : State :=
  let s := if s.ownSector d h.sec then s.putHold (.die d) { h with dirty := false } else s
  s.sendAll (.die d) (s.homeHolder h.sec) h.sec false

/-- A die's Hasp entry at a home is cleared; an active one is deactivated as if by PDONE (R218). -/
def State.clearHasp (s : State) (d : DieId) (h : Home) : State :=
  let s := s.modHome h (fun q => { q with hasp := { q.hasp with set_ := del d.val q.hasp.set_ } })
  match (s.home h).hasp.active with
  | some (e, _, _) => if e = d.val then (s.deactivate h).haspGo h haspTurns else s
  | none => s

/-- An ATOM of an agent of a die is on its way to its home, or queued there. -/
def isAdd (d : DieId) (txns : List Nat) (m : AtomMsg) : Bool := txns.any (fun t => m.src == .die d t)

/-- The adds of a die's own agents that no home has performed. -/
def State.addWaits (s : State) (d : DieId) (txns : List Nat) : Bool :=
  s.net.any (fun f => match f.msg with
    | .atom m => isAdd d txns m
    | _ => false) || s.homes.any (fun h => h.2.queue.any (fun x => match x.2 with
    | .atom m => isAdd d txns m
    | _ => false))

/-- A store of a die's own agents and strands to its own memory. -/
def State.ownStore (s : State) (d : DieId) (m : HstMsg) : Bool := s.ownSector d m.sec && match m.src with
  | .die e _ => e == d
  | .port _ _ => false

/-- They are dropped, so that no counter advances, and so are the die's stores to its own memory, whose key goes (R338). -/
def State.dropAdds (s : State) (d : DieId) : State :=
  let txns := ((s.die d).far.filter (fun f => f.kind == .home)).map (fun f => f.txn)
  let s : State := { s with
    net := s.net.filter (fun f => match f.msg with
      | .atom m => !isAdd d txns m
      | .hst m => !s.ownStore d m
      | .preq m => m.src != .die d
      | _ => true),
    homes := s.homes.map (fun h => (h.1, { h.2 with queue := h.2.queue.filter (fun x => match x.2 with
      | .atom m => !isAdd d txns m
      | .hst m => !s.ownStore d m
      | .hld _ => true) })) }
  s.homes.foldl (fun s h => s.homeDone h.1) s

/-- The add to the counter of an ended launch has been performed, or has left the package as a packet (R338). -/
def State.addMade (s : State) (d : DieId) (e : Ending) : Bool := match s.farOf d (e.id, 9) with
  | none => false
  | some f => match f.reply with
    | some (st, _) => st == 0
    | none => match f.kind with
      | .home => !s.addWaits d [f.txn]
      | .remote => true
      | _ => false

/-- An ended launch at a reset of its die (R338): one whose counter has not advanced, or whose stores were not all performed, is
DISCARDED; one that had only its event to come keeps its outcome. -/
def State.endingReset (s : State) (d : DieId) (e : Ending) : Ending :=
  if (e.counter = 0 || s.addMade d e) && !s.launchPending d e.grid then { e with counter := 0 }
  else { e with status := stDiscarded, rec_ := none, counter := 0 }

/-- The stores that entries of a die kept from being performed ask for their tokens, now that these entries are gone (R213, R223). -/
def State.askFreed (s : State) (d : DieId) : State :=
  ((s.die d).pend.map (fun e => e.sec)).foldl (fun s sec => if s.partnerFirst d sec then s else s.request (.die d) sec true) s

/-- What a sector of memory reads as where nothing has been written under the key it now has. -/
def State.cipherSector (s : State) (sec : Nat) : SectorData := sectorOf (fun k => s.blank (16 * sec + k))

/-- With its key a die's own memory is lost, in memory and in every copy of it: what a cache holds, what a message carries, and what an L1
keeps is no more the former plaintext (R338; DESIGN CHOICE, log 78). -/
def State.scrub (s : State) (d : DieId) : State :=
  let own := s.ownSector d
  let hold := fun (h : Hold) => if own h.sec then { h with dirty := false, data := s.cipherSector h.sec } else h
  let cache := fun (c : Cache) => { c with holds := c.holds.map hold }
  { s with
    mem := s.mem.filter (fun c => inHost c.1 || s.carved c.1 1 || ownerDie c.1 != d),
    agents := s.agents.map cache,
    dies := s.dies.map (fun x => { x with
      cache := cache x.cache, cores := x.cores.map (fun c => { c with l1 := c.l1.filter (fun l => !own l.sec) }) }),
    net := s.net.map (fun f => { f with msg := match f.msg with
      | .tok m p => if own m.sec then .tok { m with dirty := false, data := m.data.map (fun _ => s.cipherSector m.sec) } p else f.msg
      | .recack m => .recack { m with owner := m.owner.map (fun x =>
          if own (8 * m.line + x.1) then (x.1, s.cipherSector (8 * m.line + x.1)) else x) }
      | m => m }) }

/-- What a reset die knows of the persistent requests: what the homes have active, so that what is on its way from before is old to it
(R211 to R213, R338). -/
def State.actsNow (s : State) : List ActSeen :=
  s.homes.map (fun x => match x.2.hasp.active with
    | some (e, line, mask) =>
      { home := x.1, epoch := x.2.hasp.epoch, line := line, mask := mask, req := entryHolder x.1 e, active := true, done := false }
    | none => { home := x.1, epoch := x.2.hasp.epoch, line := 0, mask := 0, req := .home x.1, active := false, done := false })

/-- FUNCTION_LEVEL_RESET (R218, R338), steps 1 to 5: the die's work is discarded, its contexts are cleared, its tokens go home, it
is disabled for its peers, its key is gone, and its control block is cleared (DESIGN CHOICE, log 78). The service OS's memory has a key of its
own and stays (R337). -/
def execFunctionLevelReset (d : DieId) (s : State) : Host.Outcome State Fault Refusal :=
  .next (let s := s.putBack
    if !(s.die d).present then s
    else
      let s := s.discardDie d
      let queued := ((below 64).map (fun q => (s.queue d (Fin.ofNat 64 q)).map (fun e =>
        bareEnding e.id q e.tag stDiscarded none 0 none))).flatten
      let out := ((s.die d).copies.filter (fun c => c.queue < 64 || c.leaves.isSome)).map (fun c => ({ tag := c.tag, status := rsDISCARDED, value := 0 } : Response))
      let ends := (s.die d).port.ends.map (s.endingReset d)
      let s := (s.die d).cache.holds.foldl (fun s h => s.returnTokens d h) (s.dropAdds d)
      let s := s.modDie d (fun x => { x with
        enabled := false, ready := false, ctl := Ctl.reset, rate := Die.reset.rate, cores := Vector.replicate 20 Core.reset, l2tlb := [],
        invals := [], pend := [], key := Die.reset.key, far := [], copies := [], extents := [], keyEpoch := x.keyEpoch + 1,
        cache := { x.cache with reqs := [], pred := [], setAt := [] },
        port := { Port.reset with ends := ends ++ queued },
        resetAcks := s.allHomes,
        face := { x.face with responses := x.face.responses ++ out,
                              tdisp := if x.face.tdisp = .configUnlocked then .configUnlocked else .error } })
      let s : State := { s.scrub d with exports := s.exports.filter (fun e => e.die != d) }
      let s := s.allHomes.foldl (fun s h => s.clearHasp d h) s
      (s.modCache (.die d) (fun c => { c with acts := s.actsNow })).askFreed (partner d))

/-- A ring of records in a frame that the service OS takes (R338) (DESIGN CHOICE, log 78). -/
def State.newRing (s : State) : State × Option Ring :=
  match s.takeFrame anyFrame with
  | (s, some pa) => (s, some { Ring.reset with base := pa })
  | (s, none) => (s, none)

/-- The service OS sets the control block up again, with a new root over empty tables and new rings, and the die takes requests (R338,
steps 6 and 7); `none` where a frame for these is not to be had, with the free values used. -/
def State.resetDone (s : State) (d : DieId) : Nat × Option State :=
  let s := s.modDie d (fun x => { x with enabled := true, ready := true, ctl := { Ctl.reset with partition := s.liveDies } })
  let r := s.rootTable d
  let t := r.1.newRing
  let f := t.1.newRing
  (f.1.free, match r.2, t.2, f.2 with
    | some _, some t, some g => some (f.1.modCtl d (fun c => { c with trap := t, flt := g }))
    | _, _, _ => none)

/-- RESET_TOKEN_ACK (R218, R338): a home has taken every token that the resetting die sent it; the last acknowledgement completes
the reset, once the service OS has the frames it needs. -/
def execResetTokenAck (d : DieId) (h : Home) (s : State) : Host.Outcome State Fault Refusal :=
  .next (let s := s.putBack
    let onWay := s.net.any (fun f => f.dst == .home h && match f.msg with
      | .tok m _ => m.src == .die d
      | _ => false)
    if !(s.die d).resetAcks.contains h || onWay then s
    else
      let t := s.modDie d (fun x => { x with resetAcks := x.resetAcks.filter (fun y => y != h) })
      if !(t.die d).resetAcks.isEmpty then t
      else match t.resetDone d with
        | (_, some t) => t
        | (n, none) => { s with free := n })

/-! ### Package reset (R340, R341) -/

/-- A die after bring-up: present where it came up, its PARTITION every live die (R334, R341). Its memory key, and the service OS's, is a new one once the
package has been up before. `ok` says that the firmware has booted. -/
def bringDie (b : BringUp) (ok up : Bool) (old : Die) (d : Nat) : Die :=
  let on := ok && b.dies.getLsbD d
  { Die.reset with present := on, enabled := on, ready := on, ctl := { Ctl.reset with partition := b.dies },
                   keyEpoch := if up then old.keyEpoch + 1 else old.keyEpoch }

/-- A port after training: one that reaches a package with this package's ID stays down (R341). -/
def bringPort (b : BringUp) (ok : Bool) (p : Nat) : PortState :=
  match b.ports[p]? with
  | none => PortState.reset
  | some t => if !ok || t.partner = b.pkgId then PortState.reset else { PortState.reset with width := t.width, slow := t.slow }

/-- BRING_UP (R2, R334, R340, R341): package reset. Where the firmware store holds no whole image, or the one it holds does not verify,
the package stays in recovery. Host memory is the host's and stays; a counter of the model never runs back (DEDUCED, log 79). -/
def execBringUp (b : BringUp) (s : State) : Host.Outcome State Fault Refusal :=
  .next (let up := s.booted
    let ok := b.imageOk && s.fwImage.isSome
    let dies := Vector.ofFn (fun (i : Fin 8) => bringDie b ok up s.dies[i] i.val)
    { State.reset with
      dies := dies, mem := s.mem.filter (fun c => inHost c.1), ports := Vector.ofFn (fun (i : Fin 64) => bringPort b ok i.val),
      booted := ok, recovery := !ok, liveDies := if ok then b.dies else 0, fwImage := s.fwImage, badLinks := b.badLinks,
      carves := if ok then b.carve else [], liveStacks := if ok then b.stackBits else 0, links := b.hostLinks, cxl := b.cxl &&& b.hostLinks, pkgId := b.pkgId,
      osEpoch := if up then s.osEpoch + 1 else s.osEpoch, fwVersion := b.fwVersion, turns := s.turns, fresh := s.fresh, free := s.free })

end Sys2Proof.Machine
end

