-- ==== Sys2Proof/Machine/Dispatch.lean ====
section
/-! DEFINITION. The instruction set: one arm per instruction or event of the opcode table. -/

namespace Sys2Proof.Machine

open Sys2Proof

/-- Execute one instruction, or let one event happen. A strand instruction acts on the issuing strand `State.focus` and its crew;
a sequencer instruction on `State.crew`; an event on the whole state. -/
def exec (i : Instr) (s : State) : Host.Outcome State Fault Refusal :=
  match i with
  | .nop e => Sys2Proof.Machine.execNop e s
  | .exit => Sys2Proof.Machine.execExit s
  | .yield => Sys2Proof.Machine.execYield s
  | .ebreak e => Sys2Proof.Machine.execEbreak e s
  | .pause ra => Sys2Proof.Machine.execPause ra s
  | .acquire => Sys2Proof.Machine.execAcquire s
  | .waitc rd ra rb => Sys2Proof.Machine.execWaitc rd ra rb s
  | .getsr e rd n => Sys2Proof.Machine.execGetsr e rd n s
  | .setsr e ra n => Sys2Proof.Machine.execSetsr e ra n s
  | .getm e rd => Sys2Proof.Machine.execGetm e rd s
  | .setmr e ra => Sys2Proof.Machine.execSetmr e ra s
  | .join => Sys2Proof.Machine.execJoin s
  | .trap n => Sys2Proof.Machine.execTrap n s
  | .setm e imm => Sys2Proof.Machine.execSetm e imm s
  | .add e rd ra rb => Sys2Proof.Machine.execAdd e rd ra rb s
  | .sub e rd ra rb => Sys2Proof.Machine.execSub e rd ra rb s
  | .mul e rd ra rb => Sys2Proof.Machine.execMul e rd ra rb s
  | .mulh e rd ra rb => Sys2Proof.Machine.execMulh e rd ra rb s
  | .mulhu e rd ra rb => Sys2Proof.Machine.execMulhu e rd ra rb s
  | .div e rd ra rb => Sys2Proof.Machine.execDiv e rd ra rb s
  | .divu e rd ra rb => Sys2Proof.Machine.execDivu e rd ra rb s
  | .rem e rd ra rb => Sys2Proof.Machine.execRem e rd ra rb s
  | .remu e rd ra rb => Sys2Proof.Machine.execRemu e rd ra rb s
  | .and e rd ra rb => Sys2Proof.Machine.execAnd e rd ra rb s
  | .or e rd ra rb => Sys2Proof.Machine.execOr e rd ra rb s
  | .xor e rd ra rb => Sys2Proof.Machine.execXor e rd ra rb s
  | .andn e rd ra rb => Sys2Proof.Machine.execAndn e rd ra rb s
  | .shl e rd ra rb => Sys2Proof.Machine.execShl e rd ra rb s
  | .shr e rd ra rb => Sys2Proof.Machine.execShr e rd ra rb s
  | .sra e rd ra rb => Sys2Proof.Machine.execSra e rd ra rb s
  | .min e rd ra rb => Sys2Proof.Machine.execMin e rd ra rb s
  | .max e rd ra rb => Sys2Proof.Machine.execMax e rd ra rb s
  | .minu e rd ra rb => Sys2Proof.Machine.execMinu e rd ra rb s
  | .maxu e rd ra rb => Sys2Proof.Machine.execMaxu e rd ra rb s
  | .slt e rd ra rb => Sys2Proof.Machine.execSlt e rd ra rb s
  | .sltu e rd ra rb => Sys2Proof.Machine.execSltu e rd ra rb s
  | .seq e rd ra rb => Sys2Proof.Machine.execSeq e rd ra rb s
  | .sne e rd ra rb => Sys2Proof.Machine.execSne e rd ra rb s
  | .popc e rd ra => Sys2Proof.Machine.execPopc e rd ra s
  | .clz e rd ra => Sys2Proof.Machine.execClz e rd ra s
  | .ctz e rd ra => Sys2Proof.Machine.execCtz e rd ra s
  | .brev e rd ra => Sys2Proof.Machine.execBrev e rd ra s
  | .bfx e rd ra rb => Sys2Proof.Machine.execBfx e rd ra rb s
  | .addi e rd ra imm => Sys2Proof.Machine.execAddi e rd ra imm s
  | .andi e rd ra imm => Sys2Proof.Machine.execAndi e rd ra imm s
  | .ori e rd ra imm => Sys2Proof.Machine.execOri e rd ra imm s
  | .xori e rd ra imm => Sys2Proof.Machine.execXori e rd ra imm s
  | .shli e rd ra imm => Sys2Proof.Machine.execShli e rd ra imm s
  | .shri e rd ra imm => Sys2Proof.Machine.execShri e rd ra imm s
  | .srai e rd ra imm => Sys2Proof.Machine.execSrai e rd ra imm s
  | .slti e rd ra imm => Sys2Proof.Machine.execSlti e rd ra imm s
  | .sltiu e rd ra imm => Sys2Proof.Machine.execSltiu e rd ra imm s
  | .li e rd imm => Sys2Proof.Machine.execLi e rd imm s
  | .lui e rd imm => Sys2Proof.Machine.execLui e rd imm s
  | .lsi e rd imm => Sys2Proof.Machine.execLsi e rd imm s
  | .bz ra disp => Sys2Proof.Machine.execBz ra disp s
  | .bnz ra disp => Sys2Proof.Machine.execBnz ra disp s
  | .bltz ra disp => Sys2Proof.Machine.execBltz ra disp s
  | .bgez ra disp => Sys2Proof.Machine.execBgez ra disp s
  | .bgtz ra disp => Sys2Proof.Machine.execBgtz ra disp s
  | .blez ra disp => Sys2Proof.Machine.execBlez ra disp s
  | .jmp disp => Sys2Proof.Machine.execJmp disp s
  | .call disp => Sys2Proof.Machine.execCall disp s
  | .jr ra => Sys2Proof.Machine.execJr ra s
  | .calli ra => Sys2Proof.Machine.execCalli ra s
  | .ret => Sys2Proof.Machine.execRet s
  | .eject rd p disp => Sys2Proof.Machine.execEject rd p disp s
  | .vadd e vd va vb => Sys2Proof.Machine.execVadd e vd va vb s
  | .vsub e vd va vb => Sys2Proof.Machine.execVsub e vd va vb s
  | .vmul e vd va vb => Sys2Proof.Machine.execVmul e vd va vb s
  | .vmulh e vd va vb => Sys2Proof.Machine.execVmulh e vd va vb s
  | .vmulhu e vd va vb => Sys2Proof.Machine.execVmulhu e vd va vb s
  | .vand e vd va vb => Sys2Proof.Machine.execVand e vd va vb s
  | .vor e vd va vb => Sys2Proof.Machine.execVor e vd va vb s
  | .vxor e vd va vb => Sys2Proof.Machine.execVxor e vd va vb s
  | .vshl e vd va vb => Sys2Proof.Machine.execVshl e vd va vb s
  | .vshr e vd va vb => Sys2Proof.Machine.execVshr e vd va vb s
  | .vsra e vd va vb => Sys2Proof.Machine.execVsra e vd va vb s
  | .vmin e vd va vb => Sys2Proof.Machine.execVmin e vd va vb s
  | .vmax e vd va vb => Sys2Proof.Machine.execVmax e vd va vb s
  | .vminu e vd va vb => Sys2Proof.Machine.execVminu e vd va vb s
  | .vmaxu e vd va vb => Sys2Proof.Machine.execVmaxu e vd va vb s
  | .vabsd e vd va vb => Sys2Proof.Machine.execVabsd e vd va vb s
  | .vaddS e vd va sb => Sys2Proof.Machine.execVaddS e vd va sb s
  | .vsubS e vd va sb => Sys2Proof.Machine.execVsubS e vd va sb s
  | .vmulS e vd va sb => Sys2Proof.Machine.execVmulS e vd va sb s
  | .vmulhS e vd va sb => Sys2Proof.Machine.execVmulhS e vd va sb s
  | .vmulhuS e vd va sb => Sys2Proof.Machine.execVmulhuS e vd va sb s
  | .vandS e vd va sb => Sys2Proof.Machine.execVandS e vd va sb s
  | .vorS e vd va sb => Sys2Proof.Machine.execVorS e vd va sb s
  | .vxorS e vd va sb => Sys2Proof.Machine.execVxorS e vd va sb s
  | .vshlS e vd va sb => Sys2Proof.Machine.execVshlS e vd va sb s
  | .vshrS e vd va sb => Sys2Proof.Machine.execVshrS e vd va sb s
  | .vsraS e vd va sb => Sys2Proof.Machine.execVsraS e vd va sb s
  | .vminS e vd va sb => Sys2Proof.Machine.execVminS e vd va sb s
  | .vmaxS e vd va sb => Sys2Proof.Machine.execVmaxS e vd va sb s
  | .vminuS e vd va sb => Sys2Proof.Machine.execVminuS e vd va sb s
  | .vmaxuS e vd va sb => Sys2Proof.Machine.execVmaxuS e vd va sb s
  | .vabsdS e vd va sb => Sys2Proof.Machine.execVabsdS e vd va sb s
  | .vneg e vd va => Sys2Proof.Machine.execVneg e vd va s
  | .vabs e vd va => Sys2Proof.Machine.execVabs e vd va s
  | .vnot e vd va => Sys2Proof.Machine.execVnot e vd va s
  | .vpopc e vd va => Sys2Proof.Machine.execVpopc e vd va s
  | .vclz e vd va => Sys2Proof.Machine.execVclz e vd va s
  | .vctz e vd va => Sys2Proof.Machine.execVctz e vd va s
  | .vbrev e vd va => Sys2Proof.Machine.execVbrev e vd va s
  | .vmov e vd va => Sys2Proof.Machine.execVmov e vd va s
  | .vsel e vd va vb => Sys2Proof.Machine.execVsel e vd va vb s
  | .vmad e vd va vb => Sys2Proof.Machine.execVmad e vd va vb s
  | .vaddi e vd va imm => Sys2Proof.Machine.execVaddi e vd va imm s
  | .vli e vd imm => Sys2Proof.Machine.execVli e vd imm s
  | .vfadd e vd va vb => Sys2Proof.Machine.execVfadd e vd va vb s
  | .vfsub e vd va vb => Sys2Proof.Machine.execVfsub e vd va vb s
  | .vfmul e vd va vb => Sys2Proof.Machine.execVfmul e vd va vb s
  | .vfdiv e vd va vb => Sys2Proof.Machine.execVfdiv e vd va vb s
  | .vfmin e vd va vb => Sys2Proof.Machine.execVfmin e vd va vb s
  | .vfmax e vd va vb => Sys2Proof.Machine.execVfmax e vd va vb s
  | .vfsqrt e vd va => Sys2Proof.Machine.execVfsqrt e vd va s
  | .vfabs e vd va => Sys2Proof.Machine.execVfabs e vd va s
  | .vfneg e vd va => Sys2Proof.Machine.execVfneg e vd va s
  | .vfsgn e vd va vb => Sys2Proof.Machine.execVfsgn e vd va vb s
  | .vfrint e vd va => Sys2Proof.Machine.execVfrint e vd va s
  | .vfclass e vd va => Sys2Proof.Machine.execVfclass e vd va s
  | .vfaddS e vd va sb => Sys2Proof.Machine.execVfaddS e vd va sb s
  | .vfsubS e vd va sb => Sys2Proof.Machine.execVfsubS e vd va sb s
  | .vfmulS e vd va sb => Sys2Proof.Machine.execVfmulS e vd va sb s
  | .vfdivS e vd va sb => Sys2Proof.Machine.execVfdivS e vd va sb s
  | .vfminS e vd va sb => Sys2Proof.Machine.execVfminS e vd va sb s
  | .vfmaxS e vd va sb => Sys2Proof.Machine.execVfmaxS e vd va sb s
  | .vfma e vd va vb => Sys2Proof.Machine.execVfma e vd va vb s
  | .vfms e vd va vb => Sys2Proof.Machine.execVfms e vd va vb s
  | .vfnma e vd va vb => Sys2Proof.Machine.execVfnma e vd va vb s
  | .vfnms e vd va vb => Sys2Proof.Machine.execVfnms e vd va vb s
  | .vcvt e src vd va => Sys2Proof.Machine.execVcvt e src vd va s
  | .vtolog e vd va => Sys2Proof.Machine.execVtolog e vd va s
  | .vfromlog e vd va => Sys2Proof.Machine.execVfromlog e vd va s
  | .vlmul e vd va vb => Sys2Proof.Machine.execVlmul e vd va vb s
  | .vldiv e vd va vb => Sys2Proof.Machine.execVldiv e vd va vb s
  | .vlsqrt e vd va => Sys2Proof.Machine.execVlsqrt e vd va s
  | .vlpow e vd va vb => Sys2Proof.Machine.execVlpow e vd va vb s
  | .vexp2 e vd va => Sys2Proof.Machine.execVexp2 e vd va s
  | .vlog2 e vd va => Sys2Proof.Machine.execVlog2 e vd va s
  | .vcmp e c pd va vb => Sys2Proof.Machine.execVcmp e c pd va vb s
  | .vfcmp e c pd va vb => Sys2Proof.Machine.execVfcmp e c pd va vb s
  | .pand e pd pa pb => Sys2Proof.Machine.execPand e pd pa pb s
  | .por e pd pa pb => Sys2Proof.Machine.execPor e pd pa pb s
  | .pxor e pd pa pb => Sys2Proof.Machine.execPxor e pd pa pb s
  | .pandn e pd pa pb => Sys2Proof.Machine.execPandn e pd pa pb s
  | .pnot e pd pa => Sys2Proof.Machine.execPnot e pd pa s
  | .pmov e pd pa => Sys2Proof.Machine.execPmov e pd pa s
  | .pfirst e pd pa => Sys2Proof.Machine.execPfirst e pd pa s
  | .pfroms e pd ra => Sys2Proof.Machine.execPfroms e pd ra s
  | .vred e op rd va => Sys2Proof.Machine.execVred e op rd va s
  | .vscan e op vd va => Sys2Proof.Machine.execVscan e op vd va s
  | .vballot e rd pa => Sys2Proof.Machine.execVballot e rd pa s
  | .vpcnt e rd pa => Sys2Proof.Machine.execVpcnt e rd pa s
  | .vany e rd pa => Sys2Proof.Machine.execVany e rd pa s
  | .vall e rd pa => Sys2Proof.Machine.execVall e rd pa s
  | .vcompress e vd va p => Sys2Proof.Machine.execVcompress e vd va p s
  | .vexpand e vd va p => Sys2Proof.Machine.execVexpand e vd va p s
  | .vlaneid e vd => Sys2Proof.Machine.execVlaneid e vd s
  | .vfill e vd ra => Sys2Proof.Machine.execVfill e vd ra s
  | .vins e vd ra p => Sys2Proof.Machine.execVins e vd ra p s
  | .vext e rd va p => Sys2Proof.Machine.execVext e rd va p s
  | .vrdx e v sb imm => Sys2Proof.Machine.execVrdx e v sb imm s
  | .vwrx e v sb imm => Sys2Proof.Machine.execVwrx e v sb imm s
  | .route a b c seg => Sys2Proof.Machine.execRoute a b c seg s
  | .qual scope order cache => Sys2Proof.Machine.execQual scope order cache s
  | .vld e vd sb imm => Sys2Proof.Machine.execVld e vd sb imm s
  | .vldUni e vd sb imm => Sys2Proof.Machine.execVldUni e vd sb imm s
  | .vst e vd sb imm => Sys2Proof.Machine.execVst e vd sb imm s
  | .vldx e vd sb vo sc => Sys2Proof.Machine.execVldx e vd sb vo sc s
  | .vstx e vd sb vo sc => Sys2Proof.Machine.execVstx e vd sb vo sc s
  | .vstc e vd sb imm => Sys2Proof.Machine.execVstc e vd sb imm s
  | .vlds e swz vd sb imm => Sys2Proof.Machine.execVlds e swz vd sb imm s
  | .vsts e swz vd sb imm => Sys2Proof.Machine.execVsts e swz vd sb imm s
  | .vldsx e swz vd sb vo sc => Sys2Proof.Machine.execVldsx e swz vd sb vo sc s
  | .vstsx e swz vd sb vo sc => Sys2Proof.Machine.execVstsx e swz vd sb vo sc s
  | .sld e size sign sp rd sb imm => Sys2Proof.Machine.execSld e size sign sp rd sb imm s
  | .sst e size sp rd sb imm => Sys2Proof.Machine.execSst e size sp rd sb imm s
  | .vatom e op ret vd sb vo => Sys2Proof.Machine.execVatom e op ret vd sb vo s
  | .vatoms e op ret vd sb vo => Sys2Proof.Machine.execVatoms e op ret vd sb vo s
  | .satom e op ret w rd ra rb => Sys2Proof.Machine.execSatom e op ret w rd ra rb s
  | .fence e scope order => Sys2Proof.Machine.execFence e scope order s
  | .bar id => Sys2Proof.Machine.execBar id s
  | .barArrive e id => Sys2Proof.Machine.execBarArrive e id s
  | .barWait id => Sys2Proof.Machine.execBarWait id s
  | .gbar => Sys2Proof.Machine.execGbar s
  | .ltinit e ra rb => Sys2Proof.Machine.execLtinit e ra rb s
  | .ltarm e ra rb => Sys2Proof.Machine.execLtarm e ra rb s
  | .ltarrive e rd ra => Sys2Proof.Machine.execLtarrive e rd ra s
  | .ltwait ra rb => Sys2Proof.Machine.execLtwait ra rb s
  | .lttest e rd ra rb => Sys2Proof.Machine.execLttest e rd ra rb s
  | .hgarrive e h => Sys2Proof.Machine.execHgarrive e h s
  | .hgwait h => Sys2Proof.Machine.execHgwait h s
  | .cpy e rd ra => Sys2Proof.Machine.execCpy e rd ra s
  | .cpyLt e ra rb => Sys2Proof.Machine.execCpyLt e ra rb s
  | .cpyw e rd ra => Sys2Proof.Machine.execCpyw e rd ra s
  | .cpywLt e ra rb => Sys2Proof.Machine.execCpywLt e ra rb s
  | .cpyo e rd ra => Sys2Proof.Machine.execCpyo e rd ra s
  | .cpyoLt e ra rb => Sys2Proof.Machine.execCpyoLt e ra rb s
  | .cpyg e rd ra => Sys2Proof.Machine.execCpyg e rd ra s
  | .cpygLt e ra rb => Sys2Proof.Machine.execCpygLt e ra rb s
  | .cpyq e rd => Sys2Proof.Machine.execCpyq e rd s
  | .sdesc e rd ra => Sys2Proof.Machine.execSdesc e rd ra s
  | .sgo e ra => Sys2Proof.Machine.execSgo e ra s
  | .sstop e ra => Sys2Proof.Machine.execSstop e ra s
  | .mclaim e rd ra => Sys2Proof.Machine.execMclaim e rd ra s
  | .mrel e ra => Sys2Proof.Machine.execMrel e ra s
  | .mgo e rd ra => Sys2Proof.Machine.execMgo e rd ra s
  | .mstat e rd ra => Sys2Proof.Machine.execMstat e rd ra s
  | .dlaunch e rd ra rb => Sys2Proof.Machine.execDlaunch e rd ra rb s
  | .qnotify e ra rb => Sys2Proof.Machine.execQnotify e ra rb s
  | .kctx e rd ra => Sys2Proof.Machine.execKctx e rd ra s
  | .kpost e rd ra => Sys2Proof.Machine.execKpost e rd ra s
  | .kpostLt e ra rb => Sys2Proof.Machine.execKpostLt e ra rb s
  | .ksend e rd ra => Sys2Proof.Machine.execKsend e rd ra s
  | .ksendLt e ra rb => Sys2Proof.Machine.execKsendLt e ra rb s
  | .kcancel e rd ra rb => Sys2Proof.Machine.execKcancel e rd ra rb s
  | .kprobe e rd ra => Sys2Proof.Machine.execKprobe e rd ra s
  | .kpull e rd ra => Sys2Proof.Machine.execKpull e rd ra s
  | .kpullLt e ra rb => Sys2Proof.Machine.execKpullLt e ra rb s
  | .binit e rd ra => Sys2Proof.Machine.execBinit e rd ra s
  | .bcount e rd ra vb => Sys2Proof.Machine.execBcount e rd ra vb s
  | .bpatch e rd ra => Sys2Proof.Machine.execBpatch e rd ra s
  | .brel e rd => Sys2Proof.Machine.execBrel e rd s
  | .mnop => Sys2Proof.Machine.execMnop s
  | .mend => Sys2Proof.Machine.execMend s
  | .mloop q disp => Sys2Proof.Machine.execMloop q disp s
  | .mharr h => Sys2Proof.Machine.execMharr h s
  | .mhwait h => Sys2Proof.Machine.execMhwait h s
  | .mldo slot q side imm => Sys2Proof.Machine.execMldo slot q side imm s
  | .mdeq slot q blk ftz => Sys2Proof.Machine.execMdeq slot q blk ftz s
  | .mhad n slot fmt ftz => Sys2Proof.Machine.execMhad n slot fmt ftz s
  | .mqnt dst src gb4 ftz => Sys2Proof.Machine.execMqnt dst src gb4 ftz s
  | .mmla acc sa sb fa fb ftz => Sys2Proof.Machine.execMmla acc sa sb fa fb ftz s
  | .mzero acc => Sys2Proof.Machine.execMzero acc s
  | .msto q acc out rs slot ftz => Sys2Proof.Machine.execMsto q acc out rs slot ftz s
  | .mqadd q imm => Sys2Proof.Machine.execMqadd q imm s
  | .mset q imm => Sys2Proof.Machine.execMset q imm s
  | .deviceSlotConsume d q => Sys2Proof.Machine.execDeviceSlotConsume d q s
  | .slotFill d core qt => Sys2Proof.Machine.execSlotFill d core qt s
  | .tileOpStart d core => Sys2Proof.Machine.execTileOpStart d core s
  | .tileOpComplete d core => Sys2Proof.Machine.execTileOpComplete d core s
  | .pauseExpiry u => Sys2Proof.Machine.execPauseExpiry u s
  | .waitcWake u => Sys2Proof.Machine.execWaitcWake u s
  | .waitcReread u => Sys2Proof.Machine.execWaitcReread u s
  | .waitcTimeout u => Sys2Proof.Machine.execWaitcTimeout u s
  | .trapRingWrite d => Sys2Proof.Machine.execTrapRingWrite d s
  | .faultRingWrite d => Sys2Proof.Machine.execFaultRingWrite d s
  | .strandResume u => Sys2Proof.Machine.execStrandResume u s
  | .crewEnd c => Sys2Proof.Machine.execCrewEnd c s
  | .crewComplete c => Sys2Proof.Machine.execCrewComplete c s
  | .launchEvent d n => Sys2Proof.Machine.execLaunchEvent d n s
  | .waitMet d q => Sys2Proof.Machine.execWaitMet d q s
  | .crewAdmission d => Sys2Proof.Machine.execCrewAdmission d s
  | .priorityAging d q => Sys2Proof.Machine.execPriorityAging d q s
  | .passoverTimeout d q => Sys2Proof.Machine.execPassoverTimeout d q s
  | .energyWindow basePower => Sys2Proof.Machine.execEnergyWindow basePower s
  | .preempt c image => Sys2Proof.Machine.execPreempt c image s
  | .crewResume c core => Sys2Proof.Machine.execCrewResume c core s
  | .tlbInvalidate d va len => Sys2Proof.Machine.execTlbInvalidate d va len s
  | .copyAccept d core => Sys2Proof.Machine.execCopyAccept d core s
  | .copyComplete c op => Sys2Proof.Machine.execCopyComplete c op s
  | .copyResume c op => Sys2Proof.Machine.execCopyResume c op s
  | .binningComplete c => Sys2Proof.Machine.execBinningComplete c s
  | .streamLineRequest c handle => Sys2Proof.Machine.execStreamLineRequest c handle s
  | .gets to_ m => Sys2Proof.Machine.execGets to_ m s
  | .getx to_ m => Sys2Proof.Machine.execGetx to_ m s
  | .tok to_ m => Sys2Proof.Machine.execTok to_ m s
  | .transientTimeout who sec => Sys2Proof.Machine.execTransientTimeout who sec s
  | .persistentTimeout who sec => Sys2Proof.Machine.execPersistentTimeout who sec s
  | .preq m => Sys2Proof.Machine.execPreq m s
  | .pact to_ m => Sys2Proof.Machine.execPact to_ m s
  | .pdone h epoch => Sys2Proof.Machine.execPdone h epoch s
  | .pdeact to_ h epoch => Sys2Proof.Machine.execPdeact to_ h epoch s
  | .recoveryTimeout h => Sys2Proof.Machine.execRecoveryTimeout h s
  | .recreate to_ line serial => Sys2Proof.Machine.execRecreate to_ line serial s
  | .recack m => Sys2Proof.Machine.execRecack m s
  | .lossCheck line => Sys2Proof.Machine.execLossCheck line s
  | .flitGiveUp n => Sys2Proof.Machine.execFlitGiveUp n s
  | .recallTokens to_ m => Sys2Proof.Machine.execRecall to_ m s
  | .recallTimeout sec => Sys2Proof.Machine.execRecallTimeout sec s
  | .atom m => Sys2Proof.Machine.execAtom m s
  | .hld m => Sys2Proof.Machine.execHld m s
  | .hst m => Sys2Proof.Machine.execHst m s
  | .atomr m => Sys2Proof.Machine.execAtomr m s
  | .hldr m => Sys2Proof.Machine.execHldr m s
  | .hstr m => Sys2Proof.Machine.execHstr m s
  | .cxlMemrd k line => Sys2Proof.Machine.execCxlMemrd k line s
  | .cxlMemwr k line data => Sys2Proof.Machine.execCxlMemwr k line data s
  | .cxlSnoop k line inv => Sys2Proof.Machine.execCxlSnoop k line inv s
  | .bisnpResponse k sec data => Sys2Proof.Machine.execBisnpResponse k sec data s
  | .cxlHostData k sec own data => Sys2Proof.Machine.execCxlHostData k sec own data s
  | .fabRead port pk => Sys2Proof.Machine.execFabRead port pk s
  | .fabReadReply port pk => Sys2Proof.Machine.execFabReadReply port pk s
  | .fabWrite port pk => Sys2Proof.Machine.execFabWrite port pk s
  | .fabWriteAck port pk => Sys2Proof.Machine.execFabWriteAck port pk s
  | .fabAtomic port pk => Sys2Proof.Machine.execFabAtomic port pk s
  | .fabAtomicReply port pk => Sys2Proof.Machine.execFabAtomicReply port pk s
  | .multicastWrite port pk => Sys2Proof.Machine.execMulticastWrite port pk s
  | .remoteTimeout u txn => Sys2Proof.Machine.execRemoteTimeout u txn s
  | .mcastAckTimeout u txn => Sys2Proof.Machine.execMcastAckTimeout u txn s
  | .keywayMessage m => Sys2Proof.Machine.execKeywayMessage m s
  | .keywayAck d send => Sys2Proof.Machine.execKeywayAck d send s
  | .keywayNack d send => Sys2Proof.Machine.execKeywayNack d send s
  | .keywayReject d send => Sys2Proof.Machine.execKeywayReject d send s
  | .keywayRetry d send => Sys2Proof.Machine.execKeywayRetry d send s
  | .keywayAckTimeout d send => Sys2Proof.Machine.execKeywayAckTimeout d send s
  | .pullRequest m => Sys2Proof.Machine.execPullRequest m s
  | .pullData m => Sys2Proof.Machine.execPullData m s
  | .machine d sub addr => Sys2Proof.Machine.execMachine d sub addr s
  | .launch d q tag record waits => Sys2Proof.Machine.execLaunch d q tag record waits s
  | .copy d q tag src dst len ext flags => Sys2Proof.Machine.execCopy d q tag src dst len ext flags s
  | .map d tag va frame bits count size => Sys2Proof.Machine.execMap d tag va frame bits count size s
  | .unmap d tag va count size => Sys2Proof.Machine.execUnmap d tag va count size s
  | .exportReq d tag va len flags => Sys2Proof.Machine.execExportReq d tag va len flags s
  | .importReq d tag handle va => Sys2Proof.Machine.execImportReq d tag handle va s
  | .signal d q tag ctr operand op => Sys2Proof.Machine.execSignal d q tag ctr operand op s
  | .query f tag => Sys2Proof.Machine.execQuery f tag s
  | .reset d tag queue => Sys2Proof.Machine.execReset d tag queue s
  | .filegrant d tag ext access base len => Sys2Proof.Machine.execFilegrant d tag ext access base len s
  | .fwupdate f tag addr len => Sys2Proof.Machine.execFwupdate f tag addr len s
  | .debugset f tag die queue ltag word => Sys2Proof.Machine.execDebugset f tag die queue ltag word s
  | .brkset f tag die brk kind mask addr => Sys2Proof.Machine.execBrkset f tag die brk kind mask addr s
  | .trapresp d idx status vals => Sys2Proof.Machine.execTrapresp d idx status vals s
  | .trapheadWrite d v => Sys2Proof.Machine.execTrapheadWrite d v s
  | .fltheadWrite d v => Sys2Proof.Machine.execFltheadWrite d v s
  | .kctxWrite d c w0 ring plist => Sys2Proof.Machine.execKctxWrite d c w0 ring plist s
  | .kchreset d v => Sys2Proof.Machine.execKchreset d v s
  | .clkmodeWrite d v => Sys2Proof.Machine.execClkmodeWrite d v s
  | .cohmodeWrite d v => Sys2Proof.Machine.execCohmodeWrite d v s
  | .rootWrite d v => Sys2Proof.Machine.execRootWrite d v s
  | .registerWrite r => Sys2Proof.Machine.execRegisterWrite r s
  | .tdispStop f => Sys2Proof.Machine.execTdispStop f s
  | .functionLevelReset d => Sys2Proof.Machine.execFunctionLevelReset d s
  | .bringUp b => Sys2Proof.Machine.execBringUp b s
  | .clockStepDown d => Sys2Proof.Machine.execClockStepDown d s
  | .recreateFilterExpiry who line => Sys2Proof.Machine.execRecreateFilterExpiry who line s
  | .recoveryRateWindow h => Sys2Proof.Machine.execRecoveryRateWindow h s
  | .resetTokenAck d h => Sys2Proof.Machine.execResetTokenAck d h s
  | .lockInterfaceRequest f => Sys2Proof.Machine.execLockInterfaceRequest f s
  | .startInterfaceRequest f => Sys2Proof.Machine.execStartInterfaceRequest f s
  | .eventQueueEntryFree f => Sys2Proof.Machine.execEventQueueEntryFree f s
  | .copyRequestComplete d id => Sys2Proof.Machine.execCopyRequestComplete d id s
  | .copyFaultDecline c op => Sys2Proof.Machine.execCopyFaultDecline c op s
  | .pageTableStore pa v => Sys2Proof.Machine.execPageTableStore pa v s
  | .unknownPacketType port pk => Sys2Proof.Machine.execUnknownPacketType port pk s

end Sys2Proof.Machine
end

