-- ==== Sys2Proof/Machine/Schedule.lean ====
section
/-! DEFINITION. Who moves next (log 1). A turn lets a strand issue its next unit, a sequencer context execute its next word, an
event happen, or time pass. State names the next turns; where it names none, one of what the device could do next is taken by a
free value. What comes from outside (the host, the service OS, other packages) happens only as a named turn. -/

namespace Sys2Proof.Machine

open Sys2Proof

/-- What a step answers. -/
abbrev Out := Host.Outcome State Fault Refusal

/-! ### The turns -/

/-- The prefixes of a unit, and the state its instruction then executes in; a prefix that faults stops it. -/
def State.runPrefixes (s : State) : List Instr → State
  | [] => s
  | p :: ps => match exec p s with
    | .next t => if t.focus.state == .issuing then t.runPrefixes ps else t
    | _ => s

/-- A unit: its prefixes, then its instruction. -/
def State.runUnit (s : State) (ps : List Instr) (i : Instr) : Out :=
  let t := s.runPrefixes ps
  if t.focus.state == .issuing then exec i t else .next t

/-- A strand of the quarter whose run began earlier has a unit that is ready on the scoreboard: that one issues (R326). -/
def State.laterRun (s : State) : Bool :=
  s.strands.any (fun x => x.state == .issuing && !x.stalled && x.began < s.focus.began && s.onQuarter s.crew.die s.crew.core s.focus.quarter x)

/-- A strand that issues executes its next unit, when its quarter takes that (R43, R326). -/
def State.runStrand (s : State) (u : Nat) : Out :=
  match s.take u with
  | none => .next s.putBack
  | some t =>
    if t.focus.state != .issuing || t.crew.preempted || t.laterRun then .next t.putBack
    else match t.fetchUnit with
      | .stop t => .next t
      | .unit t ps i => t.runUnit ps i

/-- The array is at an operation of the crew in hand (R168). -/
def State.inArray (s : State) : Bool := match (s.core s.crew.die s.crew.core).array with
  | some a => a.crew == s.crew.uid
  | none => false

/-- A crew's running context executes its next word; a tile operation, only when the array is free and it is the crew's turn (R163,
R168 to R170). -/
def State.runSeq (s : State) (c : Nat) : Out :=
  let turn := (s.putBack.crewOf c).any s.putBack.tileTurn
  match s.takeCrew c with
  | none => .next s.putBack
  | some t =>
    if t.crew.seq.state != .running || !t.crew.hasSeq || t.crew.preempted || t.halting t.crew || t.inArray then .next t.putBack
    else match t.seqFetch with
      | (t, .wait) => .next t.putBack
      | (t, .bad code sub addr) => .next (t.seqFault code sub addr)
      | (t, .instr i) =>
        if (tileEffect t.crew i).isSome && !(turn && t.arrayFree) then .next t.putBack else exec i t

/-- TIME moves on, and each die's CLOCK with it at its rate, in units of 50 MHz (R328, R339). -/
def State.pass (s : State) (ns : Nat) : State :=
  let s := s.putBack
  { s with time := s.time + ns,
           dies := s.dies.map (fun d => { d with clock := d.clock + ((s.time + ns) * d.rate / 20 - s.time * d.rate / 20) }) }

/-- A named turn. -/
def State.runTurn (s : State) (t : Turn) : Out :=
  match t with
  | .strand u => s.runStrand u
  | .seq c => s.runSeq c
  | .event i => exec i s
  | .advance ns => .next (s.pass ns)
  | .corrected d => .next (s.eccCorrect d)
  | .parityL1 d c sec => .next (s.parityDrop d c sec)
  | .parityTlb d c va => .next (s.parityTlb d c va)
  | .keyway d => .next (s.keywayTurn d)
  | .invalidated d => .next (s.putBack.invalGo d)
  | .debugWrite u r v => .next (s.debugPut u r v)
  | .request f q raw => match requestOf f q raw with
    | some m => m s
    | none => .next (s.badRequest f q raw)
  | .fwWritten => .next s.putBack.fwWrite
  | .freed pa len => .next (s.freeMemory pa len)

/-! ### What the device can do next -/

/-- The dies, and the numbers of their queues, cores and quarters. -/
def allDies : List DieId := (below 8).map (Fin.ofNat 8)
def allQueues : List QueueId := (below 64).map (Fin.ofNat 64)
def allCores : List CoreId := (below 20).map (Fin.ofNat 20)
def allQuarters : List QuarterId := (below 4).map (Fin.ofNat 4)

/-- The event of a message on its way. -/
def arrival (f : Flight) : State → Out :=
  match f.msg with
  | .gets m => execGets f.dst m
  | .getx m => execGetx f.dst m
  | .tok m _ => execTok f.dst m
  | .preq m => execPreq m
  | .pact m => execPact f.dst m
  | .pdone h e => execPdone h e
  | .pdeact h e => execPdeact f.dst h e
  | .recreate l n => execRecreate f.dst l n
  | .recack m => execRecack m
  | .recallTokens m => execRecall f.dst m
  | .atom m => execAtom m
  | .hld m => execHld m
  | .hst m => execHst m
  | .rep k m => if k = 0 then execAtomr m else if k = 1 then execHldr m else execHstr m
  | .key m => execKeywayMessage m
  | .keyRep d n w => (if w = 0 then execKeywayAck else if w = 1 then execKeywayNack else execKeywayReject) d { send := n, via := none }
  | .pullReq m => execPullRequest m
  | .pullData m => execPullData m

/-- Messages: each may arrive next, in any order (R209), or be given up (R215). -/
def State.netTurns (s : State) : List (State → Out) :=
  s.net.map arrival ++ (below s.net.length).map (fun n => execFlitGiveUp n)

/-- The requests and recalls whose timeouts may be due, the recoveries, and the filters (R201, R215 to R219). -/
def State.tokenTurns (s : State) : List (State → Out) :=
  (cacheHolders.map (fun h => (s.cache h).reqs.map (fun r =>
      if r.stage = 0 then execTransientTimeout h r.sec else execPersistentTimeout h r.sec))).flatten
    ++ (cacheHolders.map (fun h => (s.cache h).filter.map (fun f => execRecreateFilterExpiry h f.1))).flatten
    ++ (s.homes.map (fun h => execRecoveryTimeout h.1 :: h.2.recov.map (fun r => execLossCheck r.line))).flatten
    ++ (s.homes.map (fun h => h.2.recalls.map (fun r => execRecallTimeout r.1))).flatten

/-- What strands and their remote accesses may do next. -/
def State.strandTurns (s : State) : List (State → Out) :=
  (s.strands.map (fun x =>
    (if x.state == .issuing then [fun (s : State) => s.runStrand x.uid] else [])
      ++ (match x.park with
        | some (.wait (.pause _)) => [execPauseExpiry x.uid]
        | some (.wait (.waitc _ _ _ _ _)) => [execWaitcWake x.uid, execWaitcReread x.uid, execWaitcTimeout x.uid]
        | _ => [])
      ++ (x.remotes.map (fun m => m.parts.map (fun p => execRemoteTimeout x.uid p.txn))).flatten
      ++ (match x.mcast with
        | some m => m.await.map (fun a => execMcastAckTimeout x.uid a.2.txn)
        | none => []))).flatten

/-- The timeouts of what a cursor of an engine awaits from other packages (R280). -/
def CopyOp.waits (o : CopyOp) : List (State → Out) := o.txns.map (fun t => execRemoteTimeout o.id t.1)

/-- What a crew's context, engines and end may do next; a pre-empted one may be resumed on any core (R310). -/
def State.crewTurns (s : State) : List (State → Out) :=
  (s.crews.map (fun k =>
    [fun (s : State) => s.runSeq k.uid, execBinningComplete k.uid, execCrewComplete k.uid]
      ++ k.copies.map (fun o => execCopyComplete k.uid o.id) ++ (k.copies.map CopyOp.waits).flatten
      ++ k.streams.map (fun x => execStreamLineRequest k.uid x.handle)
      ++ (match k.stopping with
        | some image => [execPreempt k.uid image]
        | none => [])
      ++ (if k.preempted then allCores.map (fun c => execCrewResume k.uid c) else []))).flatten

/-- What a die's queue port, rings, cores and Keyway may do next. -/
def State.dieTurns (s : State) (d : DieId) : List (State → Out) :=
  let x := s.die d
  [execCrewAdmission d, execTrapRingWrite d, execFaultRingWrite d, execClockStepDown d, fun (s : State) => .next (s.keywayTurn d)]
    ++ allQueues.map (fun q => execWaitMet d q) ++ allQueues.map (fun q => execPriorityAging d q)
    ++ allQueues.map (fun q => execPassoverTimeout d q) ++ allQueues.map (fun q => execDeviceSlotConsume d q)
    ++ (below x.port.ends.length).map (fun n => execLaunchEvent d n)
    ++ (allCores.map (fun c => [execCopyAccept d c, execTileOpStart d c, execTileOpComplete d c]
        ++ allQuarters.map (fun q => execSlotFill d c q))).flatten
    ++ x.invals.map (fun _ => fun (s : State) => .next (s.putBack.invalGo d))
    ++ x.copies.map (fun c => execCopyRequestComplete d c.id)
    ++ (x.key.sends.map (fun y => [execKeywayRetry d y.send.id, execKeywayAckTimeout d y.send.id] ++ y.cur.waits)).flatten
    ++ (x.key.recvs.map (fun y => y.cur.waits)).flatten ++ (x.far.filter (fun f => f.kind = .remote)).map (fun f => execRemoteTimeout 0 f.txn)
    ++ x.resetAcks.map (fun h => execResetTokenAck d h)

/-- Everything the device could do next; time may always pass. -/
def State.choices (s : State) : List (State → Out) :=
  (fun (s : State) => .next (s.pass 1)) :: execEnergyWindow (Config.freePower s.free) :: (fun (s : State) => .next s.putBack.fwWrite)
    :: (s.strandTurns ++ s.crewTurns ++ (allDies.map s.dieTurns).flatten ++ s.tokenTurns ++ s.netTurns)

/-- With no turn named, a free value chooses among what the device could do next. -/
def State.runFree (s : State) : Out :=
  let s := s.putBack
  let cs := s.choices
  let t : State := { s with free := s.free + 1 }
  (cs.getD (Config.freeTurn s.free % cs.length) (fun s => .next s)) t

/-! ### Placing one instruction where the next step fetches it -/

/-- Where `withFetchWord` puts an instruction, in virtual and physical memory alike. -/
def placeAt : Nat := 0x100000

/-- The kernel header of the crew that executes it: every unit of a core is there. -/
def placeHeader : Header :=
  { Header.blank with entry := 16, lanes := 16, vregs := 128, vprologue := 128, strands := 1, scratch := 65536, slots := 64,
                      tiles := 16, stream := 16 }

/-- The nonzero bytes of an instruction word at its place. -/
def placeCells (w : Nat) : List Host.Cell :=
  ((below 4).map (fun k => (placeAt + k, BitVec.ofNat 8 (w / 2 ^ (8 * k))))).filter (fun c => c.2 != 0)

/-- A launch of one crew of one strand on die 0, core 0, whose next unit, or whose context's next word, is the word `w`. -/
def State.placeWord (s : State) (w : Nat) : State :=
  let s := s.putBack
  let u := s.fresh
  let c := s.fresh + 1
  let pc := BitVec.ofNat 64 placeAt
  let rec_ : LaunchRec := { LaunchRec.blank with header := pc - 64, nx := 1, ny := 1, nz := 1 }
  let asStrand := (decodeWord (BitVec.ofNat 32 w)).isOk
  let x : Strand := { Strand.blank with
    uid := u, crew := c, root := u, state := .issuing, pc := pc, unitPc := pc, live := 0xFFFF, full := true, joinSeq := u }
  let k : Crew := { Crew.blank with
    uid := c, hdrAddr := pc - 64, hdr := placeHeader, rec_ := rec_, hasSeq := true, tiles := List.replicate 16 [],
    seq := if asStrand then Seq.stopped else { Seq.stopped with state := .running, pc := pc, start := pc } }
  let g : Grid :=
    { slot := 0, queue := 0, tag := 0, hdrAddr := pc - 64, hdr := placeHeader, rec_ := rec_, next := 1, complete := 0, imgRoot := 0,
      image := placeCells w, known := [], fetched := [], kills := 0, killBy := [], faults := [], gphase := 0, debug := 0 }
  let l : TlbEntry := { level := 1, vpn := 0, pte := 0x3F, at_ := 0 }
  let s := s.modDie 0 (fun d => { d with
    port := { d.port with grids := g :: d.port.grids.filter (fun g => g.slot != 0) },
    cores := d.cores.set 0 { d.cores[0] with turn := s.fresh, tlb := l :: d.cores[0].tlb.filter (fun e => !e.maps placeAt) } })
  let s := (below 4).foldl (fun s k => s.setMemByte (placeAt + k) (BitVec.ofNat 8 (w / 2 ^ (8 * k)))) s
  { s with strands := upsert (fun x => x.uid) x s.strands, crews := upsert (fun x => x.uid) k s.crews, fresh := s.fresh + 2,
           turns := [if asStrand then .strand u else .seq c] }

end Sys2Proof.Machine
end

