-- ==== Sys2Proof/Machine/Step.lean ====
section
/-! DEFINITION. The step: the next named turn, or a free choice of what the device does next. -/

namespace Sys2Proof.Machine

open Sys2Proof

/-- One step of the machine. -/
def step (s : State) : Host.Outcome State Fault Refusal :=
  match s.turns with
  | t :: rest => ({ s with turns := rest } : State).runTurn t
  | [] => s.runFree

/-- The state with an instruction of bits `w` stored where the next step fetches it, and its turn named next (log 26). Every
instruction of this device is one 32-bit word; the bits above `nbits` are 0. -/
def State.withFetchWord (s : State) (nbits w : Nat) : State := s.placeWord (w % 2 ^ nbits)

end Sys2Proof.Machine
end

