-- ==== Sys2Proof/Laws/Encoding.lean ====
section
/-! SUPPORT. Packing fields into a word and splitting it again (R48): what the round trip of every instruction rests on. -/

namespace Sys2Proof

/-- Every field's value fits its width. -/
def Fits : List (Nat × Nat) → Prop
  | [] => True
  | f :: t => f.2 < 2 ^ f.1 ∧ Fits t

@[simp] theorem Fits_nil : Fits [] := trivial
@[simp] theorem Fits_cons (f : Nat × Nat) (t : List (Nat × Nat)) : Fits (f :: t) ↔ f.2 < 2 ^ f.1 ∧ Fits t := Iff.rfl

theorem pack_lt : ∀ fs, Fits fs → pack fs < 2 ^ bitsOfFields fs
  | [], _ => by simp [pack, bitsOfFields]
  | f :: t, h => by
    have ih := pack_lt t h.2
    have h1 := h.1
    simp only [pack, bitsOfFields, Nat.pow_add]
    calc f.2 * 2 ^ bitsOfFields t + pack t < f.2 * 2 ^ bitsOfFields t + 2 ^ bitsOfFields t := by omega
      _ = (f.2 + 1) * 2 ^ bitsOfFields t := by rw [Nat.add_mul, Nat.one_mul]
      _ ≤ 2 ^ f.1 * 2 ^ bitsOfFields t := Nat.mul_le_mul_right _ h1

theorem bitsOf_map : ∀ fs : List (Nat × Nat), bitsOf (fs.map Prod.fst) = bitsOfFields fs
  | [] => rfl
  | f :: t => by simp [bitsOf, bitsOfFields, bitsOf_map t]

/-- Splitting what was packed gives the fields back, whatever stands above them. -/
theorem split_pack : ∀ (fs : List (Nat × Nat)) (k : Nat), Fits fs →
    split (fs.map Prod.fst) (k * 2 ^ bitsOfFields fs + pack fs) = fs.map Prod.snd
  | [], _, _ => rfl
  | f :: t, k, h => by
    have ih := split_pack t (k * 2 ^ f.1 + f.2) h.2
    have hl := pack_lt t h.2
    have e : k * 2 ^ bitsOfFields (f :: t) + pack (f :: t) = (k * 2 ^ f.1 + f.2) * 2 ^ bitsOfFields t + pack t := by
      simp only [bitsOfFields, pack, Nat.pow_add, Nat.add_mul, Nat.mul_assoc, Nat.add_assoc]
    rw [e]
    simp only [List.map_cons, split, bitsOf_map, ih]
    congr 1
    rw [Nat.add_comm, Nat.add_mul_div_right _ _ (Nat.two_pow_pos _), Nat.div_eq_of_lt hl, Nat.zero_add, Nat.add_comm,
      Nat.add_mul_mod_self_right, Nat.mod_eq_of_lt h.1]

/-- E, the major opcode and the fields of a strand word. -/
theorem word_fields {e m : Nat} {fs : List (Nat × Nat)} (he : e < 2) (hm : m < 64) (hf : Fits fs) (hb : bitsOfFields fs = 25) :
    (word e m fs).toNat / 2147483648 = e ∧ (word e m fs).toNat / 33554432 % 64 = m ∧
    split (fs.map Prod.fst) (word e m fs).toNat = fs.map Prod.snd := by
  have hl := pack_lt fs hf
  have hw : (word e m fs).toNat = (e * 64 + m) * 2 ^ bitsOfFields fs + pack fs := by
    simp only [word, pack, bitsOfFields, BitVec.toNat_ofNat]
    rw [hb] at hl ⊢
    omega
  rw [hw]
  refine ⟨?_, ?_, split_pack fs _ hf⟩ <;> · rw [hb] at hl ⊢; omega

/-- The opcode and the fields of a sequencer word. -/
theorem seqWord_fields {op : Nat} {fs : List (Nat × Nat)} (ho : op < 32) (hf : Fits fs) (hb : bitsOfFields fs = 27) :
    (seqWord op fs).toNat / 134217728 = op ∧ split (fs.map Prod.fst) (seqWord op fs).toNat = fs.map Prod.snd := by
  have hl := pack_lt fs hf
  have hw : (seqWord op fs).toNat = op * 2 ^ bitsOfFields fs + pack fs := by
    simp only [seqWord, pack, BitVec.toNat_ofNat]
    rw [hb] at hl ⊢
    omega
  rw [hw]
  refine ⟨?_, split_pack fs _ hf⟩
  rw [hb] at hl ⊢
  omega

@[simp] theorem bool_toNat_lt (b : Bool) : b.toNat < 2 := by cases b <;> decide
@[simp] theorem bool_toNat_le (b : Bool) : b.toNat ≤ 1 := by cases b <;> decide
@[simp] theorem bool_of_toNat (b : Bool) : (b.toNat == 1) = b := by cases b <;> rfl
@[simp] theorem Ty.code_lt (t : Ty) : t.code < 16 := by cases t <;> decide
@[simp] theorem Ty.ofCode_code (t : Ty) : Ty.ofCode t.code = t := by cases t <;> rfl
@[simp] theorem Cmp.code_lt (c : Cmp) : c.code < 16 := by cases c <;> decide
@[simp] theorem Cmp.code_listed (c : Cmp) : c.code < 10 := by cases c <;> decide
@[simp] theorem Cmp.ofCode_code (c : Cmp) : Cmp.ofCode c.code = c := by cases c <;> rfl
@[simp] theorem FCmp.code_lt (c : FCmp) : c.code < 16 := by cases c <;> decide
@[simp] theorem FCmp.code_listed (c : FCmp) : c.code < 8 := by cases c <;> decide
@[simp] theorem FCmp.ofCode_code (c : FCmp) : FCmp.ofCode c.code = c := by cases c <;> rfl
@[simp] theorem RedOp.code_lt (o : RedOp) : o.code < 8 := by cases o <;> decide
@[simp] theorem RedOp.code_listed (o : RedOp) : o.code < 6 := by cases o <;> decide
@[simp] theorem RedOp.ofCode_code (o : RedOp) : RedOp.ofCode o.code = o := by cases o <;> rfl
@[simp] theorem AOp.code_lt (o : AOp) : o.code < 16 := by cases o <;> decide
@[simp] theorem AOp.code_listed (o : AOp) : o.code < 13 := by cases o <;> decide
@[simp] theorem AOp.ofCode_code (o : AOp) : AOp.ofCode o.code = o := by cases o <;> rfl
@[simp] theorem Order.code_lt (o : Order) : o.code < 4 := by cases o <;> decide
@[simp] theorem Order.ofCode_code (o : Order) : Order.ofCode o.code = o := by cases o <;> rfl

@[simp] theorem Decode.ok_eq (i : Instr) : Decode.ok i = .ok i := rfl
@[simp] theorem Decode.zero_eq (zs : List Nat) (i : Instr) :
    Decode.zero zs i = if zs.all (· == 0) then .ok i else .error (.illegal 3) := rfl
@[simp] theorem Decode.atEnd_eq (e : Bool) (r : Except DecErr Instr) : Decode.atEnd e r = if e then r else .error .runEnd := rfl

end Sys2Proof
end

