-- ==== Sys2Proof/Laws/PerInstr.lean ====
section
/-! SUPPORT. The family RoundTrip, per instruction: decoding the word of a well-formed instruction in its own stream gives the
instruction back (R42, R48, R53, R57). An event has no word. -/

namespace Sys2Proof.Laws.RoundTrip

/-- The word of the instruction, if it has one, decodes to the instruction. -/
def Statement (i : Instr) : Prop := i.wf = true → ∀ w, encodeWord i = some w → i.decodeOwn w = .ok i

theorem of_event {i : Instr} (h : encodeWord i = none) : Statement i := fun _ w hw => by simp [h] at hw

theorem of_word {i : Instr} {e m : Nat} {fs : List (Nat × Nat)} (hx : encodeWord i = some (word e m fs)) (hs : i.inSeq = false)
    (hb : bitsOfFields fs = 25) (hm : m < 64) (he : e < 2) (hf : Fits fs)
    (h : i.wf = true → ∀ w : W32, w.toNat / 2147483648 = e → w.toNat / 33554432 % 64 = m →
      split (fs.map Prod.fst) w.toNat = fs.map Prod.snd → decodeWord w = .ok i) : Statement i := fun hw w hx' => by
  cases Option.some.inj (hx.symm.trans hx')
  obtain ⟨h1, h2, h3⟩ := word_fields he hm hf hb
  simpa [Instr.decodeOwn, hs] using h hw _ h1 h2 h3

theorem of_seqWord {i : Instr} {op : Nat} {fs : List (Nat × Nat)} (hx : encodeWord i = some (seqWord op fs)) (hs : i.inSeq = true)
    (hb : bitsOfFields fs = 27) (ho : op < 32) (hf : Fits fs)
    (h : i.wf = true → ∀ w : W32, w.toNat / 134217728 = op → split (fs.map Prod.fst) w.toNat = fs.map Prod.snd →
      decodeSeq w = .ok i) : Statement i := fun hw w hx' => by
  cases Option.some.inj (hx.symm.trans hx')
  obtain ⟨h1, h2⟩ := seqWord_fields ho hf hb
  simpa [Instr.decodeOwn, hs] using h hw _ h1 h2

theorem nop (e : Bool) : Statement (.nop e) := of_word rfl rfl rfl (by decide) (by simp) (by simp)
  (fun hw w h1 h2 h3 => by simp at h3; simp [decodeWord, h1, h2, Decode.major00, h3])
theorem exit : Statement .exit := of_word rfl rfl rfl (by decide) (by simp) (by simp)
  (fun hw w h1 h2 h3 => by simp at h3; simp [decodeWord, h1, h2, Decode.major00, h3])
theorem yield : Statement .yield := of_word rfl rfl rfl (by decide) (by simp) (by simp)
  (fun hw w h1 h2 h3 => by simp at h3; simp [decodeWord, h1, h2, Decode.major00, h3])
theorem ebreak (e : Bool) : Statement (.ebreak e) := of_word rfl rfl rfl (by decide) (by simp) (by simp)
  (fun hw w h1 h2 h3 => by simp at h3; simp [decodeWord, h1, h2, Decode.major00, h3])
theorem pause (ra : SReg) : Statement (.pause ra) := of_word rfl rfl rfl (by decide) (by simp) (by simp; omega)
  (fun hw w h1 h2 h3 => by simp at h3; simp [decodeWord, h1, h2, Decode.major00, h3])
theorem acquire : Statement .acquire := of_word rfl rfl rfl (by decide) (by simp) (by simp)
  (fun hw w h1 h2 h3 => by simp at h3; simp [decodeWord, h1, h2, Decode.major00, h3])
theorem waitc (rd : SReg) (ra : SReg) (rb : SReg) : Statement (.waitc rd ra rb) := of_word rfl rfl rfl (by decide) (by simp) (by simp; omega)
  (fun hw w h1 h2 h3 => by simp at h3; simp [decodeWord, h1, h2, Decode.major00, h3])
theorem getsr (e : Bool) (rd : SReg) (n : BitVec 6) : Statement (.getsr e rd n) := of_word rfl rfl rfl (by decide) (by simp) (by simp; omega)
  (fun hw w h1 h2 h3 => by simp at h3; simp [decodeWord, h1, h2, Decode.major00, h3])
theorem setsr (e : Bool) (ra : SReg) (n : BitVec 6) : Statement (.setsr e ra n) := of_word rfl rfl rfl (by decide) (by simp) (by simp; omega)
  (fun hw w h1 h2 h3 => by simp at h3; simp [decodeWord, h1, h2, Decode.major00, h3])
theorem getm (e : Bool) (rd : SReg) : Statement (.getm e rd) := of_word rfl rfl rfl (by decide) (by simp) (by simp; omega)
  (fun hw w h1 h2 h3 => by simp at h3; simp [decodeWord, h1, h2, Decode.major00, h3])
theorem setmr (e : Bool) (ra : SReg) : Statement (.setmr e ra) := of_word rfl rfl rfl (by decide) (by simp) (by simp; omega)
  (fun hw w h1 h2 h3 => by simp at h3; simp [decodeWord, h1, h2, Decode.major00, h3])
theorem join : Statement .join := of_word rfl rfl rfl (by decide) (by simp) (by simp)
  (fun hw w h1 h2 h3 => by simp at h3; simp [decodeWord, h1, h2, Decode.major00, h3])
theorem trap (n : BitVec 19) : Statement (.trap n) := of_word rfl rfl rfl (by decide) (by simp) (by simp; omega)
  (fun hw w h1 h2 h3 => by simp at h3; simp [decodeWord, h1, h2, Decode.major01, h3])
theorem setm (e : Bool) (imm : BitVec 13) : Statement (.setm e imm) := of_word rfl rfl rfl (by decide) (by simp) (by simp; omega)
  (fun hw w h1 h2 h3 => by simp at h3; simp [decodeWord, h1, h2, Decode.major02, h3]; omega)
theorem add (e : Bool) (rd : SReg) (ra : SReg) (rb : SReg) : Statement (.add e rd ra rb) := of_word rfl rfl rfl (by decide) (by simp) (by simp; omega)
  (fun hw w h1 h2 h3 => by simp at h3; simp [decodeWord, h1, h2, Decode.major04, h3])
theorem sub (e : Bool) (rd : SReg) (ra : SReg) (rb : SReg) : Statement (.sub e rd ra rb) := of_word rfl rfl rfl (by decide) (by simp) (by simp; omega)
  (fun hw w h1 h2 h3 => by simp at h3; simp [decodeWord, h1, h2, Decode.major04, h3])
theorem mul (e : Bool) (rd : SReg) (ra : SReg) (rb : SReg) : Statement (.mul e rd ra rb) := of_word rfl rfl rfl (by decide) (by simp) (by simp; omega)
  (fun hw w h1 h2 h3 => by simp at h3; simp [decodeWord, h1, h2, Decode.major04, h3])
theorem mulh (e : Bool) (rd : SReg) (ra : SReg) (rb : SReg) : Statement (.mulh e rd ra rb) := of_word rfl rfl rfl (by decide) (by simp) (by simp; omega)
  (fun hw w h1 h2 h3 => by simp at h3; simp [decodeWord, h1, h2, Decode.major04, h3])
theorem mulhu (e : Bool) (rd : SReg) (ra : SReg) (rb : SReg) : Statement (.mulhu e rd ra rb) := of_word rfl rfl rfl (by decide) (by simp) (by simp; omega)
  (fun hw w h1 h2 h3 => by simp at h3; simp [decodeWord, h1, h2, Decode.major04, h3])
theorem div (e : Bool) (rd : SReg) (ra : SReg) (rb : SReg) : Statement (.div e rd ra rb) := of_word rfl rfl rfl (by decide) (by simp) (by simp; omega)
  (fun hw w h1 h2 h3 => by simp at h3; simp [decodeWord, h1, h2, Decode.major04, h3])
theorem divu (e : Bool) (rd : SReg) (ra : SReg) (rb : SReg) : Statement (.divu e rd ra rb) := of_word rfl rfl rfl (by decide) (by simp) (by simp; omega)
  (fun hw w h1 h2 h3 => by simp at h3; simp [decodeWord, h1, h2, Decode.major04, h3])
theorem rem (e : Bool) (rd : SReg) (ra : SReg) (rb : SReg) : Statement (.rem e rd ra rb) := of_word rfl rfl rfl (by decide) (by simp) (by simp; omega)
  (fun hw w h1 h2 h3 => by simp at h3; simp [decodeWord, h1, h2, Decode.major04, h3])
theorem remu (e : Bool) (rd : SReg) (ra : SReg) (rb : SReg) : Statement (.remu e rd ra rb) := of_word rfl rfl rfl (by decide) (by simp) (by simp; omega)
  (fun hw w h1 h2 h3 => by simp at h3; simp [decodeWord, h1, h2, Decode.major04, h3])
theorem and (e : Bool) (rd : SReg) (ra : SReg) (rb : SReg) : Statement (.and e rd ra rb) := of_word rfl rfl rfl (by decide) (by simp) (by simp; omega)
  (fun hw w h1 h2 h3 => by simp at h3; simp [decodeWord, h1, h2, Decode.major04, h3])
theorem or (e : Bool) (rd : SReg) (ra : SReg) (rb : SReg) : Statement (.or e rd ra rb) := of_word rfl rfl rfl (by decide) (by simp) (by simp; omega)
  (fun hw w h1 h2 h3 => by simp at h3; simp [decodeWord, h1, h2, Decode.major04, h3])
theorem xor (e : Bool) (rd : SReg) (ra : SReg) (rb : SReg) : Statement (.xor e rd ra rb) := of_word rfl rfl rfl (by decide) (by simp) (by simp; omega)
  (fun hw w h1 h2 h3 => by simp at h3; simp [decodeWord, h1, h2, Decode.major04, h3])
theorem andn (e : Bool) (rd : SReg) (ra : SReg) (rb : SReg) : Statement (.andn e rd ra rb) := of_word rfl rfl rfl (by decide) (by simp) (by simp; omega)
  (fun hw w h1 h2 h3 => by simp at h3; simp [decodeWord, h1, h2, Decode.major04, h3])
theorem shl (e : Bool) (rd : SReg) (ra : SReg) (rb : SReg) : Statement (.shl e rd ra rb) := of_word rfl rfl rfl (by decide) (by simp) (by simp; omega)
  (fun hw w h1 h2 h3 => by simp at h3; simp [decodeWord, h1, h2, Decode.major04, h3])
theorem shr (e : Bool) (rd : SReg) (ra : SReg) (rb : SReg) : Statement (.shr e rd ra rb) := of_word rfl rfl rfl (by decide) (by simp) (by simp; omega)
  (fun hw w h1 h2 h3 => by simp at h3; simp [decodeWord, h1, h2, Decode.major04, h3])
theorem sra (e : Bool) (rd : SReg) (ra : SReg) (rb : SReg) : Statement (.sra e rd ra rb) := of_word rfl rfl rfl (by decide) (by simp) (by simp; omega)
  (fun hw w h1 h2 h3 => by simp at h3; simp [decodeWord, h1, h2, Decode.major04, h3])
theorem min (e : Bool) (rd : SReg) (ra : SReg) (rb : SReg) : Statement (.min e rd ra rb) := of_word rfl rfl rfl (by decide) (by simp) (by simp; omega)
  (fun hw w h1 h2 h3 => by simp at h3; simp [decodeWord, h1, h2, Decode.major04, h3])
theorem max (e : Bool) (rd : SReg) (ra : SReg) (rb : SReg) : Statement (.max e rd ra rb) := of_word rfl rfl rfl (by decide) (by simp) (by simp; omega)
  (fun hw w h1 h2 h3 => by simp at h3; simp [decodeWord, h1, h2, Decode.major04, h3])
theorem minu (e : Bool) (rd : SReg) (ra : SReg) (rb : SReg) : Statement (.minu e rd ra rb) := of_word rfl rfl rfl (by decide) (by simp) (by simp; omega)
  (fun hw w h1 h2 h3 => by simp at h3; simp [decodeWord, h1, h2, Decode.major04, h3])
theorem maxu (e : Bool) (rd : SReg) (ra : SReg) (rb : SReg) : Statement (.maxu e rd ra rb) := of_word rfl rfl rfl (by decide) (by simp) (by simp; omega)
  (fun hw w h1 h2 h3 => by simp at h3; simp [decodeWord, h1, h2, Decode.major04, h3])
theorem slt (e : Bool) (rd : SReg) (ra : SReg) (rb : SReg) : Statement (.slt e rd ra rb) := of_word rfl rfl rfl (by decide) (by simp) (by simp; omega)
  (fun hw w h1 h2 h3 => by simp at h3; simp [decodeWord, h1, h2, Decode.major04, h3])
theorem sltu (e : Bool) (rd : SReg) (ra : SReg) (rb : SReg) : Statement (.sltu e rd ra rb) := of_word rfl rfl rfl (by decide) (by simp) (by simp; omega)
  (fun hw w h1 h2 h3 => by simp at h3; simp [decodeWord, h1, h2, Decode.major04, h3])
theorem seq (e : Bool) (rd : SReg) (ra : SReg) (rb : SReg) : Statement (.seq e rd ra rb) := of_word rfl rfl rfl (by decide) (by simp) (by simp; omega)
  (fun hw w h1 h2 h3 => by simp at h3; simp [decodeWord, h1, h2, Decode.major04, h3])
theorem sne (e : Bool) (rd : SReg) (ra : SReg) (rb : SReg) : Statement (.sne e rd ra rb) := of_word rfl rfl rfl (by decide) (by simp) (by simp; omega)
  (fun hw w h1 h2 h3 => by simp at h3; simp [decodeWord, h1, h2, Decode.major04, h3])
theorem popc (e : Bool) (rd : SReg) (ra : SReg) : Statement (.popc e rd ra) := of_word rfl rfl rfl (by decide) (by simp) (by simp; omega)
  (fun hw w h1 h2 h3 => by simp at h3; simp [decodeWord, h1, h2, Decode.major04, h3])
theorem clz (e : Bool) (rd : SReg) (ra : SReg) : Statement (.clz e rd ra) := of_word rfl rfl rfl (by decide) (by simp) (by simp; omega)
  (fun hw w h1 h2 h3 => by simp at h3; simp [decodeWord, h1, h2, Decode.major04, h3])
theorem ctz (e : Bool) (rd : SReg) (ra : SReg) : Statement (.ctz e rd ra) := of_word rfl rfl rfl (by decide) (by simp) (by simp; omega)
  (fun hw w h1 h2 h3 => by simp at h3; simp [decodeWord, h1, h2, Decode.major04, h3])
theorem brev (e : Bool) (rd : SReg) (ra : SReg) : Statement (.brev e rd ra) := of_word rfl rfl rfl (by decide) (by simp) (by simp; omega)
  (fun hw w h1 h2 h3 => by simp at h3; simp [decodeWord, h1, h2, Decode.major04, h3])
theorem bfx (e : Bool) (rd : SReg) (ra : SReg) (rb : SReg) : Statement (.bfx e rd ra rb) := of_word rfl rfl rfl (by decide) (by simp) (by simp; omega)
  (fun hw w h1 h2 h3 => by simp at h3; simp [decodeWord, h1, h2, Decode.major04, h3])
theorem addi (e : Bool) (rd : SReg) (ra : SReg) (imm : BitVec 13) : Statement (.addi e rd ra imm) := of_word rfl rfl rfl (by decide) (by simp) (by simp; omega)
  (fun hw w h1 h2 h3 => by simp at h3; simp [decodeWord, h1, h2, Decode.major05, h3])
theorem andi (e : Bool) (rd : SReg) (ra : SReg) (imm : BitVec 13) : Statement (.andi e rd ra imm) := of_word rfl rfl rfl (by decide) (by simp) (by simp; omega)
  (fun hw w h1 h2 h3 => by simp at h3; simp [decodeWord, h1, h2, Decode.major06, h3])
theorem ori (e : Bool) (rd : SReg) (ra : SReg) (imm : BitVec 13) : Statement (.ori e rd ra imm) := of_word rfl rfl rfl (by decide) (by simp) (by simp; omega)
  (fun hw w h1 h2 h3 => by simp at h3; simp [decodeWord, h1, h2, Decode.major07, h3])
theorem xori (e : Bool) (rd : SReg) (ra : SReg) (imm : BitVec 13) : Statement (.xori e rd ra imm) := of_word rfl rfl rfl (by decide) (by simp) (by simp; omega)
  (fun hw w h1 h2 h3 => by simp at h3; simp [decodeWord, h1, h2, Decode.major08, h3])
theorem shli (e : Bool) (rd : SReg) (ra : SReg) (imm : BitVec 13) : Statement (.shli e rd ra imm) := of_word rfl rfl rfl (by decide) (by simp) (by simp; omega)
  (fun hw w h1 h2 h3 => by simp at h3; simp [decodeWord, h1, h2, Decode.major09, h3])
theorem shri (e : Bool) (rd : SReg) (ra : SReg) (imm : BitVec 13) : Statement (.shri e rd ra imm) := of_word rfl rfl rfl (by decide) (by simp) (by simp; omega)
  (fun hw w h1 h2 h3 => by simp at h3; simp [decodeWord, h1, h2, Decode.major0A, h3])
theorem srai (e : Bool) (rd : SReg) (ra : SReg) (imm : BitVec 13) : Statement (.srai e rd ra imm) := of_word rfl rfl rfl (by decide) (by simp) (by simp; omega)
  (fun hw w h1 h2 h3 => by simp at h3; simp [decodeWord, h1, h2, Decode.major0B, h3])
theorem slti (e : Bool) (rd : SReg) (ra : SReg) (imm : BitVec 13) : Statement (.slti e rd ra imm) := of_word rfl rfl rfl (by decide) (by simp) (by simp; omega)
  (fun hw w h1 h2 h3 => by simp at h3; simp [decodeWord, h1, h2, Decode.major0C, h3])
theorem sltiu (e : Bool) (rd : SReg) (ra : SReg) (imm : BitVec 13) : Statement (.sltiu e rd ra imm) := of_word rfl rfl rfl (by decide) (by simp) (by simp; omega)
  (fun hw w h1 h2 h3 => by simp at h3; simp [decodeWord, h1, h2, Decode.major0D, h3])
theorem li (e : Bool) (rd : SReg) (imm : BitVec 19) : Statement (.li e rd imm) := of_word rfl rfl rfl (by decide) (by simp) (by simp; omega)
  (fun hw w h1 h2 h3 => by simp at h3; simp [decodeWord, h1, h2, Decode.major0E, h3])
theorem lui (e : Bool) (rd : SReg) (imm : BitVec 19) : Statement (.lui e rd imm) := of_word rfl rfl rfl (by decide) (by simp) (by simp; omega)
  (fun hw w h1 h2 h3 => by simp at h3; simp [decodeWord, h1, h2, Decode.major0F, h3])
theorem lsi (e : Bool) (rd : SReg) (imm : BitVec 19) : Statement (.lsi e rd imm) := of_word rfl rfl rfl (by decide) (by simp) (by simp; omega)
  (fun hw w h1 h2 h3 => by simp at h3; simp [decodeWord, h1, h2, Decode.major10, h3])
theorem bz (ra : SReg) (disp : BitVec 16) : Statement (.bz ra disp) := of_word rfl rfl rfl (by decide) (by simp) (by simp; omega)
  (fun hw w h1 h2 h3 => by simp at h3; simp [decodeWord, h1, h2, Decode.major11, h3])
theorem bnz (ra : SReg) (disp : BitVec 16) : Statement (.bnz ra disp) := of_word rfl rfl rfl (by decide) (by simp) (by simp; omega)
  (fun hw w h1 h2 h3 => by simp at h3; simp [decodeWord, h1, h2, Decode.major11, h3])
theorem bltz (ra : SReg) (disp : BitVec 16) : Statement (.bltz ra disp) := of_word rfl rfl rfl (by decide) (by simp) (by simp; omega)
  (fun hw w h1 h2 h3 => by simp at h3; simp [decodeWord, h1, h2, Decode.major11, h3])
theorem bgez (ra : SReg) (disp : BitVec 16) : Statement (.bgez ra disp) := of_word rfl rfl rfl (by decide) (by simp) (by simp; omega)
  (fun hw w h1 h2 h3 => by simp at h3; simp [decodeWord, h1, h2, Decode.major11, h3])
theorem bgtz (ra : SReg) (disp : BitVec 16) : Statement (.bgtz ra disp) := of_word rfl rfl rfl (by decide) (by simp) (by simp; omega)
  (fun hw w h1 h2 h3 => by simp at h3; simp [decodeWord, h1, h2, Decode.major11, h3])
theorem blez (ra : SReg) (disp : BitVec 16) : Statement (.blez ra disp) := of_word rfl rfl rfl (by decide) (by simp) (by simp; omega)
  (fun hw w h1 h2 h3 => by simp at h3; simp [decodeWord, h1, h2, Decode.major11, h3])
theorem jmp (disp : BitVec 25) : Statement (.jmp disp) := of_word rfl rfl rfl (by decide) (by simp) (by simp; omega)
  (fun hw w h1 h2 h3 => by simp at h3; simp [decodeWord, h1, h2, Decode.major12, h3])
theorem call (disp : BitVec 25) : Statement (.call disp) := of_word rfl rfl rfl (by decide) (by simp) (by simp; omega)
  (fun hw w h1 h2 h3 => by simp at h3; simp [decodeWord, h1, h2, Decode.major13, h3])
theorem jr (ra : SReg) : Statement (.jr ra) := of_word rfl rfl rfl (by decide) (by simp) (by simp; omega)
  (fun hw w h1 h2 h3 => by simp at h3; simp [decodeWord, h1, h2, Decode.major14, h3])
theorem calli (ra : SReg) : Statement (.calli ra) := of_word rfl rfl rfl (by decide) (by simp) (by simp; omega)
  (fun hw w h1 h2 h3 => by simp at h3; simp [decodeWord, h1, h2, Decode.major14, h3])
theorem ret : Statement .ret := of_word rfl rfl rfl (by decide) (by simp) (by simp)
  (fun hw w h1 h2 h3 => by simp at h3; simp [decodeWord, h1, h2, Decode.major14, h3])
theorem eject (rd : SReg) (p : PReg) (disp : BitVec 16) : Statement (.eject rd p disp) := of_word rfl rfl rfl (by decide) (by simp) (by simp; omega)
  (fun hw w h1 h2 h3 => by simp at h3; simp [decodeWord, h1, h2, Decode.major15, h3])
theorem vadd (e : Bool) (vd : VReg) (va : VReg) (vb : VReg) : Statement (.vadd e vd va vb) := of_word rfl rfl rfl (by decide) (by simp) (by simp; omega)
  (fun hw w h1 h2 h3 => by simp at h3; simp [decodeWord, h1, h2, Decode.major18, h3])
theorem vsub (e : Bool) (vd : VReg) (va : VReg) (vb : VReg) : Statement (.vsub e vd va vb) := of_word rfl rfl rfl (by decide) (by simp) (by simp; omega)
  (fun hw w h1 h2 h3 => by simp at h3; simp [decodeWord, h1, h2, Decode.major18, h3])
theorem vmul (e : Bool) (vd : VReg) (va : VReg) (vb : VReg) : Statement (.vmul e vd va vb) := of_word rfl rfl rfl (by decide) (by simp) (by simp; omega)
  (fun hw w h1 h2 h3 => by simp at h3; simp [decodeWord, h1, h2, Decode.major18, h3])
theorem vmulh (e : Bool) (vd : VReg) (va : VReg) (vb : VReg) : Statement (.vmulh e vd va vb) := of_word rfl rfl rfl (by decide) (by simp) (by simp; omega)
  (fun hw w h1 h2 h3 => by simp at h3; simp [decodeWord, h1, h2, Decode.major18, h3])
theorem vmulhu (e : Bool) (vd : VReg) (va : VReg) (vb : VReg) : Statement (.vmulhu e vd va vb) := of_word rfl rfl rfl (by decide) (by simp) (by simp; omega)
  (fun hw w h1 h2 h3 => by simp at h3; simp [decodeWord, h1, h2, Decode.major18, h3])
theorem vand (e : Bool) (vd : VReg) (va : VReg) (vb : VReg) : Statement (.vand e vd va vb) := of_word rfl rfl rfl (by decide) (by simp) (by simp; omega)
  (fun hw w h1 h2 h3 => by simp at h3; simp [decodeWord, h1, h2, Decode.major18, h3])
theorem vor (e : Bool) (vd : VReg) (va : VReg) (vb : VReg) : Statement (.vor e vd va vb) := of_word rfl rfl rfl (by decide) (by simp) (by simp; omega)
  (fun hw w h1 h2 h3 => by simp at h3; simp [decodeWord, h1, h2, Decode.major18, h3])
theorem vxor (e : Bool) (vd : VReg) (va : VReg) (vb : VReg) : Statement (.vxor e vd va vb) := of_word rfl rfl rfl (by decide) (by simp) (by simp; omega)
  (fun hw w h1 h2 h3 => by simp at h3; simp [decodeWord, h1, h2, Decode.major18, h3])
theorem vshl (e : Bool) (vd : VReg) (va : VReg) (vb : VReg) : Statement (.vshl e vd va vb) := of_word rfl rfl rfl (by decide) (by simp) (by simp; omega)
  (fun hw w h1 h2 h3 => by simp at h3; simp [decodeWord, h1, h2, Decode.major18, h3])
theorem vshr (e : Bool) (vd : VReg) (va : VReg) (vb : VReg) : Statement (.vshr e vd va vb) := of_word rfl rfl rfl (by decide) (by simp) (by simp; omega)
  (fun hw w h1 h2 h3 => by simp at h3; simp [decodeWord, h1, h2, Decode.major18, h3])
theorem vsra (e : Bool) (vd : VReg) (va : VReg) (vb : VReg) : Statement (.vsra e vd va vb) := of_word rfl rfl rfl (by decide) (by simp) (by simp; omega)
  (fun hw w h1 h2 h3 => by simp at h3; simp [decodeWord, h1, h2, Decode.major18, h3])
theorem vmin (e : Bool) (vd : VReg) (va : VReg) (vb : VReg) : Statement (.vmin e vd va vb) := of_word rfl rfl rfl (by decide) (by simp) (by simp; omega)
  (fun hw w h1 h2 h3 => by simp at h3; simp [decodeWord, h1, h2, Decode.major18, h3])
theorem vmax (e : Bool) (vd : VReg) (va : VReg) (vb : VReg) : Statement (.vmax e vd va vb) := of_word rfl rfl rfl (by decide) (by simp) (by simp; omega)
  (fun hw w h1 h2 h3 => by simp at h3; simp [decodeWord, h1, h2, Decode.major18, h3])
theorem vminu (e : Bool) (vd : VReg) (va : VReg) (vb : VReg) : Statement (.vminu e vd va vb) := of_word rfl rfl rfl (by decide) (by simp) (by simp; omega)
  (fun hw w h1 h2 h3 => by simp at h3; simp [decodeWord, h1, h2, Decode.major18, h3])
theorem vmaxu (e : Bool) (vd : VReg) (va : VReg) (vb : VReg) : Statement (.vmaxu e vd va vb) := of_word rfl rfl rfl (by decide) (by simp) (by simp; omega)
  (fun hw w h1 h2 h3 => by simp at h3; simp [decodeWord, h1, h2, Decode.major18, h3])
theorem vabsd (e : Bool) (vd : VReg) (va : VReg) (vb : VReg) : Statement (.vabsd e vd va vb) := of_word rfl rfl rfl (by decide) (by simp) (by simp; omega)
  (fun hw w h1 h2 h3 => by simp at h3; simp [decodeWord, h1, h2, Decode.major18, h3])
theorem vaddS (e : Bool) (vd : VReg) (va : VReg) (sb : SReg) : Statement (.vaddS e vd va sb) := of_word rfl rfl rfl (by decide) (by simp) (by simp; omega)
  (fun hw w h1 h2 h3 => by simp at h3; simp [decodeWord, h1, h2, Decode.major19, h3])
theorem vsubS (e : Bool) (vd : VReg) (va : VReg) (sb : SReg) : Statement (.vsubS e vd va sb) := of_word rfl rfl rfl (by decide) (by simp) (by simp; omega)
  (fun hw w h1 h2 h3 => by simp at h3; simp [decodeWord, h1, h2, Decode.major19, h3])
theorem vmulS (e : Bool) (vd : VReg) (va : VReg) (sb : SReg) : Statement (.vmulS e vd va sb) := of_word rfl rfl rfl (by decide) (by simp) (by simp; omega)
  (fun hw w h1 h2 h3 => by simp at h3; simp [decodeWord, h1, h2, Decode.major19, h3])
theorem vmulhS (e : Bool) (vd : VReg) (va : VReg) (sb : SReg) : Statement (.vmulhS e vd va sb) := of_word rfl rfl rfl (by decide) (by simp) (by simp; omega)
  (fun hw w h1 h2 h3 => by simp at h3; simp [decodeWord, h1, h2, Decode.major19, h3])
theorem vmulhuS (e : Bool) (vd : VReg) (va : VReg) (sb : SReg) : Statement (.vmulhuS e vd va sb) := of_word rfl rfl rfl (by decide) (by simp) (by simp; omega)
  (fun hw w h1 h2 h3 => by simp at h3; simp [decodeWord, h1, h2, Decode.major19, h3])
theorem vandS (e : Bool) (vd : VReg) (va : VReg) (sb : SReg) : Statement (.vandS e vd va sb) := of_word rfl rfl rfl (by decide) (by simp) (by simp; omega)
  (fun hw w h1 h2 h3 => by simp at h3; simp [decodeWord, h1, h2, Decode.major19, h3])
theorem vorS (e : Bool) (vd : VReg) (va : VReg) (sb : SReg) : Statement (.vorS e vd va sb) := of_word rfl rfl rfl (by decide) (by simp) (by simp; omega)
  (fun hw w h1 h2 h3 => by simp at h3; simp [decodeWord, h1, h2, Decode.major19, h3])
theorem vxorS (e : Bool) (vd : VReg) (va : VReg) (sb : SReg) : Statement (.vxorS e vd va sb) := of_word rfl rfl rfl (by decide) (by simp) (by simp; omega)
  (fun hw w h1 h2 h3 => by simp at h3; simp [decodeWord, h1, h2, Decode.major19, h3])
theorem vshlS (e : Bool) (vd : VReg) (va : VReg) (sb : SReg) : Statement (.vshlS e vd va sb) := of_word rfl rfl rfl (by decide) (by simp) (by simp; omega)
  (fun hw w h1 h2 h3 => by simp at h3; simp [decodeWord, h1, h2, Decode.major19, h3])
theorem vshrS (e : Bool) (vd : VReg) (va : VReg) (sb : SReg) : Statement (.vshrS e vd va sb) := of_word rfl rfl rfl (by decide) (by simp) (by simp; omega)
  (fun hw w h1 h2 h3 => by simp at h3; simp [decodeWord, h1, h2, Decode.major19, h3])
theorem vsraS (e : Bool) (vd : VReg) (va : VReg) (sb : SReg) : Statement (.vsraS e vd va sb) := of_word rfl rfl rfl (by decide) (by simp) (by simp; omega)
  (fun hw w h1 h2 h3 => by simp at h3; simp [decodeWord, h1, h2, Decode.major19, h3])
theorem vminS (e : Bool) (vd : VReg) (va : VReg) (sb : SReg) : Statement (.vminS e vd va sb) := of_word rfl rfl rfl (by decide) (by simp) (by simp; omega)
  (fun hw w h1 h2 h3 => by simp at h3; simp [decodeWord, h1, h2, Decode.major19, h3])
theorem vmaxS (e : Bool) (vd : VReg) (va : VReg) (sb : SReg) : Statement (.vmaxS e vd va sb) := of_word rfl rfl rfl (by decide) (by simp) (by simp; omega)
  (fun hw w h1 h2 h3 => by simp at h3; simp [decodeWord, h1, h2, Decode.major19, h3])
theorem vminuS (e : Bool) (vd : VReg) (va : VReg) (sb : SReg) : Statement (.vminuS e vd va sb) := of_word rfl rfl rfl (by decide) (by simp) (by simp; omega)
  (fun hw w h1 h2 h3 => by simp at h3; simp [decodeWord, h1, h2, Decode.major19, h3])
theorem vmaxuS (e : Bool) (vd : VReg) (va : VReg) (sb : SReg) : Statement (.vmaxuS e vd va sb) := of_word rfl rfl rfl (by decide) (by simp) (by simp; omega)
  (fun hw w h1 h2 h3 => by simp at h3; simp [decodeWord, h1, h2, Decode.major19, h3])
theorem vabsdS (e : Bool) (vd : VReg) (va : VReg) (sb : SReg) : Statement (.vabsdS e vd va sb) := of_word rfl rfl rfl (by decide) (by simp) (by simp; omega)
  (fun hw w h1 h2 h3 => by simp at h3; simp [decodeWord, h1, h2, Decode.major19, h3])
theorem vneg (e : Bool) (vd : VReg) (va : VReg) : Statement (.vneg e vd va) := of_word rfl rfl rfl (by decide) (by simp) (by simp; omega)
  (fun hw w h1 h2 h3 => by simp at h3; simp [decodeWord, h1, h2, Decode.major1A, h3])
theorem vabs (e : Bool) (vd : VReg) (va : VReg) : Statement (.vabs e vd va) := of_word rfl rfl rfl (by decide) (by simp) (by simp; omega)
  (fun hw w h1 h2 h3 => by simp at h3; simp [decodeWord, h1, h2, Decode.major1A, h3])
theorem vnot (e : Bool) (vd : VReg) (va : VReg) : Statement (.vnot e vd va) := of_word rfl rfl rfl (by decide) (by simp) (by simp; omega)
  (fun hw w h1 h2 h3 => by simp at h3; simp [decodeWord, h1, h2, Decode.major1A, h3])
theorem vpopc (e : Bool) (vd : VReg) (va : VReg) : Statement (.vpopc e vd va) := of_word rfl rfl rfl (by decide) (by simp) (by simp; omega)
  (fun hw w h1 h2 h3 => by simp at h3; simp [decodeWord, h1, h2, Decode.major1A, h3])
theorem vclz (e : Bool) (vd : VReg) (va : VReg) : Statement (.vclz e vd va) := of_word rfl rfl rfl (by decide) (by simp) (by simp; omega)
  (fun hw w h1 h2 h3 => by simp at h3; simp [decodeWord, h1, h2, Decode.major1A, h3])
theorem vctz (e : Bool) (vd : VReg) (va : VReg) : Statement (.vctz e vd va) := of_word rfl rfl rfl (by decide) (by simp) (by simp; omega)
  (fun hw w h1 h2 h3 => by simp at h3; simp [decodeWord, h1, h2, Decode.major1A, h3])
theorem vbrev (e : Bool) (vd : VReg) (va : VReg) : Statement (.vbrev e vd va) := of_word rfl rfl rfl (by decide) (by simp) (by simp; omega)
  (fun hw w h1 h2 h3 => by simp at h3; simp [decodeWord, h1, h2, Decode.major1A, h3])
theorem vmov (e : Bool) (vd : VReg) (va : VReg) : Statement (.vmov e vd va) := of_word rfl rfl rfl (by decide) (by simp) (by simp; omega)
  (fun hw w h1 h2 h3 => by simp at h3; simp [decodeWord, h1, h2, Decode.major1A, h3])
theorem vsel (e : Bool) (vd : VReg) (va : VReg) (vb : VReg) : Statement (.vsel e vd va vb) := of_word rfl rfl rfl (by decide) (by simp) (by simp; omega)
  (fun hw w h1 h2 h3 => by simp at h3; simp [decodeWord, h1, h2, Decode.major1A, h3])
theorem vmad (e : Bool) (vd : VReg) (va : VReg) (vb : VReg) : Statement (.vmad e vd va vb) := of_word rfl rfl rfl (by decide) (by simp) (by simp; omega)
  (fun hw w h1 h2 h3 => by simp at h3; simp [decodeWord, h1, h2, Decode.major1A, h3])
theorem vaddi (e : Bool) (vd : VReg) (va : VReg) (imm : BitVec 11) : Statement (.vaddi e vd va imm) := of_word rfl rfl rfl (by decide) (by simp) (by simp; omega)
  (fun hw w h1 h2 h3 => by simp at h3; simp [decodeWord, h1, h2, Decode.major1B, h3])
theorem vli (e : Bool) (vd : VReg) (imm : BitVec 18) : Statement (.vli e vd imm) := of_word rfl rfl rfl (by decide) (by simp) (by simp; omega)
  (fun hw w h1 h2 h3 => by simp at h3; simp [decodeWord, h1, h2, Decode.major1C, h3])
theorem vfadd (e : Bool) (vd : VReg) (va : VReg) (vb : VReg) : Statement (.vfadd e vd va vb) := of_word rfl rfl rfl (by decide) (by simp) (by simp; omega)
  (fun hw w h1 h2 h3 => by simp at h3; simp [decodeWord, h1, h2, Decode.major1D, h3])
theorem vfsub (e : Bool) (vd : VReg) (va : VReg) (vb : VReg) : Statement (.vfsub e vd va vb) := of_word rfl rfl rfl (by decide) (by simp) (by simp; omega)
  (fun hw w h1 h2 h3 => by simp at h3; simp [decodeWord, h1, h2, Decode.major1D, h3])
theorem vfmul (e : Bool) (vd : VReg) (va : VReg) (vb : VReg) : Statement (.vfmul e vd va vb) := of_word rfl rfl rfl (by decide) (by simp) (by simp; omega)
  (fun hw w h1 h2 h3 => by simp at h3; simp [decodeWord, h1, h2, Decode.major1D, h3])
theorem vfdiv (e : Bool) (vd : VReg) (va : VReg) (vb : VReg) : Statement (.vfdiv e vd va vb) := of_word rfl rfl rfl (by decide) (by simp) (by simp; omega)
  (fun hw w h1 h2 h3 => by simp at h3; simp [decodeWord, h1, h2, Decode.major1D, h3])
theorem vfmin (e : Bool) (vd : VReg) (va : VReg) (vb : VReg) : Statement (.vfmin e vd va vb) := of_word rfl rfl rfl (by decide) (by simp) (by simp; omega)
  (fun hw w h1 h2 h3 => by simp at h3; simp [decodeWord, h1, h2, Decode.major1D, h3])
theorem vfmax (e : Bool) (vd : VReg) (va : VReg) (vb : VReg) : Statement (.vfmax e vd va vb) := of_word rfl rfl rfl (by decide) (by simp) (by simp; omega)
  (fun hw w h1 h2 h3 => by simp at h3; simp [decodeWord, h1, h2, Decode.major1D, h3])
theorem vfsqrt (e : Bool) (vd : VReg) (va : VReg) : Statement (.vfsqrt e vd va) := of_word rfl rfl rfl (by decide) (by simp) (by simp; omega)
  (fun hw w h1 h2 h3 => by simp at h3; simp [decodeWord, h1, h2, Decode.major1D, h3])
theorem vfabs (e : Bool) (vd : VReg) (va : VReg) : Statement (.vfabs e vd va) := of_word rfl rfl rfl (by decide) (by simp) (by simp; omega)
  (fun hw w h1 h2 h3 => by simp at h3; simp [decodeWord, h1, h2, Decode.major1D, h3])
theorem vfneg (e : Bool) (vd : VReg) (va : VReg) : Statement (.vfneg e vd va) := of_word rfl rfl rfl (by decide) (by simp) (by simp; omega)
  (fun hw w h1 h2 h3 => by simp at h3; simp [decodeWord, h1, h2, Decode.major1D, h3])
theorem vfsgn (e : Bool) (vd : VReg) (va : VReg) (vb : VReg) : Statement (.vfsgn e vd va vb) := of_word rfl rfl rfl (by decide) (by simp) (by simp; omega)
  (fun hw w h1 h2 h3 => by simp at h3; simp [decodeWord, h1, h2, Decode.major1D, h3])
theorem vfrint (e : Bool) (vd : VReg) (va : VReg) : Statement (.vfrint e vd va) := of_word rfl rfl rfl (by decide) (by simp) (by simp; omega)
  (fun hw w h1 h2 h3 => by simp at h3; simp [decodeWord, h1, h2, Decode.major1D, h3])
theorem vfclass (e : Bool) (vd : VReg) (va : VReg) : Statement (.vfclass e vd va) := of_word rfl rfl rfl (by decide) (by simp) (by simp; omega)
  (fun hw w h1 h2 h3 => by simp at h3; simp [decodeWord, h1, h2, Decode.major1D, h3])
theorem vfaddS (e : Bool) (vd : VReg) (va : VReg) (sb : SReg) : Statement (.vfaddS e vd va sb) := of_word rfl rfl rfl (by decide) (by simp) (by simp; omega)
  (fun hw w h1 h2 h3 => by simp at h3; simp [decodeWord, h1, h2, Decode.major1E, h3])
theorem vfsubS (e : Bool) (vd : VReg) (va : VReg) (sb : SReg) : Statement (.vfsubS e vd va sb) := of_word rfl rfl rfl (by decide) (by simp) (by simp; omega)
  (fun hw w h1 h2 h3 => by simp at h3; simp [decodeWord, h1, h2, Decode.major1E, h3])
theorem vfmulS (e : Bool) (vd : VReg) (va : VReg) (sb : SReg) : Statement (.vfmulS e vd va sb) := of_word rfl rfl rfl (by decide) (by simp) (by simp; omega)
  (fun hw w h1 h2 h3 => by simp at h3; simp [decodeWord, h1, h2, Decode.major1E, h3])
theorem vfdivS (e : Bool) (vd : VReg) (va : VReg) (sb : SReg) : Statement (.vfdivS e vd va sb) := of_word rfl rfl rfl (by decide) (by simp) (by simp; omega)
  (fun hw w h1 h2 h3 => by simp at h3; simp [decodeWord, h1, h2, Decode.major1E, h3])
theorem vfminS (e : Bool) (vd : VReg) (va : VReg) (sb : SReg) : Statement (.vfminS e vd va sb) := of_word rfl rfl rfl (by decide) (by simp) (by simp; omega)
  (fun hw w h1 h2 h3 => by simp at h3; simp [decodeWord, h1, h2, Decode.major1E, h3])
theorem vfmaxS (e : Bool) (vd : VReg) (va : VReg) (sb : SReg) : Statement (.vfmaxS e vd va sb) := of_word rfl rfl rfl (by decide) (by simp) (by simp; omega)
  (fun hw w h1 h2 h3 => by simp at h3; simp [decodeWord, h1, h2, Decode.major1E, h3])
theorem vfma (e : Bool) (vd : VReg) (va : VReg) (vb : VReg) : Statement (.vfma e vd va vb) := of_word rfl rfl rfl (by decide) (by simp) (by simp; omega)
  (fun hw w h1 h2 h3 => by simp at h3; simp [decodeWord, h1, h2, Decode.major1F, h3])
theorem vfms (e : Bool) (vd : VReg) (va : VReg) (vb : VReg) : Statement (.vfms e vd va vb) := of_word rfl rfl rfl (by decide) (by simp) (by simp; omega)
  (fun hw w h1 h2 h3 => by simp at h3; simp [decodeWord, h1, h2, Decode.major1F, h3])
theorem vfnma (e : Bool) (vd : VReg) (va : VReg) (vb : VReg) : Statement (.vfnma e vd va vb) := of_word rfl rfl rfl (by decide) (by simp) (by simp; omega)
  (fun hw w h1 h2 h3 => by simp at h3; simp [decodeWord, h1, h2, Decode.major1F, h3])
theorem vfnms (e : Bool) (vd : VReg) (va : VReg) (vb : VReg) : Statement (.vfnms e vd va vb) := of_word rfl rfl rfl (by decide) (by simp) (by simp; omega)
  (fun hw w h1 h2 h3 => by simp at h3; simp [decodeWord, h1, h2, Decode.major1F, h3])
theorem vcvt (e : Bool) (src : Ty) (vd : VReg) (va : VReg) : Statement (.vcvt e src vd va) := of_word rfl rfl rfl (by decide) (by simp) (by simp; omega)
  (fun hw w h1 h2 h3 => by simp at h3; simp [decodeWord, h1, h2, Decode.major20, h3])
theorem vtolog (e : Bool) (vd : VReg) (va : VReg) : Statement (.vtolog e vd va) := of_word rfl rfl rfl (by decide) (by simp) (by simp; omega)
  (fun hw w h1 h2 h3 => by simp at h3; simp [decodeWord, h1, h2, Decode.major21, h3])
theorem vfromlog (e : Bool) (vd : VReg) (va : VReg) : Statement (.vfromlog e vd va) := of_word rfl rfl rfl (by decide) (by simp) (by simp; omega)
  (fun hw w h1 h2 h3 => by simp at h3; simp [decodeWord, h1, h2, Decode.major21, h3])
theorem vlmul (e : Bool) (vd : VReg) (va : VReg) (vb : VReg) : Statement (.vlmul e vd va vb) := of_word rfl rfl rfl (by decide) (by simp) (by simp; omega)
  (fun hw w h1 h2 h3 => by simp at h3; simp [decodeWord, h1, h2, Decode.major21, h3])
theorem vldiv (e : Bool) (vd : VReg) (va : VReg) (vb : VReg) : Statement (.vldiv e vd va vb) := of_word rfl rfl rfl (by decide) (by simp) (by simp; omega)
  (fun hw w h1 h2 h3 => by simp at h3; simp [decodeWord, h1, h2, Decode.major21, h3])
theorem vlsqrt (e : Bool) (vd : VReg) (va : VReg) : Statement (.vlsqrt e vd va) := of_word rfl rfl rfl (by decide) (by simp) (by simp; omega)
  (fun hw w h1 h2 h3 => by simp at h3; simp [decodeWord, h1, h2, Decode.major21, h3])
theorem vlpow (e : Bool) (vd : VReg) (va : VReg) (vb : VReg) : Statement (.vlpow e vd va vb) := of_word rfl rfl rfl (by decide) (by simp) (by simp; omega)
  (fun hw w h1 h2 h3 => by simp at h3; simp [decodeWord, h1, h2, Decode.major21, h3])
theorem vexp2 (e : Bool) (vd : VReg) (va : VReg) : Statement (.vexp2 e vd va) := of_word rfl rfl rfl (by decide) (by simp) (by simp; omega)
  (fun hw w h1 h2 h3 => by simp at h3; simp [decodeWord, h1, h2, Decode.major21, h3])
theorem vlog2 (e : Bool) (vd : VReg) (va : VReg) : Statement (.vlog2 e vd va) := of_word rfl rfl rfl (by decide) (by simp) (by simp; omega)
  (fun hw w h1 h2 h3 => by simp at h3; simp [decodeWord, h1, h2, Decode.major21, h3])
theorem vcmp (e : Bool) (c : Cmp) (pd : PReg) (va : VReg) (vb : VReg) : Statement (.vcmp e c pd va vb) := of_word rfl rfl rfl (by decide) (by simp) (by simp; omega)
  (fun hw w h1 h2 h3 => by simp at h3; simp [decodeWord, h1, h2, Decode.major22, h3])
theorem vfcmp (e : Bool) (c : FCmp) (pd : PReg) (va : VReg) (vb : VReg) : Statement (.vfcmp e c pd va vb) := of_word rfl rfl rfl (by decide) (by simp) (by simp; omega)
  (fun hw w h1 h2 h3 => by simp at h3; simp [decodeWord, h1, h2, Decode.major23, h3])
theorem pand (e : Bool) (pd : PReg) (pa : PReg) (pb : PReg) : Statement (.pand e pd pa pb) := of_word rfl rfl rfl (by decide) (by simp) (by simp; omega)
  (fun hw w h1 h2 h3 => by simp at h3; simp [decodeWord, h1, h2, Decode.major24, h3])
theorem por (e : Bool) (pd : PReg) (pa : PReg) (pb : PReg) : Statement (.por e pd pa pb) := of_word rfl rfl rfl (by decide) (by simp) (by simp; omega)
  (fun hw w h1 h2 h3 => by simp at h3; simp [decodeWord, h1, h2, Decode.major24, h3])
theorem pxor (e : Bool) (pd : PReg) (pa : PReg) (pb : PReg) : Statement (.pxor e pd pa pb) := of_word rfl rfl rfl (by decide) (by simp) (by simp; omega)
  (fun hw w h1 h2 h3 => by simp at h3; simp [decodeWord, h1, h2, Decode.major24, h3])
theorem pandn (e : Bool) (pd : PReg) (pa : PReg) (pb : PReg) : Statement (.pandn e pd pa pb) := of_word rfl rfl rfl (by decide) (by simp) (by simp; omega)
  (fun hw w h1 h2 h3 => by simp at h3; simp [decodeWord, h1, h2, Decode.major24, h3])
theorem pnot (e : Bool) (pd : PReg) (pa : PReg) : Statement (.pnot e pd pa) := of_word rfl rfl rfl (by decide) (by simp) (by simp; omega)
  (fun hw w h1 h2 h3 => by simp at h3; simp [decodeWord, h1, h2, Decode.major24, h3])
theorem pmov (e : Bool) (pd : PReg) (pa : PReg) : Statement (.pmov e pd pa) := of_word rfl rfl rfl (by decide) (by simp) (by simp; omega)
  (fun hw w h1 h2 h3 => by simp at h3; simp [decodeWord, h1, h2, Decode.major24, h3])
theorem pfirst (e : Bool) (pd : PReg) (pa : PReg) : Statement (.pfirst e pd pa) := of_word rfl rfl rfl (by decide) (by simp) (by simp; omega)
  (fun hw w h1 h2 h3 => by simp at h3; simp [decodeWord, h1, h2, Decode.major24, h3])
theorem pfroms (e : Bool) (pd : PReg) (ra : SReg) : Statement (.pfroms e pd ra) := of_word rfl rfl rfl (by decide) (by simp) (by simp; omega)
  (fun hw w h1 h2 h3 => by simp at h3; simp [decodeWord, h1, h2, Decode.major24, h3])
theorem vred (e : Bool) (op : RedOp) (rd : SReg) (va : VReg) : Statement (.vred e op rd va) := of_word rfl rfl rfl (by decide) (by simp) (by simp; omega)
  (fun hw w h1 h2 h3 => by simp at h3; simp [decodeWord, h1, h2, Decode.major25, h3]; omega)
theorem vscan (e : Bool) (op : RedOp) (vd : VReg) (va : VReg) : Statement (.vscan e op vd va) := of_word rfl rfl rfl (by decide) (by simp) (by simp; omega)
  (fun hw w h1 h2 h3 => by simp at h3; simp [decodeWord, h1, h2, Decode.major25, h3])
theorem vballot (e : Bool) (rd : SReg) (pa : PReg) : Statement (.vballot e rd pa) := of_word rfl rfl rfl (by decide) (by simp) (by simp; omega)
  (fun hw w h1 h2 h3 => by simp at h3; simp [decodeWord, h1, h2, Decode.major25, h3]; omega)
theorem vpcnt (e : Bool) (rd : SReg) (pa : PReg) : Statement (.vpcnt e rd pa) := of_word rfl rfl rfl (by decide) (by simp) (by simp; omega)
  (fun hw w h1 h2 h3 => by simp at h3; simp [decodeWord, h1, h2, Decode.major25, h3]; omega)
theorem vany (e : Bool) (rd : SReg) (pa : PReg) : Statement (.vany e rd pa) := of_word rfl rfl rfl (by decide) (by simp) (by simp; omega)
  (fun hw w h1 h2 h3 => by simp at h3; simp [decodeWord, h1, h2, Decode.major25, h3]; omega)
theorem vall (e : Bool) (rd : SReg) (pa : PReg) : Statement (.vall e rd pa) := of_word rfl rfl rfl (by decide) (by simp) (by simp; omega)
  (fun hw w h1 h2 h3 => by simp at h3; simp [decodeWord, h1, h2, Decode.major25, h3]; omega)
theorem vcompress (e : Bool) (vd : VReg) (va : VReg) (p : PReg) : Statement (.vcompress e vd va p) := of_word rfl rfl rfl (by decide) (by simp) (by simp; omega)
  (fun hw w h1 h2 h3 => by simp at h3; simp [decodeWord, h1, h2, Decode.major25, h3])
theorem vexpand (e : Bool) (vd : VReg) (va : VReg) (p : PReg) : Statement (.vexpand e vd va p) := of_word rfl rfl rfl (by decide) (by simp) (by simp; omega)
  (fun hw w h1 h2 h3 => by simp at h3; simp [decodeWord, h1, h2, Decode.major25, h3])
theorem vlaneid (e : Bool) (vd : VReg) : Statement (.vlaneid e vd) := of_word rfl rfl rfl (by decide) (by simp) (by simp; omega)
  (fun hw w h1 h2 h3 => by simp at h3; simp [decodeWord, h1, h2, Decode.major25, h3])
theorem vfill (e : Bool) (vd : VReg) (ra : SReg) : Statement (.vfill e vd ra) := of_word rfl rfl rfl (by decide) (by simp) (by simp; omega)
  (fun hw w h1 h2 h3 => by simp at h3; simp [decodeWord, h1, h2, Decode.major25, h3]; omega)
theorem vins (e : Bool) (vd : VReg) (ra : SReg) (p : PReg) : Statement (.vins e vd ra p) := of_word rfl rfl rfl (by decide) (by simp) (by simp; omega)
  (fun hw w h1 h2 h3 => by simp at h3; simp [decodeWord, h1, h2, Decode.major25, h3]; omega)
theorem vext (e : Bool) (rd : SReg) (va : VReg) (p : PReg) : Statement (.vext e rd va p) := of_word rfl rfl rfl (by decide) (by simp) (by simp; omega)
  (fun hw w h1 h2 h3 => by simp at h3; simp [decodeWord, h1, h2, Decode.major25, h3]; omega)
theorem vrdx (e : Bool) (v : VReg) (sb : SReg) (imm : BitVec 11) : Statement (.vrdx e v sb imm) := of_word rfl rfl rfl (by decide) (by simp) (by simp; omega)
  (fun hw w h1 h2 h3 => by simp at h3; simp [decodeWord, h1, h2, Decode.major26, h3])
theorem vwrx (e : Bool) (v : VReg) (sb : SReg) (imm : BitVec 11) : Statement (.vwrx e v sb imm) := of_word rfl rfl rfl (by decide) (by simp) (by simp; omega)
  (fun hw w h1 h2 h3 => by simp at h3; simp [decodeWord, h1, h2, Decode.major26, h3])
theorem route (a : BitVec 8) (b : BitVec 8) (c : BitVec 8) (seg : Bool) : Statement (.route a b c seg) := of_word rfl rfl rfl (by decide) (by simp) (by simp; omega)
  (fun hw w h1 h2 h3 => by simp at h3; simp [decodeWord, h1, h2, Decode.major27, h3])
theorem qual (scope : BitVec 3) (order : Order) (cache : BitVec 2) : Statement (.qual scope order cache) := of_word rfl rfl rfl (by decide) (by simp) (by simp; omega)
  (fun hw w h1 h2 h3 => by simp at h3; simp [decodeWord, h1, h2, Decode.major28, h3])
theorem vld (e : Bool) (vd : VReg) (sb : SReg) (imm : BitVec 9) : Statement (.vld e vd sb imm) := of_word rfl rfl rfl (by decide) (by simp) (by simp; omega)
  (fun hw w h1 h2 h3 => by simp at h3; simp [decodeWord, h1, h2, Decode.major29, h3])
theorem vldUni (e : Bool) (vd : VReg) (sb : SReg) (imm : BitVec 9) : Statement (.vldUni e vd sb imm) := of_word rfl rfl rfl (by decide) (by simp) (by simp; omega)
  (fun hw w h1 h2 h3 => by simp at h3; simp [decodeWord, h1, h2, Decode.major29, h3])
theorem vst (e : Bool) (vd : VReg) (sb : SReg) (imm : BitVec 9) : Statement (.vst e vd sb imm) := of_word rfl rfl rfl (by decide) (by simp) (by simp; omega)
  (fun hw w h1 h2 h3 => by simp at h3; simp [decodeWord, h1, h2, Decode.major2A, h3])
theorem vldx (e : Bool) (vd : VReg) (sb : SReg) (vo : VReg) (sc : BitVec 2) : Statement (.vldx e vd sb vo sc) := of_word rfl rfl rfl (by decide) (by simp) (by simp; omega)
  (fun hw w h1 h2 h3 => by simp at h3; simp [decodeWord, h1, h2, Decode.major2B, h3])
theorem vstx (e : Bool) (vd : VReg) (sb : SReg) (vo : VReg) (sc : BitVec 2) : Statement (.vstx e vd sb vo sc) := of_word rfl rfl rfl (by decide) (by simp) (by simp; omega)
  (fun hw w h1 h2 h3 => by simp at h3; simp [decodeWord, h1, h2, Decode.major2C, h3])
theorem vstc (e : Bool) (vd : VReg) (sb : SReg) (imm : BitVec 9) : Statement (.vstc e vd sb imm) := of_word rfl rfl rfl (by decide) (by simp) (by simp; omega)
  (fun hw w h1 h2 h3 => by simp at h3; simp [decodeWord, h1, h2, Decode.major2D, h3])
theorem vlds (e : Bool) (swz : BitVec 3) (vd : VReg) (sb : SReg) (imm : BitVec 9) : Statement (.vlds e swz vd sb imm) := of_word rfl rfl rfl (by decide) (by simp) (by simp; omega)
  (fun hw w h1 h2 h3 => by simp at h3; simp [decodeWord, h1, h2, Decode.major2E, h3])
theorem vsts (e : Bool) (swz : BitVec 3) (vd : VReg) (sb : SReg) (imm : BitVec 9) : Statement (.vsts e swz vd sb imm) := of_word rfl rfl rfl (by decide) (by simp) (by simp; omega)
  (fun hw w h1 h2 h3 => by simp at h3; simp [decodeWord, h1, h2, Decode.major2F, h3])
theorem vldsx (e : Bool) (swz : BitVec 3) (vd : VReg) (sb : SReg) (vo : VReg) (sc : BitVec 2) : Statement (.vldsx e swz vd sb vo sc) := of_word rfl rfl rfl (by decide) (by simp) (by simp; omega)
  (fun hw w h1 h2 h3 => by simp at h3; simp [decodeWord, h1, h2, Decode.major30, h3])
theorem vstsx (e : Bool) (swz : BitVec 3) (vd : VReg) (sb : SReg) (vo : VReg) (sc : BitVec 2) : Statement (.vstsx e swz vd sb vo sc) := of_word rfl rfl rfl (by decide) (by simp) (by simp; omega)
  (fun hw w h1 h2 h3 => by simp at h3; simp [decodeWord, h1, h2, Decode.major31, h3])
theorem sld (e : Bool) (size : BitVec 2) (sign : Bool) (sp : Bool) (rd : SReg) (sb : SReg) (imm : BitVec 9) : Statement (.sld e size sign sp rd sb imm) := of_word rfl rfl rfl (by decide) (by simp) (by simp; omega)
  (fun hw w h1 h2 h3 => by simp at h3; simp [decodeWord, h1, h2, Decode.major32, h3])
theorem sst (e : Bool) (size : BitVec 2) (sp : Bool) (rd : SReg) (sb : SReg) (imm : BitVec 9) : Statement (.sst e size sp rd sb imm) := of_word rfl rfl rfl (by decide) (by simp) (by simp; omega)
  (fun hw w h1 h2 h3 => by simp at h3; simp [decodeWord, h1, h2, Decode.major33, h3])
theorem vatom (e : Bool) (op : AOp) (ret : Bool) (vd : VReg) (sb : SReg) (vo : VReg) : Statement (.vatom e op ret vd sb vo) := of_word rfl rfl rfl (by decide) (by simp) (by simp; omega)
  (fun hw w h1 h2 h3 => by simp at h3; simp [decodeWord, h1, h2, Decode.major34, h3])
theorem vatoms (e : Bool) (op : AOp) (ret : Bool) (vd : VReg) (sb : SReg) (vo : VReg) : Statement (.vatoms e op ret vd sb vo) := of_word rfl rfl rfl (by decide) (by simp) (by simp; omega)
  (fun hw w h1 h2 h3 => by simp at h3; simp [decodeWord, h1, h2, Decode.major35, h3])
theorem satom (e : Bool) (op : AOp) (ret : Bool) (w : Bool) (rd : SReg) (ra : SReg) (rb : SReg) : Statement (.satom e op ret w rd ra rb) := of_word rfl rfl rfl (by decide) (by simp) (by simp; omega)
  (fun hw w h1 h2 h3 => by simp at h3; simp [decodeWord, h1, h2, Decode.major36, h3])
theorem fence (e : Bool) (scope : BitVec 3) (order : Order) : Statement (.fence e scope order) := of_word rfl rfl rfl (by decide) (by simp) (by simp; omega)
  (fun hw w h1 h2 h3 => by simp at h3; simp [decodeWord, h1, h2, Decode.major37, h3])
theorem bar (id : BitVec 4) : Statement (.bar id) := of_word rfl rfl rfl (by decide) (by simp) (by simp; omega)
  (fun hw w h1 h2 h3 => by simp at h3; simp [decodeWord, h1, h2, Decode.major38, h3])
theorem barArrive (e : Bool) (id : BitVec 4) : Statement (.barArrive e id) := of_word rfl rfl rfl (by decide) (by simp) (by simp; omega)
  (fun hw w h1 h2 h3 => by simp at h3; simp [decodeWord, h1, h2, Decode.major38, h3])
theorem barWait (id : BitVec 4) : Statement (.barWait id) := of_word rfl rfl rfl (by decide) (by simp) (by simp; omega)
  (fun hw w h1 h2 h3 => by simp at h3; simp [decodeWord, h1, h2, Decode.major38, h3])
theorem gbar : Statement .gbar := of_word rfl rfl rfl (by decide) (by simp) (by simp)
  (fun hw w h1 h2 h3 => by simp at h3; simp [decodeWord, h1, h2, Decode.major38, h3])
theorem ltinit (e : Bool) (ra : SReg) (rb : SReg) : Statement (.ltinit e ra rb) := of_word rfl rfl rfl (by decide) (by simp) (by simp; omega)
  (fun hw w h1 h2 h3 => by simp at h3; simp [decodeWord, h1, h2, Decode.major39, h3])
theorem ltarm (e : Bool) (ra : SReg) (rb : SReg) : Statement (.ltarm e ra rb) := of_word rfl rfl rfl (by decide) (by simp) (by simp; omega)
  (fun hw w h1 h2 h3 => by simp at h3; simp [decodeWord, h1, h2, Decode.major39, h3])
theorem ltarrive (e : Bool) (rd : SReg) (ra : SReg) : Statement (.ltarrive e rd ra) := of_word rfl rfl rfl (by decide) (by simp) (by simp; omega)
  (fun hw w h1 h2 h3 => by simp at h3; simp [decodeWord, h1, h2, Decode.major39, h3])
theorem ltwait (ra : SReg) (rb : SReg) : Statement (.ltwait ra rb) := of_word rfl rfl rfl (by decide) (by simp) (by simp; omega)
  (fun hw w h1 h2 h3 => by simp at h3; simp [decodeWord, h1, h2, Decode.major39, h3])
theorem lttest (e : Bool) (rd : SReg) (ra : SReg) (rb : SReg) : Statement (.lttest e rd ra rb) := of_word rfl rfl rfl (by decide) (by simp) (by simp; omega)
  (fun hw w h1 h2 h3 => by simp at h3; simp [decodeWord, h1, h2, Decode.major39, h3])
theorem hgarrive (e : Bool) (h : BitVec 4) : Statement (.hgarrive e h) := of_word rfl rfl rfl (by decide) (by simp) (by simp; omega)
  (fun hw w h1 h2 h3 => by simp at h3; simp [decodeWord, h1, h2, Decode.major3A, h3])
theorem hgwait (h : BitVec 4) : Statement (.hgwait h) := of_word rfl rfl rfl (by decide) (by simp) (by simp; omega)
  (fun hw w h1 h2 h3 => by simp at h3; simp [decodeWord, h1, h2, Decode.major3A, h3])
theorem cpy (e : Bool) (rd : SReg) (ra : SReg) : Statement (.cpy e rd ra) := of_word rfl rfl rfl (by decide) (by simp) (by simp; omega)
  (fun hw w h1 h2 h3 => by simp at h3; simp [decodeWord, h1, h2, Decode.major3B, h3])
theorem cpyLt (e : Bool) (ra : SReg) (rb : SReg) : Statement (.cpyLt e ra rb) := of_word rfl rfl rfl (by decide) (by simp) (by simp; omega)
  (fun hw w h1 h2 h3 => by simp at h3; simp [decodeWord, h1, h2, Decode.major3B, h3])
theorem cpyw (e : Bool) (rd : SReg) (ra : SReg) : Statement (.cpyw e rd ra) := of_word rfl rfl rfl (by decide) (by simp) (by simp; omega)
  (fun hw w h1 h2 h3 => by simp at h3; simp [decodeWord, h1, h2, Decode.major3B, h3])
theorem cpywLt (e : Bool) (ra : SReg) (rb : SReg) : Statement (.cpywLt e ra rb) := of_word rfl rfl rfl (by decide) (by simp) (by simp; omega)
  (fun hw w h1 h2 h3 => by simp at h3; simp [decodeWord, h1, h2, Decode.major3B, h3])
theorem cpyo (e : Bool) (rd : SReg) (ra : SReg) : Statement (.cpyo e rd ra) := of_word rfl rfl rfl (by decide) (by simp) (by simp; omega)
  (fun hw w h1 h2 h3 => by simp at h3; simp [decodeWord, h1, h2, Decode.major3B, h3])
theorem cpyoLt (e : Bool) (ra : SReg) (rb : SReg) : Statement (.cpyoLt e ra rb) := of_word rfl rfl rfl (by decide) (by simp) (by simp; omega)
  (fun hw w h1 h2 h3 => by simp at h3; simp [decodeWord, h1, h2, Decode.major3B, h3])
theorem cpyg (e : Bool) (rd : SReg) (ra : SReg) : Statement (.cpyg e rd ra) := of_word rfl rfl rfl (by decide) (by simp) (by simp; omega)
  (fun hw w h1 h2 h3 => by simp at h3; simp [decodeWord, h1, h2, Decode.major3B, h3])
theorem cpygLt (e : Bool) (ra : SReg) (rb : SReg) : Statement (.cpygLt e ra rb) := of_word rfl rfl rfl (by decide) (by simp) (by simp; omega)
  (fun hw w h1 h2 h3 => by simp at h3; simp [decodeWord, h1, h2, Decode.major3B, h3])
theorem cpyq (e : Bool) (rd : SReg) : Statement (.cpyq e rd) := of_word rfl rfl rfl (by decide) (by simp) (by simp; omega)
  (fun hw w h1 h2 h3 => by simp at h3; simp [decodeWord, h1, h2, Decode.major3B, h3])
theorem sdesc (e : Bool) (rd : SReg) (ra : SReg) : Statement (.sdesc e rd ra) := of_word rfl rfl rfl (by decide) (by simp) (by simp; omega)
  (fun hw w h1 h2 h3 => by simp at h3; simp [decodeWord, h1, h2, Decode.major3B, h3])
theorem sgo (e : Bool) (ra : SReg) : Statement (.sgo e ra) := of_word rfl rfl rfl (by decide) (by simp) (by simp; omega)
  (fun hw w h1 h2 h3 => by simp at h3; simp [decodeWord, h1, h2, Decode.major3B, h3])
theorem sstop (e : Bool) (ra : SReg) : Statement (.sstop e ra) := of_word rfl rfl rfl (by decide) (by simp) (by simp; omega)
  (fun hw w h1 h2 h3 => by simp at h3; simp [decodeWord, h1, h2, Decode.major3B, h3])
theorem mclaim (e : Bool) (rd : SReg) (ra : SReg) : Statement (.mclaim e rd ra) := of_word rfl rfl rfl (by decide) (by simp) (by simp; omega)
  (fun hw w h1 h2 h3 => by simp at h3; simp [decodeWord, h1, h2, Decode.major3B, h3])
theorem mrel (e : Bool) (ra : SReg) : Statement (.mrel e ra) := of_word rfl rfl rfl (by decide) (by simp) (by simp; omega)
  (fun hw w h1 h2 h3 => by simp at h3; simp [decodeWord, h1, h2, Decode.major3B, h3])
theorem mgo (e : Bool) (rd : SReg) (ra : SReg) : Statement (.mgo e rd ra) := of_word rfl rfl rfl (by decide) (by simp) (by simp; omega)
  (fun hw w h1 h2 h3 => by simp at h3; simp [decodeWord, h1, h2, Decode.major3B, h3])
theorem mstat (e : Bool) (rd : SReg) (ra : SReg) : Statement (.mstat e rd ra) := of_word rfl rfl rfl (by decide) (by simp) (by simp; omega)
  (fun hw w h1 h2 h3 => by simp at h3; simp [decodeWord, h1, h2, Decode.major3B, h3])
theorem dlaunch (e : Bool) (rd : SReg) (ra : SReg) (rb : SReg) : Statement (.dlaunch e rd ra rb) := of_word rfl rfl rfl (by decide) (by simp) (by simp; omega)
  (fun hw w h1 h2 h3 => by simp at h3; simp [decodeWord, h1, h2, Decode.major3B, h3])
theorem qnotify (e : Bool) (ra : SReg) (rb : SReg) : Statement (.qnotify e ra rb) := of_word rfl rfl rfl (by decide) (by simp) (by simp; omega)
  (fun hw w h1 h2 h3 => by simp at h3; simp [decodeWord, h1, h2, Decode.major3B, h3])
theorem kctx (e : Bool) (rd : SReg) (ra : SReg) : Statement (.kctx e rd ra) := of_word rfl rfl rfl (by decide) (by simp) (by simp; omega)
  (fun hw w h1 h2 h3 => by simp at h3; simp [decodeWord, h1, h2, Decode.major3C, h3])
theorem kpost (e : Bool) (rd : SReg) (ra : SReg) : Statement (.kpost e rd ra) := of_word rfl rfl rfl (by decide) (by simp) (by simp; omega)
  (fun hw w h1 h2 h3 => by simp at h3; simp [decodeWord, h1, h2, Decode.major3C, h3])
theorem kpostLt (e : Bool) (ra : SReg) (rb : SReg) : Statement (.kpostLt e ra rb) := of_word rfl rfl rfl (by decide) (by simp) (by simp; omega)
  (fun hw w h1 h2 h3 => by simp at h3; simp [decodeWord, h1, h2, Decode.major3C, h3])
theorem ksend (e : Bool) (rd : SReg) (ra : SReg) : Statement (.ksend e rd ra) := of_word rfl rfl rfl (by decide) (by simp) (by simp; omega)
  (fun hw w h1 h2 h3 => by simp at h3; simp [decodeWord, h1, h2, Decode.major3C, h3])
theorem ksendLt (e : Bool) (ra : SReg) (rb : SReg) : Statement (.ksendLt e ra rb) := of_word rfl rfl rfl (by decide) (by simp) (by simp; omega)
  (fun hw w h1 h2 h3 => by simp at h3; simp [decodeWord, h1, h2, Decode.major3C, h3])
theorem kcancel (e : Bool) (rd : SReg) (ra : SReg) (rb : SReg) : Statement (.kcancel e rd ra rb) := of_word rfl rfl rfl (by decide) (by simp) (by simp; omega)
  (fun hw w h1 h2 h3 => by simp at h3; simp [decodeWord, h1, h2, Decode.major3C, h3])
theorem kprobe (e : Bool) (rd : SReg) (ra : SReg) : Statement (.kprobe e rd ra) := of_word rfl rfl rfl (by decide) (by simp) (by simp; omega)
  (fun hw w h1 h2 h3 => by simp at h3; simp [decodeWord, h1, h2, Decode.major3C, h3])
theorem kpull (e : Bool) (rd : SReg) (ra : SReg) : Statement (.kpull e rd ra) := of_word rfl rfl rfl (by decide) (by simp) (by simp; omega)
  (fun hw w h1 h2 h3 => by simp at h3; simp [decodeWord, h1, h2, Decode.major3C, h3])
theorem kpullLt (e : Bool) (ra : SReg) (rb : SReg) : Statement (.kpullLt e ra rb) := of_word rfl rfl rfl (by decide) (by simp) (by simp; omega)
  (fun hw w h1 h2 h3 => by simp at h3; simp [decodeWord, h1, h2, Decode.major3C, h3])
theorem binit (e : Bool) (rd : SReg) (ra : SReg) : Statement (.binit e rd ra) := of_word rfl rfl rfl (by decide) (by simp) (by simp; omega)
  (fun hw w h1 h2 h3 => by simp at h3; simp [decodeWord, h1, h2, Decode.major3D, h3])
theorem bcount (e : Bool) (rd : SReg) (ra : SReg) (vb : VReg) : Statement (.bcount e rd ra vb) := of_word rfl rfl rfl (by decide) (by simp) (by simp; omega)
  (fun hw w h1 h2 h3 => by simp at h3; simp [decodeWord, h1, h2, Decode.major3D, h3])
theorem bpatch (e : Bool) (rd : SReg) (ra : SReg) : Statement (.bpatch e rd ra) := of_word rfl rfl rfl (by decide) (by simp) (by simp; omega)
  (fun hw w h1 h2 h3 => by simp at h3; simp [decodeWord, h1, h2, Decode.major3D, h3])
theorem brel (e : Bool) (rd : SReg) : Statement (.brel e rd) := of_word rfl rfl rfl (by decide) (by simp) (by simp; omega)
  (fun hw w h1 h2 h3 => by simp at h3; simp [decodeWord, h1, h2, Decode.major3D, h3])
theorem mnop : Statement .mnop := of_seqWord rfl rfl rfl (by decide) (by simp)
  (fun hw w h1 h2 => by simp at h2; simp [decodeSeq, h1, h2])
theorem mend : Statement .mend := of_seqWord rfl rfl rfl (by decide) (by simp)
  (fun hw w h1 h2 => by simp at h2; simp [decodeSeq, h1, h2])
theorem mloop (q : BitVec 3) (disp : BitVec 16) : Statement (.mloop q disp) := of_seqWord rfl rfl rfl (by decide) (by simp; omega)
  (fun hw w h1 h2 => by simp at h2; simp [decodeSeq, h1, h2])
theorem mharr (h : BitVec 4) : Statement (.mharr h) := of_seqWord rfl rfl rfl (by decide) (by simp; omega)
  (fun hw w h1 h2 => by simp at h2; simp [decodeSeq, h1, h2])
theorem mhwait (h : BitVec 4) : Statement (.mhwait h) := of_seqWord rfl rfl rfl (by decide) (by simp; omega)
  (fun hw w h1 h2 => by simp at h2; simp [decodeSeq, h1, h2])
theorem mldo (slot : BitVec 6) (q : BitVec 3) (side : Bool) (imm : BitVec 12) : Statement (.mldo slot q side imm) := of_seqWord rfl rfl rfl (by decide) (by simp; omega)
  (fun hw w h1 h2 => by simp at h2; simp [decodeSeq, h1, h2])
theorem mdeq (slot : BitVec 6) (q : BitVec 3) (blk : BitVec 8) (ftz : Bool) : Statement (.mdeq slot q blk ftz) := of_seqWord rfl rfl rfl (by decide) (by simp; omega)
  (fun hw w h1 h2 => by simp at h2; simp [decodeSeq, h1, h2])
theorem mhad (n : BitVec 2) (slot : BitVec 6) (fmt : BitVec 3) (ftz : Bool) : Statement (.mhad n slot fmt ftz) := of_seqWord rfl rfl rfl (by decide) (by simp; omega)
  (fun hw w h1 h2 => by simp at h2; simp [decodeSeq, h1, h2])
theorem mqnt (dst : BitVec 6) (src : BitVec 6) (gb4 : Bool) (ftz : Bool) : Statement (.mqnt dst src gb4 ftz) := of_seqWord rfl rfl rfl (by decide) (by simp; omega)
  (fun hw w h1 h2 => by simp at h2; simp [decodeSeq, h1, h2])
theorem mmla (acc : BitVec 4) (sa : BitVec 6) (sb : BitVec 6) (fa : BitVec 3) (fb : BitVec 3) (ftz : Bool) : Statement (.mmla acc sa sb fa fb ftz) := of_seqWord rfl rfl rfl (by decide) (by simp; omega)
  (fun hw w h1 h2 => by simp at h2; simp [decodeSeq, h1, h2])
theorem mzero (acc : BitVec 4) : Statement (.mzero acc) := of_seqWord rfl rfl rfl (by decide) (by simp; omega)
  (fun hw w h1 h2 => by simp at h2; simp [decodeSeq, h1, h2])
theorem msto (q : BitVec 3) (acc : BitVec 4) (out : BitVec 2) (rs : Bool) (slot : BitVec 6) (ftz : Bool) : Statement (.msto q acc out rs slot ftz) := of_seqWord rfl rfl rfl (by decide) (by simp; omega)
  (fun hw w h1 h2 => by simp at h2; simp [decodeSeq, h1, h2]; cases rs <;> simp_all [Instr.wf])
theorem mqadd (q : BitVec 3) (imm : BitVec 24) : Statement (.mqadd q imm) := of_seqWord rfl rfl rfl (by decide) (by simp; omega)
  (fun hw w h1 h2 => by simp at h2; simp [decodeSeq, h1, h2])
theorem mset (q : BitVec 3) (imm : BitVec 24) : Statement (.mset q imm) := of_seqWord rfl rfl rfl (by decide) (by simp; omega)
  (fun hw w h1 h2 => by simp at h2; simp [decodeSeq, h1, h2])
theorem deviceSlotConsume (d : DieId) (q : QueueId) : Statement (.deviceSlotConsume d q) := of_event rfl
theorem slotFill (d : DieId) (core : CoreId) (qt : QuarterId) : Statement (.slotFill d core qt) := of_event rfl
theorem tileOpStart (d : DieId) (core : CoreId) : Statement (.tileOpStart d core) := of_event rfl
theorem tileOpComplete (d : DieId) (core : CoreId) : Statement (.tileOpComplete d core) := of_event rfl
theorem pauseExpiry (u : Nat) : Statement (.pauseExpiry u) := of_event rfl
theorem waitcWake (u : Nat) : Statement (.waitcWake u) := of_event rfl
theorem waitcReread (u : Nat) : Statement (.waitcReread u) := of_event rfl
theorem waitcTimeout (u : Nat) : Statement (.waitcTimeout u) := of_event rfl
theorem trapRingWrite (d : DieId) : Statement (.trapRingWrite d) := of_event rfl
theorem faultRingWrite (d : DieId) : Statement (.faultRingWrite d) := of_event rfl
theorem strandResume (u : Nat) : Statement (.strandResume u) := of_event rfl
theorem crewEnd (c : Nat) : Statement (.crewEnd c) := of_event rfl
theorem crewComplete (c : Nat) : Statement (.crewComplete c) := of_event rfl
theorem launchEvent (d : DieId) (n : Nat) : Statement (.launchEvent d n) := of_event rfl
theorem waitMet (d : DieId) (q : QueueId) : Statement (.waitMet d q) := of_event rfl
theorem crewAdmission (d : DieId) : Statement (.crewAdmission d) := of_event rfl
theorem priorityAging (d : DieId) (q : QueueId) : Statement (.priorityAging d q) := of_event rfl
theorem passoverTimeout (d : DieId) (q : QueueId) : Statement (.passoverTimeout d q) := of_event rfl
theorem energyWindow (basePower : Nat) : Statement (.energyWindow basePower) := of_event rfl
theorem preempt (c : Nat) (image : Nat) : Statement (.preempt c image) := of_event rfl
theorem crewResume (c : Nat) (core : CoreId) : Statement (.crewResume c core) := of_event rfl
theorem tlbInvalidate (d : DieId) (va : Nat) (len : Nat) : Statement (.tlbInvalidate d va len) := of_event rfl
theorem copyAccept (d : DieId) (core : CoreId) : Statement (.copyAccept d core) := of_event rfl
theorem copyComplete (c : Nat) (op : Nat) : Statement (.copyComplete c op) := of_event rfl
theorem copyResume (c : Nat) (op : Nat) : Statement (.copyResume c op) := of_event rfl
theorem binningComplete (c : Nat) : Statement (.binningComplete c) := of_event rfl
theorem streamLineRequest (c : Nat) (handle : Nat) : Statement (.streamLineRequest c handle) := of_event rfl
theorem gets (to_ : Holder) (m : ReqMsg) : Statement (.gets to_ m) := of_event rfl
theorem getx (to_ : Holder) (m : ReqMsg) : Statement (.getx to_ m) := of_event rfl
theorem tok (to_ : Holder) (m : TokMsg) : Statement (.tok to_ m) := of_event rfl
theorem transientTimeout (who : Holder) (sec : Nat) : Statement (.transientTimeout who sec) := of_event rfl
theorem persistentTimeout (who : Holder) (sec : Nat) : Statement (.persistentTimeout who sec) := of_event rfl
theorem preq (m : ReqMsg) : Statement (.preq m) := of_event rfl
theorem pact (to_ : Holder) (m : ActMsg) : Statement (.pact to_ m) := of_event rfl
theorem pdone (h : Home) (epoch : BitVec 8) : Statement (.pdone h epoch) := of_event rfl
theorem pdeact (to_ : Holder) (h : Home) (epoch : BitVec 8) : Statement (.pdeact to_ h epoch) := of_event rfl
theorem recoveryTimeout (h : Home) : Statement (.recoveryTimeout h) := of_event rfl
theorem recreate (to_ : Holder) (line : Nat) (serial : BitVec 8) : Statement (.recreate to_ line serial) := of_event rfl
theorem recack (m : RecAck) : Statement (.recack m) := of_event rfl
theorem lossCheck (line : Nat) : Statement (.lossCheck line) := of_event rfl
theorem flitGiveUp (n : Nat) : Statement (.flitGiveUp n) := of_event rfl
theorem recallTokens (to_ : Holder) (m : RecallMsg) : Statement (.recallTokens to_ m) := of_event rfl
theorem recallTimeout (sec : Nat) : Statement (.recallTimeout sec) := of_event rfl
theorem atom (m : AtomMsg) : Statement (.atom m) := of_event rfl
theorem hld (m : HldMsg) : Statement (.hld m) := of_event rfl
theorem hst (m : HstMsg) : Statement (.hst m) := of_event rfl
theorem atomr (m : RepMsg) : Statement (.atomr m) := of_event rfl
theorem hldr (m : RepMsg) : Statement (.hldr m) := of_event rfl
theorem hstr (m : RepMsg) : Statement (.hstr m) := of_event rfl
theorem cxlMemrd (k : LinkId) (line : Nat) : Statement (.cxlMemrd k line) := of_event rfl
theorem cxlMemwr (k : LinkId) (line : Nat) (data : Option (BitVec 512)) : Statement (.cxlMemwr k line data) := of_event rfl
theorem cxlSnoop (k : LinkId) (line : Nat) (inv : Bool) : Statement (.cxlSnoop k line inv) := of_event rfl
theorem bisnpResponse (k : LinkId) (sec : Nat) (data : Option (BitVec 128)) : Statement (.bisnpResponse k sec data) := of_event rfl
theorem cxlHostData (k : LinkId) (sec : Nat) (own : Bool) (data : BitVec 128) : Statement (.cxlHostData k sec own data) := of_event rfl
theorem fabRead (port : PortId) (pk : Packet) : Statement (.fabRead port pk) := of_event rfl
theorem fabReadReply (port : PortId) (pk : Packet) : Statement (.fabReadReply port pk) := of_event rfl
theorem fabWrite (port : PortId) (pk : Packet) : Statement (.fabWrite port pk) := of_event rfl
theorem fabWriteAck (port : PortId) (pk : Packet) : Statement (.fabWriteAck port pk) := of_event rfl
theorem fabAtomic (port : PortId) (pk : Packet) : Statement (.fabAtomic port pk) := of_event rfl
theorem fabAtomicReply (port : PortId) (pk : Packet) : Statement (.fabAtomicReply port pk) := of_event rfl
theorem multicastWrite (port : PortId) (pk : Packet) : Statement (.multicastWrite port pk) := of_event rfl
theorem remoteTimeout (u : Nat) (txn : Nat) : Statement (.remoteTimeout u txn) := of_event rfl
theorem mcastAckTimeout (u : Nat) (txn : Nat) : Statement (.mcastAckTimeout u txn) := of_event rfl
theorem keywayMessage (m : KMsg) : Statement (.keywayMessage m) := of_event rfl
theorem keywayAck (d : DieId) (send : KReply) : Statement (.keywayAck d send) := of_event rfl
theorem keywayNack (d : DieId) (send : KReply) : Statement (.keywayNack d send) := of_event rfl
theorem keywayReject (d : DieId) (send : KReply) : Statement (.keywayReject d send) := of_event rfl
theorem keywayRetry (d : DieId) (send : Nat) : Statement (.keywayRetry d send) := of_event rfl
theorem keywayAckTimeout (d : DieId) (send : Nat) : Statement (.keywayAckTimeout d send) := of_event rfl
theorem pullRequest (m : PullReq) : Statement (.pullRequest m) := of_event rfl
theorem pullData (m : PullData) : Statement (.pullData m) := of_event rfl
theorem machine (d : DieId) (sub : BitVec 8) (addr : BitVec 64) : Statement (.machine d sub addr) := of_event rfl
theorem launch (d : DieId) (q : QueueId) (tag : BitVec 32) (record : List Byte) (waits : List (BitVec 64 × BitVec 64)) : Statement (.launch d q tag record waits) := of_event rfl
theorem copy (d : DieId) (q : QueueId) (tag : BitVec 32) (src : BitVec 64) (dst : BitVec 64) (len : BitVec 64) (ext : BitVec 32) (flags : BitVec 32) : Statement (.copy d q tag src dst len ext flags) := of_event rfl
theorem map (d : DieId) (tag : BitVec 32) (va : BitVec 64) (frame : BitVec 64) (bits : BitVec 64) (count : BitVec 32) (size : BitVec 32) : Statement (.map d tag va frame bits count size) := of_event rfl
theorem unmap (d : DieId) (tag : BitVec 32) (va : BitVec 64) (count : BitVec 32) (size : BitVec 32) : Statement (.unmap d tag va count size) := of_event rfl
theorem exportReq (d : DieId) (tag : BitVec 32) (va : BitVec 64) (len : BitVec 64) (flags : BitVec 32) : Statement (.exportReq d tag va len flags) := of_event rfl
theorem importReq (d : DieId) (tag : BitVec 32) (handle : BitVec 64) (va : BitVec 64) : Statement (.importReq d tag handle va) := of_event rfl
theorem signal (d : DieId) (q : QueueId) (tag : BitVec 32) (ctr : BitVec 64) (operand : BitVec 64) (op : BitVec 32) : Statement (.signal d q tag ctr operand op) := of_event rfl
theorem query (f : FuncId) (tag : BitVec 32) : Statement (.query f tag) := of_event rfl
theorem reset (d : DieId) (tag : BitVec 32) (queue : BitVec 32) : Statement (.reset d tag queue) := of_event rfl
theorem filegrant (d : DieId) (tag : BitVec 32) (ext : BitVec 32) (access : BitVec 32) (base : BitVec 64) (len : BitVec 64) : Statement (.filegrant d tag ext access base len) := of_event rfl
theorem fwupdate (f : FuncId) (tag : BitVec 32) (addr : BitVec 64) (len : BitVec 64) : Statement (.fwupdate f tag addr len) := of_event rfl
theorem debugset (f : FuncId) (tag : BitVec 32) (die : BitVec 8) (queue : BitVec 8) (ltag : BitVec 32) (word : BitVec 64) : Statement (.debugset f tag die queue ltag word) := of_event rfl
theorem brkset (f : FuncId) (tag : BitVec 32) (die : BitVec 8) (brk : BitVec 8) (kind : BitVec 8) (mask : BitVec 8) (addr : BitVec 64) : Statement (.brkset f tag die brk kind mask addr) := of_event rfl
theorem trapresp (d : DieId) (idx : BitVec 32) (status : BitVec 32) (vals : Resp4) : Statement (.trapresp d idx status vals) := of_event rfl
theorem trapheadWrite (d : DieId) (v : BitVec 32) : Statement (.trapheadWrite d v) := of_event rfl
theorem fltheadWrite (d : DieId) (v : BitVec 32) : Statement (.fltheadWrite d v) := of_event rfl
theorem kctxWrite (d : DieId) (c : CtxId) (w0 : BitVec 64) (ring : BitVec 64) (plist : BitVec 64) : Statement (.kctxWrite d c w0 ring plist) := of_event rfl
theorem kchreset (d : DieId) (v : BitVec 64) : Statement (.kchreset d v) := of_event rfl
theorem clkmodeWrite (d : DieId) (v : BitVec 64) : Statement (.clkmodeWrite d v) := of_event rfl
theorem cohmodeWrite (d : DieId) (v : BitVec 64) : Statement (.cohmodeWrite d v) := of_event rfl
theorem rootWrite (d : DieId) (v : BitVec 64) : Statement (.rootWrite d v) := of_event rfl
theorem registerWrite (r : CtlWrite) : Statement (.registerWrite r) := of_event rfl
theorem tdispStop (f : FuncId) : Statement (.tdispStop f) := of_event rfl
theorem functionLevelReset (d : DieId) : Statement (.functionLevelReset d) := of_event rfl
theorem bringUp (b : BringUp) : Statement (.bringUp b) := of_event rfl
theorem clockStepDown (d : DieId) : Statement (.clockStepDown d) := of_event rfl
theorem recreateFilterExpiry (who : Holder) (line : Nat) : Statement (.recreateFilterExpiry who line) := of_event rfl
theorem recoveryRateWindow (h : Home) : Statement (.recoveryRateWindow h) := of_event rfl
theorem resetTokenAck (d : DieId) (h : Home) : Statement (.resetTokenAck d h) := of_event rfl
theorem lockInterfaceRequest (f : FuncId) : Statement (.lockInterfaceRequest f) := of_event rfl
theorem startInterfaceRequest (f : FuncId) : Statement (.startInterfaceRequest f) := of_event rfl
theorem eventQueueEntryFree (f : FuncId) : Statement (.eventQueueEntryFree f) := of_event rfl
theorem copyRequestComplete (d : DieId) (id : Nat) : Statement (.copyRequestComplete d id) := of_event rfl
theorem copyFaultDecline (c : Nat) (op : Nat) : Statement (.copyFaultDecline c op) := of_event rfl
theorem pageTableStore (pa : Nat) (v : BitVec 64) : Statement (.pageTableStore pa v) := of_event rfl
theorem unknownPacketType (port : PortId) (pk : Packet) : Statement (.unknownPacketType port pk) := of_event rfl

end Sys2Proof.Laws.RoundTrip
end

