-- ==== Sys2Proof/Safety.lean ====
section
/-! DEFINITION. The words in which statements about the machine are made: what an instruction leaves alone, what holds of every
state a step can reach, what a completed unit looks like, and what it is to round a number. -/

namespace Sys2Proof.Machine

open Sys2Proof

/-! ### Invariants -/

/-- Memory lists its bytes in rising order of address, and none that reads as an unlisted byte does (log 4). -/
def State.Canonical (s : State) : Prop := s.memWf = true

/-! ### Frames -/

/-- What a strand keeps of the unit in hand, and where it stands in its run, set aside: all that is left is what software can see
of the strand other than its program counter. -/
def Strand.seen (f : Strand) : Strand :=
  { f with pc := 0, unitPc := 0, run := 0, state := .ready, park := none, joinSeq := 0, skipBrk := false, stepDue := none,
           route := none, qual := none, fills := [], got := [], asked := [], homeReads := [], wants := [], near := none, checked := [], relSeq := none,
           stalled := false }

/-- Two strands agree in everything software can see but the program counter and the scalar registers. Whether a remote load is
still owed to a scalar register is part of that register. -/
def Strand.SameButS (f g : Strand) : Prop :=
  { g.seen with s := f.s, remotes := f.remotes, deferred := f.deferred } = f.seen

/-- Two machines agree in everything but the issuing strand; how many names the model has given out is not counted. All of
memory, every die, crew, vector register and other strand is thus the same. -/
def State.SameButStrand (s t : State) : Prop := { t with focus := s.focus, fresh := s.fresh } = s

/-- A debugger watches every unit of the issuing strand (R312): a completed unit is followed by DEBUG subcode 2. -/
def State.watchedSteps (s : State) : Bool := s.crew.hdr.step && bit s.crew.debug 0

/-- The scalar registers a unit may change are those of `ws`; nothing else changes but the strand's place in the program. -/
def State.ScalarFrame (ws : List SReg) (s t : State) : Prop :=
  s.SameButStrand t ∧ s.focus.SameButS t.focus ∧ ∀ r, r ∉ ws → t.rdS r = s.rdS r

/-- The issuing strand has parked with a fault whose record is `r`, at the first word of its unit, with every register as it
was (R299). -/
def State.Faulted (s t : State) (r : FaultRec) : Prop :=
  t.focus.state = .parked ∧ t.focus.park = some .fault ∧ t.focus.pc = s.focus.unitPc ∧ t.focus.faulted = some (r, true) ∧
  t.focus.s = s.focus.s ∧ t.focus.p = s.focus.p ∧ t.focus.live = s.focus.live ∧ t.focus.mode = s.focus.mode ∧
  t.focus.fflags = s.focus.fflags ∧ t.focus.lfault = s.focus.lfault ∧ t.crew = s.crew

/-- The record of a fault of the issuing strand that names the guard's lowest lane (R301). -/
def State.recordOf (s : State) (code sub : Nat) (addr : Word) : FaultRec := s.faultRec code sub s.guardLane s.focus.unitPc addr false

/-- The next unit opens a new run: the strand is READY, unless a debugger that watches every unit has stopped it (R43, R312). -/
def State.RunEnds (s t : State) : Prop := t.focus.run = 0 ∧ (s.watchedSteps = false → t.focus.state = .ready)

/-! ### What the tables of the manual say -/

/-- The operations of R68 with the value each gives its destination, from the values of its two registers. -/
def aluTable (e : Bool) (rd ra rb : SReg) : List (Instr × (Word → Word → Word)) :=
  [(.add e rd ra rb, fun a b => a + b),
   (.sub e rd ra rb, fun a b => a - b),
   (.mul e rd ra rb, fun a b => a * b),
   (.mulh e rd ra rb, fun a b => BitVec.ofInt 64 (a.toInt * b.toInt / 2 ^ 64)),
   (.mulhu e rd ra rb, fun a b => BitVec.ofNat 64 (a.toNat * b.toNat / 2 ^ 64)),
   (.div e rd ra rb, fun a b => if b = 0 then BitVec.allOnes 64 else a.sdiv b),
   (.divu e rd ra rb, fun a b => if b = 0 then BitVec.allOnes 64 else a / b),
   (.rem e rd ra rb, fun a b => if b = 0 then a else a.srem b),
   (.remu e rd ra rb, fun a b => if b = 0 then a else a % b),
   (.and e rd ra rb, fun a b => a &&& b),
   (.or e rd ra rb, fun a b => a ||| b),
   (.xor e rd ra rb, fun a b => a ^^^ b),
   (.andn e rd ra rb, fun a b => a &&& ~~~b)]

/-- The rest of the table of R68. -/
def aluTable2 (e : Bool) (rd ra rb : SReg) : List (Instr × (Word → Word → Word)) :=
  [(.shl e rd ra rb, fun a b => a <<< (b.toNat % 64)),
   (.shr e rd ra rb, fun a b => a >>> (b.toNat % 64)),
   (.sra e rd ra rb, fun a b => a.sshiftRight (b.toNat % 64)),
   (.min e rd ra rb, fun a b => if a.toInt ≤ b.toInt then a else b),
   (.max e rd ra rb, fun a b => if a.toInt ≤ b.toInt then b else a),
   (.minu e rd ra rb, fun a b => if a.toNat ≤ b.toNat then a else b),
   (.maxu e rd ra rb, fun a b => if a.toNat ≤ b.toNat then b else a),
   (.slt e rd ra rb, fun a b => if a.slt b then 1 else 0),
   (.sltu e rd ra rb, fun a b => if a.ult b then 1 else 0),
   (.seq e rd ra rb, fun a b => if a = b then 1 else 0),
   (.sne e rd ra rb, fun a b => if a = b then 0 else 1),
   (.bfx e rd ra rb, fun a b => BitVec.ofNat 64 ((a >>> (b.toNat % 64)).toNat % 2 ^ (min (b.toNat / 64 % 128) 64))),
   (.popc e rd ra, fun a _ => BitVec.ofNat 64 ((List.range 64).filter (fun i => a.getLsbD i)).length),
   (.clz e rd ra, fun a _ => BitVec.ofNat 64 (leadZeros 64 a.toNat)),
   (.ctz e rd ra, fun a _ => BitVec.ofNat 64 (trailZeros 64 0 a.toNat)),
   (.brev e rd ra, fun a _ => BitVec.ofNat 64 (revBits 64 a.toNat))]

/-- Every scalar operation with a constant, and the value R70 or R71 gives its destination. -/
def immTable (e : Bool) (rd ra : SReg) (imm : BitVec 13) (big : BitVec 19) : List (Instr × (Word → Word → Word)) :=
  [(.addi e rd ra imm, fun a _ => a + imm.signExtend 64),
   (.andi e rd ra imm, fun a _ => a &&& imm.signExtend 64),
   (.ori e rd ra imm, fun a _ => a ||| imm.signExtend 64),
   (.xori e rd ra imm, fun a _ => a ^^^ imm.signExtend 64),
   (.slti e rd ra imm, fun a _ => if a.slt (imm.signExtend 64) then 1 else 0),
   (.sltiu e rd ra imm, fun a _ => if a.ult (imm.signExtend 64) then 1 else 0),
   (.li e rd big, fun _ _ => big.signExtend 64),
   (.lui e rd big, fun _ _ => big.signExtend 64 <<< 19)]

/-- Every scalar operation with its value. -/
def scalarTable (e : Bool) (rd ra rb : SReg) (imm : BitVec 13) (big : BitVec 19) : List (Instr × (Word → Word → Word)) :=
  aluTable e rd ra rb ++ aluTable2 e rd ra rb ++ immTable e rd ra imm big

/-- The shifts by an immediate (R70). -/
def shiftTable (e : Bool) (rd ra : SReg) (imm : BitVec 13) : List (Instr × (Word → Nat → Word)) :=
  [(.shli e rd ra imm, fun a n => a <<< n), (.shri e rd ra imm, fun a n => a >>> n), (.srai e rd ra imm, fun a n => a.sshiftRight n)]

/-- The conditional branches with their conditions (R72). -/
def branchTable (ra : SReg) (disp : BitVec 16) : List (Instr × (Int → Prop)) :=
  [(.bz ra disp, fun x => x = 0), (.bnz ra disp, fun x => x ≠ 0), (.bltz ra disp, fun x => x < 0),
   (.bgez ra disp, fun x => 0 ≤ x), (.bgtz ra disp, fun x => 0 < x), (.blez ra disp, fun x => x ≤ 0)]

/-- The value R36 gives each special register that a program may read, but ENERGY; VREGS is the full count once the granules of the
full allotment are held (R29, R33). -/
def srTable (s : State) : List (BitVec 6 × Word) :=
  let c := s.crew
  let f := s.focus
  let w := BitVec.ofNat 64
  [(0, w f.idx), (1, w c.num), (2, w (c.num % c.rec_.nx)), (3, w (c.num / c.rec_.nx % c.rec_.ny)),
   (4, w (c.num / c.rec_.nx / c.rec_.ny)), (5, w c.rec_.nx), (6, w c.rec_.ny), (7, w c.rec_.nz), (8, w c.hdr.lanes),
   (9, w (if f.full || (c.hdr.vprologue + 7) / 8 == (c.hdr.vregs + 7) / 8 then c.hdr.vregs else c.hdr.vprologue)), (10, w c.die.val), (11, w (s.die c.die).clock), (12, w s.time),
   (14, f.lfault), (15, f.fflags), (16, f.progress), (17, f.mcerr), (18, w f.joins), (19, c.rec_.args), (20, c.debug),
   (21, f.stklo)]

/-! ### Vector units -/

/-- Nothing of R18, R33, R91, R115 or R12 keeps a vector unit back whose vector operands are `vs` (number, pair), and which reads
the scalar registers `rs` and writes `ws`: pairs are even, every register is in bounds and held, nothing is awaited, and the
route codes are good. -/
def State.VecReady (s : State) (vs : List (Nat × Bool)) (rs ws : List SReg) : Prop :=
  (∀ v ∈ vs, v.2 = true → v.1 % 2 = 0) ∧
  (∀ v ∈ vs ++ s.routeRegs, v.1 + (if v.2 then 1 else 0) < s.crew.hdr.vregs ∧
    (s.holdsFull = true ∨ v.1 + (if v.2 then 1 else 0) < s.crew.hdr.vprologue)) ∧
  s.waits rs ws (vs ++ s.routeRegs) = none ∧ s.routeBad = none

/-- Elements of register `vd` (and of the next one, for a pair) in the lanes `ls` take the values `f`, FFLAGS takes the flags `fl`,
and nothing else that software sees changes: every other lane and register of the strand's family, every scalar register, every
predicate, the live lanes, the other special registers and all of memory stand (a debugger's step event writes its record). -/
def State.VecResult (s t : State) (pair : Bool) (vd : Nat) (ls : List Nat) (f : Nat → Nat) (fl : Word) : Prop :=
  (∀ i ∈ ls, t.elem pair vd i = f i % 2 ^ (if pair then 64 else 32)) ∧
  (∀ v i, i ∉ ls ∨ (v ≠ vd ∧ (pair = false ∨ v ≠ vd + 1)) → t.rdV v i = s.rdV v i) ∧
  t.focus.fflags = s.focus.fflags ||| fl ∧ (∀ r, t.rdS r = s.rdS r) ∧ t.focus.p = s.focus.p ∧ t.focus.live = s.focus.live ∧
  t.focus.lfault = s.focus.lfault ∧ t.focus.mode = s.focus.mode ∧ t.focus.progress = s.focus.progress ∧
  t.focus.mcerr = s.focus.mcerr ∧ t.focus.pc = s.focus.pc + 4 ∧ (s.watchedSteps = false → t.mem = s.mem ∧ t.dies = s.dies)

/-- The flags of a list of lanes. -/
def flagWord (ls : List Nat) (f : Nat → Nat × Flags) : Word := (flagsOf (ls.map (fun i => (i, (f i).2)))).word

/-- The integer operations of R95 with the value each gives a lane of a type, SAT being `sat`. -/
def vecTable (t : Ty) (sat e : Bool) (vd va vb : VReg) : List (Instr × (Nat → Nat → Nat)) :=
  [(.vadd e vd va vb, fun a b => t.narrow sat (t.intVal a + t.intVal b)),
   (.vsub e vd va vb, fun a b => t.narrow sat (t.intVal a - t.intVal b)),
   (.vmul e vd va vb, fun a b => t.narrow sat (t.intVal a * t.intVal b)),
   (.vmulh e vd va vb, fun a b => wrap t.width (sInt t.width a * sInt t.width b / (2 ^ t.width : Nat))),
   (.vmulhu e vd va vb, fun a b => a * b / 2 ^ t.width),
   (.vand e vd va vb, fun a b => a &&& b), (.vor e vd va vb, fun a b => a ||| b), (.vxor e vd va vb, fun a b => a ^^^ b)] ++
  [(.vshl e vd va vb, fun a b => a * 2 ^ (b % t.width) % 2 ^ t.width),
   (.vshr e vd va vb, fun a b => a / 2 ^ (b % t.width)),
   (.vsra e vd va vb, fun a b => wrap t.width (sInt t.width a / (2 ^ (b % t.width) : Nat))),
   (.vmin e vd va vb, fun a b => if sInt t.width a ≤ sInt t.width b then a else b),
   (.vmax e vd va vb, fun a b => if sInt t.width a ≤ sInt t.width b then b else a),
   (.vminu e vd va vb, fun a b => if a ≤ b then a else b), (.vmaxu e vd va vb, fun a b => if a ≤ b then b else a),
   (.vabsd e vd va vb, fun a b => t.narrow sat ((t.intVal a - t.intVal b).natAbs : Int))]

/-- The scalar-operand forms of R95. -/
def vecTableS (t : Ty) (sat e : Bool) (vd va : VReg) (sb : SReg) : List (Instr × (Nat → Nat → Nat)) :=
  let op : List Instr := [.vaddS e vd va sb, .vsubS e vd va sb, .vmulS e vd va sb, .vmulhS e vd va sb, .vmulhuS e vd va sb,
    .vandS e vd va sb, .vorS e vd va sb, .vxorS e vd va sb, .vshlS e vd va sb, .vshrS e vd va sb, .vsraS e vd va sb,
    .vminS e vd va sb, .vmaxS e vd va sb, .vminuS e vd va sb, .vmaxuS e vd va sb, .vabsdS e vd va sb]
  op.zip ((vecTable t sat e vd va 0).map Prod.snd)

/-- The unary operations of R96 and `vaddi` (R97). -/
def vecTable1 (t : Ty) (sat e : Bool) (vd va : VReg) (imm : BitVec 11) : List (Instr × (Nat → Nat)) :=
  [(.vneg e vd va, fun a => t.narrow sat (-(t.intVal a))), (.vabs e vd va, fun a => t.narrow sat ((t.intVal a).natAbs : Int)),
   (.vnot e vd va, fun a => 2 ^ t.width - 1 - a), (.vpopc e vd va, fun a => ((List.range t.width).filter (fun i => a.testBit i)).length),
   (.vclz e vd va, fun a => leadZeros t.width a), (.vctz e vd va, fun a => trailZeros t.width 0 a),
   (.vbrev e vd va, fun a => revBits t.width a), (.vaddi e vd va imm, fun a => t.narrow sat (t.intVal a + imm.toInt))]

/-- The floating-point operations of R99 with two sources: value and flags of a lane, in the strand's format and rounding. -/
def fltTable (f : Strand) (e : Bool) (vd va vb : VReg) : List (Instr × (Nat → Nat → Nat × Flags)) :=
  let top := 2 ^ (f.ty.width - 1)
  [(.vfadd e vd va vb, fun a b => f.fmt.addV f.rc (f.fval a) (f.fval b)),
   (.vfsub e vd va vb, fun a b => f.fmt.addV f.rc (f.fval a) (f.fval b).negate),
   (.vfmul e vd va vb, fun a b => f.fmt.mulV f.rc (f.fval a) (f.fval b)),
   (.vfdiv e vd va vb, fun a b => f.fmt.divV f.rc (f.fval a) (f.fval b)),
   (.vfmin e vd va vb, fun a b => f.fmt.minmax f.ftz false a b), (.vfmax e vd va vb, fun a b => f.fmt.minmax f.ftz true a b),
   (.vfsgn e vd va vb, fun a b => (a % top + b / top * top, Flags.none))]

/-- The scalar-operand forms of R100. -/
def fltTableS (f : Strand) (e : Bool) (vd va : VReg) (sb : SReg) : List (Instr × (Nat → Nat → Nat × Flags)) :=
  let op : List Instr := [.vfaddS e vd va sb, .vfsubS e vd va sb, .vfmulS e vd va sb, .vfdivS e vd va sb, .vfminS e vd va sb,
    .vfmaxS e vd va sb]
  op.zip ((fltTable f e vd va 0).map Prod.snd)

/-- The floating-point operations of one source (R99). -/
def fltTable1 (f : Strand) (e : Bool) (vd va : VReg) : List (Instr × (Nat → Nat × Flags)) :=
  let top := 2 ^ (f.ty.width - 1)
  [(.vfsqrt e vd va, fun a => f.fmt.sqrtV f.rc (f.fval a)), (.vfabs e vd va, fun a => (a % top, Flags.none)),
   (.vfneg e vd va, fun a => (a ^^^ top, Flags.none)), (.vfrint e vd va, fun a => f.fmt.rintV f.rc (f.fval a)),
   (.vfclass e vd va, fun a => (f.fmt.classOf a, Flags.none))]

/-- The fused operations (R101): a × b + c with the product's and the addend's signs as the table says. -/
def fmaTable (f : Strand) (e : Bool) (vd va vb : VReg) : List (Instr × (Nat → Nat → Nat → Nat × Flags)) :=
  [(.vfma e vd va vb, fun a b c => f.fmt.fmaV f.rc (f.fval a) (f.fval b) (f.fval c)),
   (.vfms e vd va vb, fun a b c => f.fmt.fmaV f.rc (f.fval a) (f.fval b) (f.fval c).negate),
   (.vfnma e vd va vb, fun a b c => f.fmt.fmaV f.rc (f.fval a).negate (f.fval b) (f.fval c).negate),
   (.vfnms e vd va vb, fun a b c => f.fmt.fmaV f.rc (f.fval a).negate (f.fval b) (f.fval c))]

/-- The log-domain operations of one source (R103, R104). -/
def logTable1 (ftz e : Bool) (vd va : VReg) : List (Instr × (Nat → Nat × Flags)) :=
  [(.vtolog e vd va, vToLog ftz), (.vfromlog e vd va, vFromLog ftz), (.vlsqrt e vd va, vlSqrt), (.vexp2 e vd va, vExp2 ftz),
   (.vlog2 e vd va, vLog2)]

/-- The log-domain operations of two sources (R103, R104). -/
def logTable2 (e : Bool) (vd va vb : VReg) : List (Instr × (Nat → Nat → Nat × Flags)) :=
  [(.vlmul e vd va vb, vlMulDiv false), (.vldiv e vd va vb, vlMulDiv true), (.vlpow e vd va vb, vlPow)]

/-- The predicate operations of R107, from the predicates `a` and `b` they read and the live mask. -/
def predTable (e : Bool) (pd pa pb : PReg) : List (Instr × (Word → Word → Word → Word)) :=
  [(.pand e pd pa pb, fun a b _ => a &&& b), (.por e pd pa pb, fun a b _ => a ||| b), (.pxor e pd pa pb, fun a b _ => a ^^^ b),
   (.pandn e pd pa pb, fun a b _ => a &&& ~~~b), (.pnot e pd pa, fun a _ _ => ~~~a), (.pmov e pd pa, fun a _ _ => a)]

/-- The scalar results of R122 from a predicate's live bits `m` and the live mask. -/
def voteTable (e : Bool) (rd : SReg) (pa : PReg) : List (Instr × (Word → Word → Word)) :=
  [(.vballot e rd pa, fun m _ => m), (.vpcnt e rd pa, fun m _ => BitVec.ofNat 64 ((List.range 64).filter (fun i => m.getLsbD i)).length),
   (.vany e rd pa, fun m _ => if m = 0 then 0 else 1), (.vall e rd pa, fun m l => if m = l then 1 else 0)]

/-- Vector operations that compute, convert, compare or move within registers: whether they accept the TYPE `t`, and their register
operands in the order of R49, as (number, pair) (R90, R91, R102, R103, R105, R106, R108). The predicate a compare writes is not p0. -/
def regTable (t : Ty) (f : Strand) (e : Bool) (op : RedOp) (vd va vb : VReg) (sb : SReg) (p : PReg) (imm : BitVec 11) (big : BitVec 18)
    (src : Ty) (c : Cmp) (fc : FCmp) : List (Instr × Bool × List (Nat × Bool)) :=
  let d := (vd.toNat, t.pair)
  let a := (va.toNat, t.pair)
  let b := (vb.toNat, t.pair)
  let log := decide (t = .l32)
  (vecTable t f.sat e vd va vb).map (fun x => (x.1, t.isInt, [d, a, b])) ++
  (vecTableS t f.sat e vd va sb).map (fun x => (x.1, t.isInt, [d, a])) ++
  (vecTable1 t f.sat e vd va imm).map (fun x => (x.1, t.isInt, [d, a])) ++
  (fltTable f e vd va vb).map (fun x => (x.1, t.isFp, [d, a, b])) ++
  (fltTableS f e vd va sb).map (fun x => (x.1, t.isFp, [d, a])) ++
  (fltTable1 f e vd va).map (fun x => (x.1, t.isFp, [d, a])) ++
  (fmaTable f e vd va vb).map (fun x => (x.1, t.isFp, [d, a, b])) ++
  (logTable1 f.ftz e vd va).map (fun x => (x.1, log, [d, a])) ++
  (logTable2 e vd va vb).map (fun x => (x.1, log, [d, a, b])) ++
  [(.vmad e vd va vb, t.isInt, [d, a, b]), (.vmov e vd va, true, [d, a]), (.vsel e vd va vb, true, [d, a, b]),
   (.vcompress e vd va p, true, [d, a]), (.vexpand e vd va p, true, [d, a]), (.vli e vd big, true, [d]),
   (.vlaneid e vd, t.isInt, [d]), (.vfill e vd sb, true, [d]), (.vins e vd sb p, true, [d]), (.vext e sb va p, true, [a]),
   (.vred e op sb va, redOk op t, [a]), (.vscan e op vd va, redOk op t, [d, a]),
   (.vrdx e vd sb imm, true, [d]), (.vwrx e vd sb imm, true, [d])] ++
  (if src = .l32 then [] else [(.vcvt e src vd va, !log, [d, (va.toNat, src.pair)])]) ++
  (if p = 0 then [] else [(.vcmp e c p va vb, t.isInt, [a, b]), (.vfcmp e fc p va vb, t.isFp, [a, b])])

/-- The instructions that write a predicate (R105 to R107). -/
def predWriters (e : Bool) (c : Cmp) (fc : FCmp) (pd pa pb : PReg) (va vb : VReg) (ra : SReg) : List Instr :=
  [.vcmp e c pd va vb, .vfcmp e fc pd va vb] ++ (predTable e pd pa pb).map Prod.fst ++ [.pfirst e pd pa, .pfroms e pd ra]

/-- The global vector loads and stores with their vector operands, as (number, pair); `true` marks a store. -/
def vmemTable (t : Ty) (e : Bool) (vd : VReg) (sb : SReg) (imm : BitVec 9) (vo : VReg) (sc : BitVec 2) :
    List (Instr × Bool × List (Nat × Bool)) :=
  [(.vld e vd sb imm, false, [(vd.toNat, t.pair)]), (.vldUni e vd sb imm, false, [(vd.toNat, t.pair)]),
   (.vldx e vd sb vo sc, false, [(vd.toNat, t.pair), (vo.toNat, false)]), (.vst e vd sb imm, true, [(vd.toNat, t.pair)]),
   (.vstc e vd sb imm, true, [(vd.toNat, t.pair)]), (.vstx e vd sb vo sc, true, [(vd.toNat, t.pair), (vo.toNat, false)])]

/-! ### What rounding comes to (R92, R102, R144), in exact rational numbers -/

/-- The formats of R142. -/
def allFormats : List Fmt := [fmtF64, fmtF32, fmtF16, fmtBF16, fmtF8B, fmtF8A, fmtF4]

/-- The number that a value stands for; none for a NaN and an infinity (R142). -/
def FVal.rat : FVal → Option ℚ
  | .num n m e => some ((if n then -1 else 1) * (m : ℚ) * 2 ^ e)
  | _ => none

/-- The largest finite magnitude of a format (R142). -/
def Fmt.top (f : Fmt) : ℚ := (f.maxM : ℚ) * 2 ^ f.maxQ

/-- The smallest normal magnitude of a format (R142). -/
def Fmt.tiny (f : Fmt) : ℚ := 2 ^ (1 - (f.bias : Int))

/-- Rounding by the mode, with the spacing of the top binade going on above it, passes the largest finite magnitude (R144 steps 2, 3). -/
def Fmt.Overflows (f : Fmt) (rnd : Nat) (x : ℚ) : Prop :=
  let u : ℚ := 2 ^ f.maxQ
  match rnd with
  | 0 => f.top + u / 2 < |x| ∨ (f.top + u / 2 = |x| ∧ f.maxM % 2 = 1)
  | 1 => f.top + u ≤ |x|
  | 2 => f.top + u ≤ x ∨ x < -f.top
  | _ => f.top < x ∨ x ≤ -(f.top + u)

/-- Of the finite numbers of a format `v`, the pattern `p`, is the one that the mode gives for `x` (R144 step 2). -/
def Fmt.Nearest (f : Fmt) (rnd : Nat) (x : ℚ) (p : Nat) (v : ℚ) : Prop :=
  p < 2 ^ f.bits ∧ (f.read false p).rat = some v ∧ p.testBit (f.bits - 1) = decide (x < 0) ∧
  ∀ y w, y < 2 ^ f.bits → (f.read false y).rat = some w → match rnd with
    | 0 => |x - v| ≤ |x - w| ∧ (|x - v| = |x - w| → w = v ∨ p % 2 = 0)
    | 1 => |v| ≤ |x| ∧ (|w| ≤ |x| → 0 ≤ w * x → |w| ≤ |v|)
    | 2 => v ≤ x ∧ (w ≤ x → w ≤ v)
    | _ => x ≤ v ∧ (x ≤ w → v ≤ w)

/-- What R144 and R92 give for an exact number `x` that is not 0: the pattern with its flags. -/
def Fmt.Rounds (f : Fmt) (rnd : Nat) (sat ftz : Bool) (x : ℚ) (r : Nat × Flags) : Prop :=
  let big := sat = true ∨ rnd = 1 ∨ (rnd = 2 ∧ 0 < x) ∨ (rnd = 3 ∧ x < 0)
  r.2.nv = false ∧ r.2.dz = false ∧
  (f.Overflows rnd x → r.2.of = true ∧ r.2.nx = true ∧ r.2.uf = false ∧
    (big ∨ (f.ieee = false ∧ f.nan = false) → (f.read false r.1).rat = some (if x < 0 then -f.top else f.top)) ∧
    (¬ big → f.ieee = true → f.read false r.1 = .inf (decide (x < 0))) ∧
    (¬ big → f.ieee = false → f.nan = true → r.1 = f.canon)) ∧
  (¬ f.Overflows rnd x → r.2.of = false ∧ ∃ p v, f.Nearest rnd x p v ∧
    (ftz = true → |v| < f.tiny → r.1 = (if x < 0 then 2 ^ (f.bits - 1) else 0) ∧ r.2.uf = true ∧ r.2.nx = true) ∧
    (ftz = false ∨ f.tiny ≤ |v| → r.1 = p ∧ r.2.nx = decide (v ≠ x) ∧ (r.2.uf = true → v ≠ x ∧ |x| < f.tiny) ∧
      (v ≠ x → |v| < f.tiny → r.2.uf = true)))

/-- The integer that the mode gives for `x` (R102). -/
def NearInt (rnd : Nat) (x : ℚ) (i : Int) : Prop := match rnd with
  | 0 => |x - i| ≤ 1 / 2 ∧ (|x - i| = 1 / 2 → i % 2 = 0)
  | 1 => |(i : ℚ)| ≤ |x| ∧ |x| < |(i : ℚ)| + 1 ∧ 0 ≤ x * i
  | 2 => (i : ℚ) ≤ x ∧ x < i + 1
  | _ => (i : ℚ) - 1 < x ∧ x ≤ i

/-- The sign of a value; a NaN has none. -/
def FVal.sign : FVal → Bool
  | .nan _ => false
  | .inf n => n
  | .num n _ _ => n

/-- One value is below another; −0 and +0 are equal, and a NaN is below nothing and above nothing (R106). -/
def FVal.Below (a b : FVal) : Prop :=
  (∃ x y, a.rat = some x ∧ b.rat = some y ∧ x < y) ∨ (a = .inf true ∧ ∃ y, b.rat = some y) ∨ ((∃ x, a.rat = some x) ∧ b = .inf false) ∨
  (a = .inf true ∧ b = .inf false)

/-- Two values are equal numbers or equal infinities (R106). -/
def FVal.Same (a b : FVal) : Prop := (∃ x, a.rat = some x ∧ b.rat = some x) ∨ ∃ n, a = .inf n ∧ b = .inf n

/-- One of two values is a NaN. -/
def FVal.anyNan (a b : FVal) : Prop := (∃ n, a = .nan n) ∨ ∃ n, b = .nan n

/-- The flags of an operation that is quiet but for a signalling NaN among its operands (R92). -/
def nanFlags (a b : FVal) : Flags := if a = .nan true ∨ b = .nan true then Flags.invalid else Flags.none

/-- A pattern is the zero of a sign. -/
def Fmt.IsZero (f : Fmt) (neg : Bool) (p : Nat) : Prop := p = if neg then 2 ^ (f.bits - 1) else 0

/-- What the root of `x`, more than 0, comes to: of the format's numbers the one that the mode gives, with the flush of R144 (R99). -/
def Fmt.RootRounds (f : Fmt) (rnd : Nat) (ftz : Bool) (x : ℚ) (r : Nat × Flags) : Prop :=
  ∃ p v, p < 2 ^ (f.bits - 1) ∧ (f.read false p).rat = some v ∧
    (∀ y w, y < 2 ^ (f.bits - 1) → (f.read false y).rat = some w → match rnd with
      | 0 => (v < w → x ≤ ((v + w) / 2) ^ 2) ∧ (w < v → ((v + w) / 2) ^ 2 ≤ x) ∧ (x = ((v + w) / 2) ^ 2 → w = v ∨ p % 2 = 0)
      | 3 => x ≤ v ^ 2 ∧ (x ≤ w ^ 2 → v ≤ w)
      | _ => v ^ 2 ≤ x ∧ (w ^ 2 ≤ x → w ≤ v)) ∧
    r.2.nv = false ∧ r.2.dz = false ∧ r.2.of = false ∧
    (ftz = true → v < f.tiny → r.1 = 0 ∧ r.2.uf = true ∧ r.2.nx = true) ∧
    (ftz = false ∨ f.tiny ≤ v → r.1 = p ∧ r.2.nx = decide (v ^ 2 ≠ x) ∧ (r.2.uf = true → v ^ 2 ≠ x ∧ x < f.tiny ^ 2) ∧
      (v ^ 2 ≠ x → v < f.tiny → r.2.uf = true))

/-- The pattern that an operation that only selects writes of an operand: a zero by FTZ is written as that zero (R99). -/
def Fmt.Selects (f : Fmt) (ftz : Bool) (x p : Nat) : Prop :=
  ((f.read ftz x).rat = some 0 → f.IsZero (x.testBit (f.bits - 1)) p) ∧ ((f.read ftz x).rat ≠ some 0 → p = x)

/-- The conditions of `vcmp`, of the two values as patterns of `w` bits (R105). -/
def cmpTable (w : Nat) : List (Cmp × (BitVec w → BitVec w → Prop)) :=
  [(.eq, fun a b => a = b), (.ne, fun a b => a ≠ b), (.lt, fun a b => a.toInt < b.toInt), (.le, fun a b => a.toInt ≤ b.toInt),
   (.gt, fun a b => b.toInt < a.toInt), (.ge, fun a b => b.toInt ≤ a.toInt), (.ltu, fun a b => a.toNat < b.toNat),
   (.leu, fun a b => a.toNat ≤ b.toNat), (.gtu, fun a b => b.toNat < a.toNat), (.geu, fun a b => b.toNat ≤ a.toNat)]

/-- The conditions of `vfcmp`, and which of them raise invalid on a quiet NaN too (R106). -/
def fcmpTable : List (FCmp × (FVal → FVal → Prop) × Bool) :=
  [(.eq, FVal.Same, false), (.ne, fun a b => ¬ a.Same b, false), (.lt, FVal.Below, true), (.le, fun a b => a.Below b ∨ a.Same b, true),
   (.gt, fun a b => b.Below a, true), (.ge, fun a b => b.Below a ∨ a.Same b, true), (.un, FVal.anyNan, false),
   (.ord, fun a b => ¬ a.anyNan b, false)]

/-- The operators of `vred` and `vscan` for a strand's TYPE, each with its identity and its step (R121). -/
def redTable (f : Strand) : List (RedOp × Nat × (Nat → Nat → Nat × Flags)) :=
  let t := f.ty
  let g := f.fmt
  let inf := (2 ^ (g.bits - 1 - g.mbits) - 1) * 2 ^ g.mbits
  let all := 2 ^ t.width
  if t.isFp then
    [(.add, 0, fun x y => g.addV f.rc (f.fval x) (f.fval y)), (.min, inf, fun x y => g.minmax f.ftz false x y),
     (.max, 2 ^ (g.bits - 1) + inf, fun x y => g.minmax f.ftz true x y)]
  else
    [(.add, 0, fun x y => (t.narrow f.sat (t.intVal x + t.intVal y), Flags.none)),
     (.min, if t.isI then all / 2 - 1 else all - 1, fun x y => (if t.intVal x ≤ t.intVal y then x else y, Flags.none)),
     (.max, if t.isI then all / 2 else 0, fun x y => (if t.intVal x ≤ t.intVal y then y else x, Flags.none)),
     (.and, all - 1, fun x y => (x &&& y, Flags.none)), (.or, 0, fun x y => (x ||| y, Flags.none)), (.xor, 0, fun x y => (x ^^^ y, Flags.none))]

/-- The fold of R121 over lanes: the accumulator, and the flags that its steps raised. -/
def foldLanes (step : Nat → Nat → Nat × Flags) (rd : Nat → Nat) (ident : Nat) (ls : List Nat) : Nat × Flags :=
  ls.foldl (fun a i => ((step a.1 (rd i)).1, a.2.or (step a.1 (rd i)).2)) (ident, Flags.none)

/-! ### What the log domain comes to (R103, R104, R153) -/

/-- The field of an L32 word, as a signed number (R153). -/
def lNum (x : Nat) : Int := sInt 31 (x % 2 ^ 31)

/-- An L32 word is a finite number: its field is none of the reserved three (R153). -/
def lFin (x : Nat) : Prop := x % 2 ^ 31 ≠ 0x40000000 ∧ x % 2 ^ 31 ≠ 0x3FFFFFFF ∧ x % 2 ^ 31 ≠ 0x40000001

/-- What a computed L comes to, whose exact value in units of 2^-22 is `q`: rounded half to even, and an infinity or a zero where it
passes the range (R103, R104). -/
def LRounds (neg : Bool) (q : ℚ) (r : Nat × Flags) : Prop :=
  r.1 < 2 ^ 32 ∧ r.1.testBit 31 = neg ∧ ∃ i : Int, NearInt 0 q i ∧
    (0x3FFFFFFE < i → r.1 % 2 ^ 31 = 0x3FFFFFFF ∧ r.2 = { Flags.none with of := true, nx := true }) ∧
    (i < -0x3FFFFFFE → r.1 % 2 ^ 31 = 0x40000000 ∧ r.2 = { Flags.none with uf := true, nx := true }) ∧
    (-0x3FFFFFFE ≤ i → i ≤ 0x3FFFFFFE → lNum r.1 = i ∧ r.2 = { Flags.none with nx := decide ((i : ℚ) ≠ q) })

/-! ### What the matrix engine computes (R145 to R152, R157, R158, R172, R181), in exact rational numbers -/

/-- The number a value stands for; 0 for a NaN and an infinity. -/
def FVal.q (v : FVal) : ℚ := v.rat.getD 0

/-- An exact result rounded once to nearest, ties to even; zero gives a zero, whose sign is the operation's to say (R144). -/
def Fmt.Gives (f : Fmt) (sat ftz : Bool) (x : ℚ) (v : Nat) : Prop :=
  (x ≠ 0 → ∃ fl, f.Rounds 0 sat ftz x (v, fl)) ∧ (x = 0 → (f.read false v).rat = some 0)

/-- The formats of R172 by their code, with K, the elements of a row (R157). -/
def tileFmts : List (Fmt × Nat) :=
  [(fmtBF16, 32), (fmtF16, 32), (fmtF8A, 64), (fmtF8B, 64), (fmtF4, 128), (fmtF4, 128), (fmtF32, 16), (fmtF64, 8)]

/-- Where the elements of a slot stand, and what value each has: a GB4 element is scaled by its block's exponent and its pair's micro bit
(R149, R157, R158). -/
def Slot.ElementsStand (x : Slot) : Prop :=
  ∀ (code r k : Nat) (ftz : Bool) (f : Fmt) (K : Nat), tileFmts[code]? = some (f, K) → r < 64 → k < K →
    let n := 64 / K
    let b := (x.sideByte (64 + 8 * r + k / 16)).toNat
    let m := (x.sideByte (576 + 8 * r + k / 16)).getLsbD (k % 16 / 2)
    let raw := f.read ftz (x.pattern code r k)
    (K = 128 → x.pattern code r k = (x.byte (64 * r + k / 2)).toNat / (if k % 2 = 0 then 1 else 16) % 16) ∧
    (K ≠ 128 → x.pattern code r k = leNat ((List.range n).map (fun i => x.byte (64 * r + n * k + i)))) ∧
    (code ≠ 5 → x.value code ftz r k = raw) ∧
    (code = 5 → (b = 255 → (x.value code ftz r k).rat = none) ∧
      (b ≠ 255 → (x.value code ftz r k).sign = raw.sign ∧
        (x.value code ftz r k).rat = some (raw.q * 2 ^ ((b : Int) - 127 - (if m then 1 else 0)))))

/-- The codebook of R151, in units of 2^-10. -/
def g4Codebook : List Int := [-1024, -724, -555, -427, -318, -221, -131, -43, 43, 131, 221, 318, 427, 555, 724, 1024]

/-- A code dequantised: superscale pattern, scale code, code, and the BF16 pattern it gives (R152). -/
def G4Value (ftz : Bool) (sg q code v : Nat) : Prop :=
  (∀ n, fmtF32.read false sg = .nan n → v = fmtBF16.canon) ∧
  (∀ n, fmtF32.read false sg = .inf n → fmtBF16.read false v = .inf (n != decide (code < 8))) ∧
  ∀ x, (fmtF32.read false sg).rat = some x → ∃ b y, fmtF32.Gives false ftz (x * ((q : ℚ) + 1) / 256) b ∧ (fmtF32.read false b).rat = some y ∧
    fmtBF16.Gives false ftz ((g4Codebook.getD code 0 : ℚ) / 1024 * y) v

/-- Output `i` of a Hadamard block of `n` values (R147). -/
def HadamardValue (f : Fmt) (ftz : Bool) (n i : Nat) (x : Nat → FVal) (v : Nat) : Prop :=
  let odd := fun (j : Nat) => ((List.range 6).filter (fun b => i.testBit b && j.testBit b)).length % 2 = 1
  let y : ℚ := ((List.range n).map (fun j => (if odd j then -1 else 1) * (x j).q)).sum / (if n = 16 then 4 else 8)
  ((∃ j, j < n ∧ (x j).rat = none) → v = f.canon) ∧
  ((∀ j, j < n → (x j).rat ≠ none) → f.Gives false ftz y v ∧ (y = 0 → v = 0))

/-- The largest magnitude of the numbers among `n` values; 0 where there is none (R148, R150). -/
def Amax (n : Nat) (x : Nat → FVal) (a : ℚ) : Prop :=
  (∀ j y, j < n → (x j).rat = some y → |y| ≤ a) ∧ (a = 0 ∨ ∃ j y, j < n ∧ (x j).rat = some y ∧ |y| = a)

/-- A row quantised to F8A: its scale code and its elements (R148). -/
def F8Row (ftz : Bool) (x : Nat → FVal) (s : Nat) (v : Nat → Nat) : Prop :=
  (∃ a, Amax 64 x a ∧ (a = 0 → s = 127) ∧
    (a ≠ 0 → ∃ k : Int, a / 448 ≤ 2 ^ k ∧ 2 ^ (k - 1) < a / 448 ∧ (s : Int) = max 0 (min 254 (127 + k)))) ∧
  ∀ j, j < 64 → (∀ n, x j = .nan n → v j = 0x7F) ∧ (∀ n, x j = .inf n → v j = if n then 0xFE else 0x7E) ∧
    ∀ y, (x j).rat = some y → fmtF8A.Gives true ftz (y * 2 ^ (127 - (s : Int))) (v j)

/-- A block quantised to GB4: its exponent, its micro bits and its codes; a zero keeps its sign (R150). -/
def Gb4Block (ftz : Bool) (x : Nat → FVal) (e m : Nat) (v : Nat → Nat) : Prop :=
  ((∃ j, j < 16 ∧ (x j).rat = none) → e = 255 ∧ m = 0 ∧ ∀ j, j < 16 → v j = 0) ∧
  ((∀ j, j < 16 → (x j).rat ≠ none) →
    (∃ a, Amax 16 x a ∧ (a = 0 → e = 127) ∧ (a ≠ 0 → ∃ k : Int, 2 ^ k ≤ a ∧ a < 2 ^ (k + 1) ∧ (e : Int) = max 0 (min 254 (k + 125)))) ∧
    ∀ j, j < 16 →
      (m.testBit (j / 2) = true ↔ |(x (j / 2 * 2)).q| * 2 ^ (127 - (e : Int)) ≤ 3 ∧ |(x (j / 2 * 2 + 1)).q| * 2 ^ (127 - (e : Int)) ≤ 3) ∧
      fmtF4.Gives true ftz ((x j).q * 2 ^ (127 - (e : Int) + (if m.testBit (j / 2) then 1 else 0))) (v j) ∧
      ((x j).q = 0 → v j = if (x j).sign then 8 else 0))

/-- One element of an MMLA step: accumulator value, the scale codes of its row and its column, and the `K` values of each; the tests of R146
in their order, then the exact sum rounded once (R145). -/
def MmlaValue (f : Fmt) (ftz : Bool) (c : FVal) (sa sb K : Nat) (a b : Nat → FVal) (v : Nat) : Prop :=
  let nan := fun (x : FVal) => ∃ n, x = .nan n
  let inf := fun (x : FVal) => ∃ n, x = .inf n
  let anyNan := nan c ∨ sa = 255 ∨ sb = 255 ∨ ∃ k, k < K ∧ (nan (a k) ∨ nan (b k))
  let zeroInf := ∃ k, k < K ∧ ((inf (a k) ∧ (b k).rat = some 0) ∨ ((a k).rat = some 0 ∧ inf (b k)))
  let hasInf := fun (n : Bool) => c = .inf n ∨ ∃ k, k < K ∧ (inf (a k) ∨ inf (b k)) ∧ ((a k).sign != (b k).sign) = n
  let x : ℚ := c.q + 2 ^ ((sa : Int) + sb - 254) * ((List.range K).map (fun k => (a k).q * (b k).q)).sum
  let minusZeros := c.q = 0 ∧ c.sign = true ∧ ∀ k, k < K → (a k).q * (b k).q = 0 ∧ (a k).sign ≠ (b k).sign
  (anyNan → v = f.canon) ∧
  (¬ anyNan → (zeroInf ∨ (hasInf true ∧ hasInf false) → v = f.canon) ∧
    (¬ zeroInf → (∀ n, hasInf n → ¬ hasInf (!n) → f.read false v = .inf n) ∧
      (¬ hasInf true → ¬ hasInf false → f.Gives false ftz x v ∧
        (x = 0 → (minusZeros → v = 2 ^ (f.bits - 1)) ∧ (¬ minusZeros → v = 0)))))

/-- One element of `msto` under a scale code (R181). -/
def MstoValue (src out : Fmt) (ftz : Bool) (s x v : Nat) : Prop :=
  (s = 255 → v = out.canon) ∧
  (s ≠ 255 → (∀ n, src.read ftz x = .nan n → v = out.canon) ∧ (∀ n, src.read ftz x = .inf n → out.read false v = .inf n) ∧
    ∀ y, (src.read ftz x).rat = some y → out.Gives false ftz (y * 2 ^ ((s : Int) - 127)) v)

/-- A tile operation has ended: its context stands at the next word, and memory is as before. -/
def State.TileDone (s t : State) : Prop := t.crew.seq.pc = s.crew.seq.pc + 4 ∧ t.crew.seq.state = .running ∧ t.mem = s.mem

/-! ### Memory units -/

/-- Nothing keeps an access to memory back (R222, R226, R252): no acquire load is outstanding, the core holds no store, nothing that the
strand's acquires may have read is still to come, and a release order finds every earlier access complete; `u` is the state the access is
made in, in which a release has its place in the order of stores. -/
def State.MemOpen (s u : State) : Prop :=
  s.acqOutstanding = false ∧ s.focus.heldSt = [] ∧ s.heldOn s.crew.die s.crew.core = [] ∧ s.readOwed = false ∧
  ((s.order.hasRel = false ∧ u = s) ∨
   (s.order.hasRel = true ∧ s.startRelease.completeTo s.scope = true ∧ (5 ≤ s.scope → s.startRelease.deferredStore = none) ∧
    u = s.startRelease))

/-- Nothing keeps an access that writes back: beside that, no remote load or atomic of the strand is without its value (R251). -/
def State.WriteOpen (s u : State) : Prop := s.focus.remotes.any (fun m => m.reads) = false ∧ s.MemOpen u

/-! ### Writes of the device's own agents (R205; when they are performed is the model's choice, log 7) -/

/-- The home of a sector has every token and the data of it, nothing else to do for it, and no persistent request in hand: what reaches
it there is performed at once. -/
def State.HomeFree (s : State) (sec : Nat) : Prop :=
  let h := s.homeOf (16 * sec)
  ((s.home h).hold sec).1 = 16 ∧ (s.home h).queued [sec] = false ∧ (s.home h).recovering (sec / 8) = false ∧
  s.homeReady h sec true = true ∧ (s.home h).hasp.active = none

/-- Bytes that an agent of the device stores from an address up have been stored. Where the homes of all their sectors are free they
stand in memory, and every other byte of memory is as before; where no home has every token of its sector they wait there as stores to
their sectors, and all of memory is as before. -/
def State.DevWrote (s t : State) (pa : Nat) (bs : List Byte) : Prop :=
  let inside := fun (a : Nat) => pa ≤ a ∧ a < pa + bs.length
  ((∀ a, inside a → s.HomeFree (a / 16)) →
    ∀ a, t.memByte a = if pa ≤ a ∧ a < pa + bs.length then bs.getD (a - pa) 0 else s.memByte a) ∧
  ((∀ a, inside a → ((s.home (s.homeOf (16 * (a / 16)))).hold (a / 16)).1 ≠ 16) → (∀ a, t.memByte a = s.memByte a) ∧
    ∀ a, inside a → ∃ m : HstMsg, (a / 16, HomeAcc.hst m) ∈ (t.home (s.homeOf (16 * (a / 16)))).queue ∧
      m.mask.getLsbD (a % 16) = true ∧ sectorByte m.data (a % 16) = bs.getD (a - pa) 0)

/-- The elements `xs` of an access pass every check of R126, no breakpoint is met and none is held by MIG: `es` are they, `u` the
state with the translations made. -/
def State.Passes (s : State) (k : Acc) (size : Nat) (xs : List (Nat × Nat)) (u : State) (es : List Elem) : Prop :=
  s.checkElems k size xs = (u, es, none) ∧ u.dataBrk k es = none ∧ ∀ e ∈ es, e.held = false

/-- The faults of R126, in their order, for an element of `size` bytes at an address that is translated in `u`: `traps code subcode` says that
the access ends so (R112, R280, R284, R287). -/
def State.AccessTraps (u : State) (k : Acc) (size va : Nat) (traps : Nat → Nat → Prop) : Prop :=
  let d := u.crew.die
  let found := (u.leafOf d u.crew.core va).2
  (2 ^ 55 ≤ va → traps 0x04 0) ∧ (va < 2 ^ 55 → va % size ≠ 0 → traps 0x03 1) ∧
  (va < 2 ^ 55 → va % size = 0 →
    (found = none → traps 0x05 (match k with
      | .load => 1
      | .store => 2
      | .atomic => 3
      | .fetch => 4)) ∧
    ∀ l, found = some l →
      let p := l.pte
      let q := ptePeer p
      let may := if k = .load then bit p 1 = true else bit p 9 = false ∧ bit p 2 = true
      (k = .load → bit p 1 = false → traps 0x06 1) ∧ (k ≠ .load → bit p 9 = true → traps 0x06 4) ∧
      (k ≠ .load → bit p 9 = false → bit p 2 = false → traps 0x06 2) ∧
      (may → bit p 11 = true →
        ((u.die q).present = false → traps 0x07 1) ∧
        ((u.die q).present = true → (u.die q).enabled = false → traps 0x07 2) ∧
        ((u.die q).present = true → (u.die q).enabled = true → (u.die d).ctl.partition.getLsbD q.val = false → traps 0x07 3)) ∧
      (may → bit p 11 = false → pteFab p = true → pteGroup p = none → (u.keyOf d p).bind u.outPort = none → traps 0x08 1))

/-- The byte that a load of a core reads at a physical address: that of the youngest store to it that the core holds, else the one pending in
the base die, else the die cache's (R127, R222, R253). -/
def State.SeesByte (s : State) (d : DieId) (c : CoreId) (a : Nat) (b : Byte) : Prop :=
  let hs := ((s.heldOn d c).map Prod.snd).filter (fun x => x.sec == a / 16)
  let ps := (s.pendings d).filter (fun x => x.sec == a / 16)
  let h := s.holdOf (.die d) (a / 16)
  let on := fun (m : BitVec 16) => m.getLsbD (a % 16)
  (∃ x ∈ hs, on x.mask = true ∧ sectorByte x.data (a % 16) = b ∧ ∀ y ∈ hs, y ≠ x → y.seq ≠ x.seq ∧ (on y.mask = true → y.seq < x.seq)) ∨
  ((∀ x ∈ hs, on x.mask = false) ∧ ∃ p ∈ ps, on p.mask = true ∧ sectorByte p.data (a % 16) = b ∧ ∀ q ∈ ps, q ≠ p → on q.mask = false) ∨
  ((∀ x ∈ hs, on x.mask = false) ∧ (∀ p ∈ ps, on p.mask = false) ∧ h.count ≠ 0 ∧ h.known = true ∧ sectorByte h.data (a % 16) = b)

/-- A load is made at the die cache and can be now: no store of its core to the sector is on its way to a home, the L1 does not serve it, and
a read wider than crew scope finds no other strand's byte pending (R127, R220, R251). -/
def State.ReadsDie (s : State) (l1 : Bool) (size : Nat) (e : Elem) : Prop :=
  let sec := e.pa / 16
  let mask := sectorMask (e.pa % 16) size
  look e.lane s.focus.got = none ∧ s.hstPending sec = false ∧ ptePlace e.leaf.pte ≠ 3 ∧ look sec s.focus.fills = none ∧
  (l1 = true → s.l1Serves (ptePlace e.leaf.pte) = true → s.l1Copy s.crew.die s.crew.core sec mask = none) ∧
  (4 ≤ s.scope → s.othersBytes s.crew.die s.crew.core s.focus.uid sec mask = false)

/-- The address forms of the global vector loads (R109, R135), with the offset register that each reads. -/
def loadForms (e : Bool) (vd : VReg) (sb : SReg) (imm : BitVec 9) (vo : VReg) (sc : BitVec 2) (s : State) :
    List (Instr × List (Nat × Bool) × (Nat → Word)) :=
  [(.vld e vd sb imm, [], s.unitEa sb imm), (.vldUni e vd sb imm, [], fun _ => s.unitBase sb imm),
   (.vldx e vd sb vo sc, [(vo.toNat, false)], s.scaledEa sb vo sc)]

/-- The scratchpad loads and stores (R138) with their swizzle, the offset register each reads, and their addresses. -/
def spadForms (store e : Bool) (swz : BitVec 3) (vd : VReg) (sb : SReg) (imm : BitVec 9) (vo : VReg) (sc : BitVec 2) (s : State) :
    List (Instr × List (Nat × Bool) × (Nat → Word)) :=
  if store then [(.vsts e swz vd sb imm, [], s.unitEa sb imm), (.vstsx e swz vd sb vo sc, [(vo.toNat, false)], s.scaledEa sb vo sc)]
  else [(.vlds e swz vd sb imm, [], s.unitEa sb imm), (.vldsx e swz vd sb vo sc, [(vo.toNat, false)], s.scaledEa sb vo sc)]

/-- The byte that stores of the elements `xs` (element, address) of `size` bytes leave at scratchpad offset `a`: the last of them
that covers it wins (R138). -/
def spadAfter (size : Nat) (val : Nat → Nat) (old : Byte) (a : Nat) (xs : List (Nat × Nat)) : Byte :=
  xs.foldl (fun b x => if x.2 ≤ a ∧ a < x.2 + size then BitVec.ofNat 8 (val x.1 / 2 ^ (8 * (a - x.2))) else b) old

/-- A Latch word after an update (R184): PENDING moves modulo 2^31; where it comes to 0 the phase turns and it takes EXPECTED. -/
def latchAfter (phase pending expected : Nat) (delta : Int) : Nat :=
  let p := ((pending : Int) + delta) % 2147483648
  if p = 0 then (1 - phase) * 2 ^ 63 + expected % 2 ^ 31 * 2 ^ 32 + expected else phase * 2 ^ 63 + p.toNat * 2 ^ 32 + expected

/-! ### Events -/

/-- The eight bytes of a word stand at an address of memory (R4). -/
def State.WordAt (s : State) (a : Nat) (w : Word) : Prop := ∀ i, i < 8 → s.memByte (a + i) = (leBytes 8 w.toNat).getD i 0

/-- A host request has been answered OK with a value, or will be when its invalidation is complete (R289, R331). -/
def State.WillAnswer (s : State) (d : DieId) (tag : BitVec 32) (v : Word) : Prop :=
  (⟨tag, 0, v⟩ : Response) ∈ (s.die d).face.responses ∨ ∃ x ∈ (s.die d).invals, x.tag = some (tag, v)

end Sys2Proof.Machine
end

