-- ==== Sys2Proof/Certificates/Slice0/Obligations.lean ====
section
/-! DEFINITION. The statements for the provers: what the rules of the manual say the instructions and the machine do. -/

open Sys2Proof Sys2Proof.Machine

/-! ### The scalar unit (R67 to R71) -/

/-- R68, R70, R71: each scalar operation writes the value the manual's table gives, reads both registers first, leaves every
other register, and goes on at the next word; a write to s0 is discarded (R17). -/
def Obligations.ScalarResults : Prop :=
  ∀ (s : State) (e : Bool) (rd ra rb : SReg) (imm : BitVec 13) (big : BitVec 19), s.waits [ra, rb] [rd] [] = none →
    ∀ p ∈ scalarTable e rd ra rb imm big, ∃ t, exec p.1 s = .next t ∧
      t.rdS rd = (if rd = 0 then (0 : Word) else p.2 (s.rdS ra) (s.rdS rb)) ∧ (∀ r, r ≠ rd → t.rdS r = s.rdS r) ∧
      t.focus.pc = s.focus.pc + 4

/-- R70, R71: a shift by an immediate of 0 to 63 gives the shifted value, and any other immediate traps ILLEGAL with subcode 4;
`lsi` shifts its own destination left by 19 and puts the immediate into the low bits. -/
def Obligations.ConstantResults : Prop :=
  ∀ (s : State) (e : Bool) (rd ra : SReg) (imm : BitVec 13) (big : BitVec 19),
    (∀ p ∈ shiftTable e rd ra imm,
      (imm.toNat < 64 → s.waits [ra] [rd] [] = none → ∃ t, exec p.1 s = .next t ∧
        t.rdS rd = (if rd = 0 then (0 : Word) else p.2 (s.rdS ra) imm.toNat) ∧ (∀ r, r ≠ rd → t.rdS r = s.rdS r) ∧
        t.focus.pc = s.focus.pc + 4) ∧
      (64 ≤ imm.toNat → ∃ t, exec p.1 s = .next t ∧ s.Faulted t (s.recordOf 0x01 4 0))) ∧
    (s.waits [rd] [rd] [] = none → ∃ t, exec (.lsi e rd big) s = .next t ∧
      t.rdS rd = (if rd = 0 then (0 : Word) else (s.rdS rd <<< 19) ||| big.zeroExtend 64) ∧
      (∀ r, r ≠ rd → t.rdS r = s.rdS r) ∧ t.focus.pc = s.focus.pc + 4)

/-- The frame of the scalar operations and of control transfer: of the whole machine only the destination register (the link
register s62 of a call, R73, R74) changes, and where the strand stands. Every byte of memory, flag, predicate, special register,
vector register and other strand is as before. -/
def Obligations.ScalarFrames : Prop :=
  (∀ (s t : State) (ra : SReg) (disp : BitVec 16) (far : BitVec 25) (e : Bool), s.watchedSteps = false →
    s.waits [ra] [62] [] = none → s.waits [62] [] [] = none → (s.rdS ra).toNat % 4 = 0 → (s.rdS 62).toNat % 4 = 0 →
    ∀ i ∈ (branchTable ra disp).map Prod.fst ++ [.jmp far, .call far, .jr ra, .calli ra, .ret, .nop e],
      exec i s = .next t → s.ScalarFrame (match i with | .call _ | .calli _ => [62] | _ => []) t) ∧
  ∀ (s t : State) (e : Bool) (rd ra rb : SReg) (imm : BitVec 13) (big : BitVec 19), s.watchedSteps = false →
    s.waits [ra, rb] [rd] [] = none →
    ∀ i ∈ (scalarTable e rd ra rb imm big).map Prod.fst ++ ((if imm.toNat < 64 then (shiftTable e rd ra imm).map Prod.fst else [])
        ++ [.lsi e ra big, .getm e rd]),
      exec i s = .next t → s.ScalarFrame (match i with | .lsi _ _ _ => [ra] | _ => [rd]) t

/-- R182: an instruction that overwrites a register an asynchronous operation still owes parks on a token it waits for, to be
executed again; nothing else happens. -/
def Obligations.BusyRegisterParks : Prop :=
  ∀ (s : State) (e : Bool) (rd ra rb : SReg) (imm : BitVec 13) (big : BitVec 19) (op : Nat), (rd.toNat, op) ∈ s.focus.busy →
    ∀ p ∈ scalarTable e rd ra rb imm big, ∃ r, (∃ o, (r.toNat, o) ∈ s.focus.busy) ∧
      exec p.1 s = .next (s.setFocus { s.focus.rewind with state := .parked, park := some (.wait (.token r)), cur := .nop false })

/-- What `clz`, `ctz` and `brev` count and move, bit by bit (R68). -/
def Obligations.BitCounts : Prop :=
  ∀ x : Word,
    (x ≠ 0 → leadZeros 64 x.toNat < 64 ∧ x.getLsbD (63 - leadZeros 64 x.toNat) = true) ∧
    (∀ i, 63 - leadZeros 64 x.toNat < i → x ≠ 0 → x.getLsbD i = false) ∧
    (x ≠ 0 → trailZeros 64 0 x.toNat < 64 ∧ x.getLsbD (trailZeros 64 0 x.toNat) = true) ∧
    (∀ i, i < trailZeros 64 0 x.toNat → x.getLsbD i = false) ∧
    (∀ i, i < 64 → (revBits 64 x.toNat).testBit i = x.getLsbD (63 - i)) ∧
    leadZeros 64 0 = 64 ∧ trailZeros 64 0 0 = 64

/-! ### Control transfer (R72 to R76) -/

/-- R72, R73: a branch is taken when its condition holds of the register read as signed; taken, it goes on at its own word plus
four times the displacement, else at the next word. So do direct jumps and calls, always; `call` writes the next word's address to
s62. Each opens a new run, and a jump or call writes nothing to memory (a debugger's step event writes its record, R312). -/
def Obligations.DirectTransferResults : Prop :=
  ∀ (s : State) (ra : SReg) (disp : BitVec 16) (far : BitVec 25),
    (s.waits [ra] [] [] = none → ∀ p ∈ branchTable ra disp, ∃ t, exec p.1 s = .next t ∧
      (p.2 (s.rdS ra).toInt → t.focus.pc = s.focus.pc + disp.signExtend 64 * 4) ∧
      (¬ p.2 (s.rdS ra).toInt → t.focus.pc = s.focus.pc + 4) ∧ (∀ r, t.rdS r = s.rdS r) ∧ s.RunEnds t) ∧
    (∃ t, exec (.jmp far) s = .next t ∧ t.focus.pc = s.focus.pc + far.signExtend 64 * 4 ∧ (∀ r, t.rdS r = s.rdS r) ∧ s.RunEnds t ∧
      (s.watchedSteps = false → t.mem = s.mem)) ∧
    (s.waits [] [62] [] = none → ∃ t, exec (.call far) s = .next t ∧ t.focus.pc = s.focus.pc + far.signExtend 64 * 4 ∧
      t.rdS 62 = s.focus.pc + 4 ∧ (∀ r, r ≠ 62 → t.rdS r = s.rdS r) ∧ s.RunEnds t ∧ (s.watchedSteps = false → t.mem = s.mem))

/-- R74: indirect transfers go on at the register's value, read before the link is written; a target that is not a multiple of 4
traps ALIGN with subcode 2, its record naming the target, and no register changes. -/
def Obligations.IndirectResults : Prop :=
  ∀ (s : State) (ra : SReg), s.waits [ra] [62] [] = none → s.waits [62] [] [] = none →
    ((s.rdS ra).toNat % 4 = 0 →
      (∃ t, exec (.jr ra) s = .next t ∧ t.focus.pc = s.rdS ra ∧ (∀ r, t.rdS r = s.rdS r) ∧ s.RunEnds t) ∧
      (∃ t, exec (.calli ra) s = .next t ∧ t.focus.pc = s.rdS ra ∧ t.rdS 62 = s.focus.pc + 4 ∧
        (∀ r, r ≠ 62 → t.rdS r = s.rdS r) ∧ s.RunEnds t)) ∧
    ((s.rdS ra).toNat % 4 ≠ 0 →
      (∃ t, exec (.jr ra) s = .next t ∧ s.Faulted t (s.recordOf 0x03 2 (s.rdS ra))) ∧
      (∃ t, exec (.calli ra) s = .next t ∧ s.Faulted t (s.recordOf 0x03 2 (s.rdS ra)))) ∧
    ((s.rdS 62).toNat % 4 = 0 →
      ∃ t, exec .ret s = .next t ∧ t.focus.pc = s.rdS 62 ∧ (∀ r, t.rdS r = s.rdS r) ∧ s.RunEnds t) ∧
    ((s.rdS 62).toNat % 4 ≠ 0 → ∃ t, exec .ret s = .next t ∧ s.Faulted t (s.recordOf 0x03 2 (s.rdS 62)))

/-! ### Strand control, special registers and system calls (R36, R78 to R85) -/

/-- R78, R79, R82: `nop` has no effect, `yield` ends the run, and so does `pause` with a count of 0; without a debugger `ebreak`
is a `nop`; `setm` writes MODE, zero-extended. `pause` with another count parks the strand with reason wait until the die's CLOCK
has moved on by it, at most 1,048,576; PAUSE_EXPIRY then lets it go on at the next word, and before that moment leaves it. -/
def Obligations.ControlResults : Prop :=
  (∀ (s : State) (e : Bool) (ra : SReg) (imm : BitVec 13),
    (∃ t, exec (.nop e) s = .next t ∧ t.focus.pc = s.focus.pc + 4 ∧ (∀ r, t.rdS r = s.rdS r)) ∧
    (∃ t, exec .yield s = .next t ∧ t.focus.pc = s.focus.pc + 4 ∧ (∀ r, t.rdS r = s.rdS r) ∧ s.RunEnds t) ∧
    (bit s.crew.debug 0 = false →
      ∃ t, exec (.ebreak e) s = .next t ∧ t.focus.pc = s.focus.pc + 4 ∧ (∀ r, t.rdS r = s.rdS r)) ∧
    (∃ t, exec (.setm e imm) s = .next t ∧ t.focus.mode = imm.zeroExtend 32 ∧ t.focus.pc = s.focus.pc + 4 ∧ (∀ r, t.rdS r = s.rdS r)) ∧
    (s.waits [ra] [] [] = none →
      (s.rdS ra = 0 → ∃ t, exec (.pause ra) s = .next t ∧ t.focus.pc = s.focus.pc + 4 ∧ (∀ r, t.rdS r = s.rdS r) ∧ s.RunEnds t) ∧
      (s.rdS ra ≠ 0 → ∃ t, exec (.pause ra) s = .next t ∧ t.focus.state = .parked ∧
        t.focus.park = some (.wait (.pause ((s.die s.crew.die).clock + min (s.rdS ra).toNat 1048576))) ∧
        t.focus.pc = s.focus.pc ∧ (∀ r, t.rdS r = s.rdS r)))) ∧
  (∀ (s : State) (u at_ : Nat) (x : Strand) (k : Crew), s.focused = false → s.strandOf u = some x → s.crewOf x.crew = some k →
    x.state = .parked → x.park = some (.wait (.pause at_)) → k.preempted = false →
    (at_ ≤ (s.die k.die).clock → ∃ t y, exec (.pauseExpiry u) s = .next t ∧ t.strandOf u = some y ∧ y.state = .ready ∧
      y.pc = x.pc + 4 ∧ y.run = 0 ∧ y.s = x.s) ∧
    ((s.die k.die).clock < at_ → exec (.pauseExpiry u) s = .next s))

/-- R36, R81, R82: what `getsr` reads of every special register, and `getm` of MODE; ENERGY reads the crew's counter, which may have
moved on (by an amount the manual does not fix, log 3), and nothing else of the crew moves; an unlisted number, a write of a
register that may not be written, and a MODE value with a bit above 12 trap ILLEGAL with subcode 4 and change no register.
Choices of the model in it: logs 3, 5, 81. -/
def Obligations.SpecialRegisters : Prop :=
  ∀ (s : State) (e : Bool) (r : SReg) (n : BitVec 6),
    (s.waits [] [r] [] = none →
      (∀ p ∈ srTable s, ∃ t, exec (.getsr e r p.1) s = .next t ∧ t.rdS r = (if r = 0 then (0 : Word) else p.2) ∧
        (∀ q, q ≠ r → t.rdS q = s.rdS q) ∧ t.focus.pc = s.focus.pc + 4) ∧
      (∃ t, exec (.getsr e r 13) s = .next t ∧ t.crew = { s.crew with energy := t.crew.energy } ∧
        t.rdS r = (if r = 0 then (0 : Word) else t.crew.energy) ∧ (∀ q, q ≠ r → t.rdS q = s.rdS q) ∧ t.focus.pc = s.focus.pc + 4) ∧
      (∃ t, exec (.getm e r) s = .next t ∧ t.rdS r = (if r = 0 then (0 : Word) else s.focus.mode.zeroExtend 64) ∧
        (∀ q, q ≠ r → t.rdS q = s.rdS q) ∧ t.focus.pc = s.focus.pc + 4)) ∧
    (21 < n.toNat → ∃ t, exec (.getsr e r n) s = .next t ∧ s.Faulted t (s.recordOf 0x01 4 0)) ∧
    (n ≠ 14 → n ≠ 15 → n ≠ 16 → n ≠ 17 → ∃ t, exec (.setsr e r n) s = .next t ∧ s.Faulted t (s.recordOf 0x01 4 0)) ∧
    (2 ^ 13 ≤ (s.rdS r).toNat → s.waits [r] [] [] = none →
      ∃ t, exec (.setmr e r) s = .next t ∧ s.Faulted t (s.recordOf 0x01 4 0))

/-- R81, R82: LFAULT is only cleared, FFLAGS keeps five bits, PROGRESS and MCERR take the whole value, MODE the low half; the
frame: no scalar register, predicate or live lane changes, nor any of the special registers but the one written. -/
def Obligations.SpecialWrites : Prop :=
  ∀ (s : State) (e : Bool) (ra : SReg), s.waits [ra] [] [] = none →
    (∃ t, exec (.setsr e ra 14) s = .next t ∧ t.focus.pc = s.focus.pc + 4 ∧
      t.focus.lfault = s.focus.lfault &&& s.rdS ra ∧ t.focus.fflags = s.focus.fflags ∧ t.focus.progress = s.focus.progress ∧
      t.focus.mcerr = s.focus.mcerr ∧ t.focus.mode = s.focus.mode ∧ t.focus.s = s.focus.s ∧ t.focus.p = s.focus.p ∧
      t.focus.live = s.focus.live) ∧
    (∃ t, exec (.setsr e ra 15) s = .next t ∧ t.focus.pc = s.focus.pc + 4 ∧
      t.focus.fflags = s.rdS ra &&& 0x1F ∧ t.focus.lfault = s.focus.lfault ∧ t.focus.progress = s.focus.progress ∧
      t.focus.mcerr = s.focus.mcerr ∧ t.focus.mode = s.focus.mode ∧ t.focus.s = s.focus.s ∧ t.focus.p = s.focus.p ∧
      t.focus.live = s.focus.live) ∧
    (∃ t, exec (.setsr e ra 16) s = .next t ∧ t.focus.pc = s.focus.pc + 4 ∧
      t.focus.progress = s.rdS ra ∧ t.focus.lfault = s.focus.lfault ∧ t.focus.fflags = s.focus.fflags ∧
      t.focus.mcerr = s.focus.mcerr ∧ t.focus.mode = s.focus.mode ∧ t.focus.s = s.focus.s ∧ t.focus.p = s.focus.p ∧
      t.focus.live = s.focus.live) ∧
    (∃ t, exec (.setsr e ra 17) s = .next t ∧ t.focus.pc = s.focus.pc + 4 ∧
      t.focus.mcerr = s.rdS ra ∧ t.focus.lfault = s.focus.lfault ∧ t.focus.fflags = s.focus.fflags ∧
      t.focus.progress = s.focus.progress ∧ t.focus.mode = s.focus.mode ∧ t.focus.s = s.focus.s ∧ t.focus.p = s.focus.p ∧
      t.focus.live = s.focus.live) ∧
    ((s.rdS ra).toNat < 2 ^ 13 → ∃ t, exec (.setmr e ra) s = .next t ∧ t.focus.pc = s.focus.pc + 4 ∧
      t.focus.mode = (s.rdS ra).truncate 32 ∧ t.focus.lfault = s.focus.lfault ∧ t.focus.fflags = s.focus.fflags ∧
      t.focus.progress = s.focus.progress ∧ t.focus.mcerr = s.focus.mcerr ∧ t.focus.s = s.focus.s ∧ t.focus.p = s.focus.p ∧
      t.focus.live = s.focus.live)

/-- R29, R33, R80: `acquire` completes at once in a root strand that holds its full allotment (as it does from the start where both
counts come to the same granules of eight), or when its quarter has the registers and
no earlier `acquire` waits there, and the strand then holds the full allotment; otherwise the strand parks with reason acquire. A
remnant traps EJECTED.
Choices of the model in it: log 5. -/
def Obligations.AcquireResults : Prop :=
  ∀ s : State, (s.focus.isRemnant = true → ∃ t, exec .acquire s = .next t ∧ s.Faulted t (s.recordOf 0x0B 1 0)) ∧
    (s.focus.isRemnant = false →
      (s.focus.full = true ∨ (s.crew.hdr.vprologue + 7) / 8 = (s.crew.hdr.vregs + 7) / 8 ∨ s.canGrant = true → s.focused = true →
        ∃ t, exec .acquire s = .next t ∧ s.RunEnds t ∧ t.focus.full = true ∧
          t.focus.pc = s.focus.pc + 4 ∧ (∀ r, t.rdS r = s.rdS r)) ∧
      (s.focus.full = false → (s.crew.hdr.vprologue + 7) / 8 ≠ (s.crew.hdr.vregs + 7) / 8 → s.canGrant = false →
        ∃ t, exec .acquire s = .next t ∧ t.focus.state = .parked ∧ t.focus.park = some .acquire ∧ t.focus.full = false ∧
          (∀ r, t.rdS r = s.rdS r)))

/-- R83, R84: `trap n` with room in the die's trap ring parks the strand with reason trap, and its record is the next of the
ring: its 64 bytes are stored at the ring's base plus 64 times the tail modulo the ring's size, and nothing else in memory changes. With
no room the strand parks and its record waits. The record: caller, PC, grid slot, call number, crew number, and s1 to s6.
Choices of the model in it: logs 7, 16, 32. -/
def Obligations.TrapResults : Prop :=
  (∀ (s : State) (n : BitVec 19), s.focused = true → s.waits [1, 2, 3, 4, 5, 6] [1, 2, 3, 4] [] = none →
    (s.die s.crew.die).ctl.trap.full = false → (s.die s.crew.die).ctl.trapWait = [] →
    ∃ t, exec (.trap n) s = .next t ∧ t.focus.state = .parked ∧ t.focus.cur = .trap n ∧
      t.focus.park = some (.trap (some ((s.die s.crew.die).ctl.trap.tail % 2 ^ (s.die s.crew.die).ctl.trap.log))) ∧
      (t.die s.crew.die).ctl.trap.tail = ((s.die s.crew.die).ctl.trap.tail + 1) % 2 ^ 32 ∧
      (let g := (s.die s.crew.die).ctl.trap
       s.DevWrote t (g.base + 64 * (g.tail % 2 ^ g.log)) (callRecord s.crew s.focus n.toNat)) ∧
      (∀ r, t.rdS r = s.rdS r) ∧ t.focus.pc = s.focus.pc) ∧
  (∀ (s : State) (n : BitVec 19), s.waits [1, 2, 3, 4, 5, 6] [1, 2, 3, 4] [] = none →
    (s.die s.crew.die).ctl.trap.full = true ∨ (s.die s.crew.die).ctl.trapWait ≠ [] →
    ∃ t, exec (.trap n) s = .next t ∧ t.focus.state = .parked ∧ t.focus.cur = .trap n ∧ t.focus.park = some (.trap none) ∧
      (t.die s.crew.die).ctl.trapWait = (s.die s.crew.die).ctl.trapWait ++ [s.focus.uid] ∧
      (t.die s.crew.die).ctl.trap = (s.die s.crew.die).ctl.trap ∧ t.mem = s.mem ∧
      (∀ r, t.rdS r = s.rdS r) ∧ t.focus.pc = s.focus.pc) ∧
  (∀ (c : Crew) (f : Strand) (n : BitVec 19),
    let b := callRecord c f n.toNat
    b.length = 64 ∧ field b 0 8 / 2 ^ 60 = f.idx % 16 ∧ field b 0 8 / 2 ^ 59 % 2 = (if f.isRemnant then 1 else 0) ∧
    field b 0 8 % 2 ^ 55 = f.pc.toNat % 2 ^ 55 / 4 * 4 ∧ field b 8 8 / 2 ^ 59 = c.slot.val ∧
    field b 8 8 / 2 ^ 40 % 2 ^ 19 = n.toNat ∧ field b 8 8 % 2 ^ 40 = c.num % 2 ^ 40 ∧
    ∀ i, 1 ≤ i → i ≤ 6 → field b (8 + 8 * i) 8 = (f.rdS (BitVec.ofNat 6 i)).toNat)

/-- R85, R302: a response with status 0 gives s1 to s4 and resumes the strand at the next word; one with another status ends the
strand's crew with SYSCALL, the status as subcode, its record the next of the fault ring: each of its strands is done, or waits in
EJECT-WAIT for its remnants and its loads (R9, R25, R76), and one that has neither is done; one that names no outstanding record is
ignored and counted.
Choices of the model in it: logs 7, 16, 32. -/
def Obligations.TrapResponses : Prop :=
  (∀ (s : State) (d : DieId) (i : BitVec 32) (v : Resp4) (u : Nat) (x : Strand), s.focused = false →
    (s.die d).ctl.trapOut.find? (fun y => y.1 == i.toNat) = some (i.toNat, u) → s.strandOf u = some x → x.state = .parked →
    x.park = some (.trap (some i.toNat)) → s.away x = false →
    ∃ t y, exec (.trapresp d i 0 v) s = .next t ∧ t.strandOf u = some y ∧ y.state = .ready ∧ y.pc = x.pc + 4 ∧
      y.rdS 1 = v.v1 ∧ y.rdS 2 = v.v2 ∧ y.rdS 3 = v.v3 ∧ y.rdS 4 = v.v4 ∧
      ∀ r, r ≠ 1 → r ≠ 2 → r ≠ 3 → r ≠ 4 → y.rdS r = x.rdS r) ∧
  (∀ (s : State) (d : DieId) (i st : BitVec 32) (v : Resp4), s.focused = false →
    (s.die d).ctl.trapOut.find? (fun y => y.1 == i.toNat) = none →
    ∃ t, exec (.trapresp d i st v) s = .next t ∧ (t.die d).ctl.ignored = (s.die d).ctl.ignored + 1 ∧ t.strands = s.strands) ∧
  (∀ (s : State) (d : DieId) (i st : BitVec 32) (v : Resp4) (u : Nat) (x : Strand) (k : Crew), s.focused = false → st ≠ 0 →
    (s.die d).ctl.trapOut.find? (fun y => y.1 == i.toNat) = some (i.toNat, u) → s.strandOf u = some x → x.state = .parked →
    x.park = some (.trap (some i.toNat)) → s.crewOf x.crew = some k → k.preempted = false → k.die = d → k.ended = none →
    (s.die d).ctl.flt.full = false → (s.die d).ctl.fltWait = [] →
    ∃ t y r, exec (.trapresp d i st v) s = .next t ∧ t.crewOf x.crew = some y ∧ y.ended = some r ∧ r.code = 0x11 ∧
      r.sub = st.setWidth 8 ∧ r.pc = x.unitPc ∧ r.eng = false ∧ (s.arrayOf k = false → y.seq.state = .stopped) ∧
      (∀ z ∈ t.strands, z.crew = x.crew → z.state = .done ∨ z.state = .ejectWait) ∧
      (∀ z ∈ s.strands, z.crew = x.crew → s.strandOf z.uid = some z → z.joins = 0 → z.loading = false →
        ∃ w, t.strandOf z.uid = some w ∧ w.state = .done) ∧
      (t.die d).ctl.flt.tail = ((s.die d).ctl.flt.tail + 1) % 2 ^ 32 ∧
      s.DevWrote t ((s.die d).ctl.flt.base + 32 * ((s.die d).ctl.flt.tail % 2 ^ (s.die d).ctl.flt.log)) r.bytes)

/-! ### The vector unit (R90 to R108, R120 to R124) -/

/-- R95, R96, R97: the integer operations over the guard, each lane from its routed sources, in both operand forms; the frame is
`VecResult`'s. -/
def Obligations.VectorIntResults : Prop :=
  ∀ (s : State) (e : Bool) (vd va vb : VReg) (sb : SReg) (imm : BitVec 11), s.focus.ty.isInt = true →
    let t := s.focus.ty
    let sat := s.focus.sat
    (s.VecReady [(vd.toNat, t.pair), (va.toNat, t.pair), (vb.toNat, t.pair)] [] [] →
      (∀ p ∈ vecTable t sat e vd va vb, ∃ u, exec p.1 s = .next u ∧
        s.VecResult u t.pair vd.toNat s.guardLanes (fun i => p.2 (s.opA t va i) (s.opB t (.vec vb) i)) 0) ∧
      (∃ u, exec (.vmad e vd va vb) s = .next u ∧ s.VecResult u t.pair vd.toNat s.guardLanes
        (fun i => t.narrow sat (t.intVal (s.opA t va i) * t.intVal (s.opB t (.vec vb) i) + t.intVal (s.opC t vd i))) 0)) ∧
    (s.VecReady [(vd.toNat, t.pair), (va.toNat, t.pair)] [sb] [] →
      ∀ p ∈ vecTableS t sat e vd va sb, ∃ u, exec p.1 s = .next u ∧
        s.VecResult u t.pair vd.toNat s.guardLanes (fun i => p.2 (s.opA t va i) (s.opB t (.sca sb) i)) 0) ∧
    (s.VecReady [(vd.toNat, t.pair), (va.toNat, t.pair)] [] [] →
      ∀ p ∈ vecTable1 t sat e vd va imm, ∃ u, exec p.1 s = .next u ∧
        s.VecResult u t.pair vd.toNat s.guardLanes (fun i => p.2 (s.opA t va i)) 0)

/-- R96, R98, R123, R124: moves, select, immediates, packing and lane numbers, under every TYPE (`vlaneid` under the integer
types): `vsel` writes every live lane, `vcompress` packs the selected lanes from lane 0 and clears the rest of the guard,
`vexpand` spreads them, `vins` writes the lowest selected lane of the guard alone.
Choices of the model in it: log 105 (under F4 they carry 8 bits). -/
def Obligations.VectorMoves : Prop :=
  ∀ (s : State) (e : Bool) (vd va vb : VReg) (ra : SReg) (p : PReg) (imm : BitVec 18),
    let t := s.focus.ty
    let sel := lanesOf s.lanes (s.focus.rdP p &&& s.focus.live)
    let d := (vd.toNat, t.pair)
    let a := (va.toNat, t.pair)
    (s.VecReady [d, a, (vb.toNat, t.pair)] [] [] → ∃ u, exec (.vsel e vd va vb) s = .next u ∧
      s.VecResult u t.pair vd.toNat (lanesOf s.lanes s.focus.live)
        (fun i => if bit s.focus.guard i then s.opA t va i else s.opB t (.vec vb) i) 0) ∧
    (s.VecReady [d, a] [] [] →
      (∃ u, exec (.vmov e vd va) s = .next u ∧ s.VecResult u t.pair vd.toNat s.guardLanes (s.opA t va) 0) ∧
      (∃ u, exec (.vcompress e vd va p) s = .next u ∧ s.VecResult u t.pair vd.toNat s.guardLanes
        (fun i => match sel[i]? with
          | some j => s.opA t va j
          | none => 0) 0) ∧
      (∃ u, exec (.vexpand e vd va p) s = .next u ∧
        s.VecResult u t.pair vd.toNat (s.guardLanes.filter (bit (s.focus.rdP p)))
          (fun i => s.srcVal t va (sel.filter (fun k => k < i)).length i) 0)) ∧
    (s.VecReady [d] [] [] →
      (∃ u, exec (.vli e vd imm) s = .next u ∧ s.VecResult u t.pair vd.toNat s.guardLanes (fun _ => wrap t.width imm.toInt) 0) ∧
      (t.isInt = true → ∃ u, exec (.vlaneid e vd) s = .next u ∧ s.VecResult u t.pair vd.toNat s.guardLanes (fun i => i) 0)) ∧
    (s.VecReady [d] [ra] [] →
      (∃ u, exec (.vfill e vd ra) s = .next u ∧
        s.VecResult u t.pair vd.toNat s.guardLanes (fun _ => (s.rdS ra).toNat % 2 ^ t.width) 0) ∧
      (∃ u, exec (.vins e vd ra p) s = .next u ∧
        s.VecResult u t.pair vd.toNat ((s.guardLanes.filter (bit (s.focus.rdP p))).take 1) (fun _ => (s.rdS ra).toNat % 2 ^ t.width) 0))

/-- R92, R99 to R101, R144: the floating-point operations over the guard with the flags they raise into FFLAGS; and what rounding comes
to, in exact numbers and for every format: sum, product and fused product of finite numbers are the exact result rounded once, to the
nearest number of the format in the mode's direction (a tie to the even fraction), with the overflow, the underflow and the flush of
R144; so are quotients and roots; a zero has the sign of R92, infinities and NaNs give what R92 and R99 say; `vfrint` gives the integer of
the mode with the operand's sign, `vfmin` and `vfmax` one of their operands, `vfclass` the bit of its operand's class. -/
def Obligations.VectorFloatResults : Prop :=
  (∀ f ∈ allFormats, ∀ c : Rnd, c.rnd < 4 →
    (∀ (sat neg : Bool) (m : Nat) (e : Int), m ≠ 0 →
      f.Rounds c.rnd sat c.ftz ((if neg then -1 else 1) * (m : ℚ) * 2 ^ e) (f.round c.rnd sat c.ftz neg m e)) ∧
    ∀ (a b d : FVal) (x y z : ℚ), a.rat = some x → b.rat = some y → d.rat = some z →
      (x + y ≠ 0 → f.Rounds c.rnd false c.ftz (x + y) (f.addV c a b)) ∧
      (x * y ≠ 0 → f.Rounds c.rnd false c.ftz (x * y) (f.mulV c a b)) ∧
      (x * y + z ≠ 0 → f.Rounds c.rnd false c.ftz (x * y + z) (f.fmaV c a b d)) ∧
      (x ≠ 0 → y ≠ 0 → f.Rounds c.rnd false c.ftz (x / y) (f.divV c a b)) ∧
      (x + y = 0 → (f.addV c a b).2 = Flags.none ∧
        f.IsZero (if x = 0 ∧ y = 0 ∧ a.sign = b.sign then a.sign else decide (c.rnd = 2)) (f.addV c a b).1) ∧
      (x * y = 0 → (f.mulV c a b).2 = Flags.none ∧ f.IsZero (a.sign != b.sign) (f.mulV c a b).1) ∧
      (x * y + z = 0 → (f.fmaV c a b d).2 = Flags.none ∧
        f.IsZero (if z = 0 ∧ (a.sign != b.sign) = d.sign then d.sign else decide (c.rnd = 2)) (f.fmaV c a b d).1) ∧
      (x = 0 → y ≠ 0 → (f.divV c a b).2 = Flags.none ∧ f.IsZero (a.sign != b.sign) (f.divV c a b).1) ∧
      (x ≠ 0 → y = 0 → (f.divV c a b).2 = { Flags.none with dz := true } ∧
        (f.ieee = true → f.read false (f.divV c a b).1 = .inf (a.sign != b.sign))) ∧
      (x = 0 → y = 0 → f.divV c a b = (f.canon, Flags.invalid))) ∧
  (∀ f ∈ allFormats, ∀ (c : Rnd) (a b d : FVal), c.rnd < 4 →
    let isInf := fun (v : FVal) => ∃ n, v = .inf n
    let isZero := fun (v : FVal) => v.rat = some 0
    let bad := (isInf a ∧ isZero b) ∨ (isZero a ∧ isInf b)
    (a.anyNan b → ∀ r ∈ [f.addV c a b, f.mulV c a b, f.divV c a b], r = (f.canon, nanFlags a b)) ∧
    (bad → f.mulV c a b = (f.canon, Flags.invalid) ∧ f.fmaV c a b d = (f.canon, Flags.invalid)) ∧
    (¬ bad → a.anyNan b ∨ (∃ n, d = .nan n) → f.fmaV c a b d =
      (f.canon, if a = .nan true ∨ b = .nan true ∨ d = .nan true then Flags.invalid else Flags.none)) ∧
    (∀ m n, a = .inf m → b = .inf n → f.divV c a b = (f.canon, Flags.invalid) ∧ (m ≠ n → f.addV c a b = (f.canon, Flags.invalid)) ∧
      (f.ieee = true → (m = n → f.read false (f.addV c a b).1 = .inf m ∧ (f.addV c a b).2 = Flags.none) ∧
        f.read false (f.mulV c a b).1 = .inf (m != n) ∧ (f.mulV c a b).2 = Flags.none)) ∧
    (∀ n y, a = .inf n → b.rat = some y →
      f.IsZero (n != b.sign) (f.divV c b a).1 ∧ (f.divV c b a).2 = Flags.none ∧
      (f.ieee = true → (∀ r ∈ [f.addV c a b, f.addV c b a], f.read false r.1 = .inf n ∧ r.2 = Flags.none) ∧
        ∀ r ∈ [f.divV c a b] ++ (if y = 0 then [] else [f.mulV c a b, f.mulV c b a]), f.read false r.1 = .inf (n != b.sign) ∧ r.2 = Flags.none)) ∧
    (∀ n, a = .nan n → f.sqrtV c a = (f.canon, nanFlags a a) ∧ f.rintV c a = (f.canon, nanFlags a a)) ∧
    (a = .inf true → f.sqrtV c a = (f.canon, Flags.invalid)) ∧
    (f.ieee = true → (a = .inf false → f.read false (f.sqrtV c a).1 = a ∧ (f.sqrtV c a).2 = Flags.none) ∧
      (isInf a → f.read false (f.rintV c a).1 = a ∧ (f.rintV c a).2 = Flags.none))) ∧
  (∀ f ∈ allFormats, ∀ (c : Rnd) (x y : Nat), c.rnd < 4 → x < 2 ^ f.bits → y < 2 ^ f.bits →
    let a := f.read c.ftz x
    let b := f.read c.ftz y
    let under := fun (u v : FVal) => u.Below v ∨ (u.rat = some 0 ∧ v.rat = some 0 ∧ u.sign = true ∧ v.sign = false)
    let r := fun (big : Bool) => f.minmax c.ftz big x y
    (∀ v, a.rat = some v →
      (0 < v → f.RootRounds c.rnd c.ftz v (f.sqrtV c a)) ∧ (v = 0 → (f.sqrtV c a).2 = Flags.none ∧ f.IsZero a.sign (f.sqrtV c a).1) ∧
      (v < 0 → f.sqrtV c a = (f.canon, Flags.invalid)) ∧
      (f.rintV c a).2 = Flags.none ∧ (f.read false (f.rintV c a).1).sign = a.sign ∧
      ∃ i : Int, NearInt c.rnd v i ∧ (f.read false (f.rintV c a).1).rat = some (i : ℚ)) ∧
    (∀ big, (r big).2 = nanFlags a b ∧
      ((∃ n, a = .nan n) → (∃ n, b = .nan n) → (r big).1 = f.canon) ∧
      ((∃ n, a = .nan n) → (¬ ∃ n, b = .nan n) → f.Selects c.ftz y (r big).1) ∧
      ((¬ ∃ n, a = .nan n) → (∃ n, b = .nan n) → f.Selects c.ftz x (r big).1)) ∧
    (¬ a.anyNan b →
      (under b a → f.Selects c.ftz y (r false).1 ∧ f.Selects c.ftz x (r true).1) ∧
      (under a b → f.Selects c.ftz x (r false).1 ∧ f.Selects c.ftz y (r true).1) ∧
      (¬ under a b → ¬ under b a → f.Selects c.ftz x (r false).1 ∧ f.Selects c.ftz x (r true).1)) ∧
    (let k := f.classOf x
     let v := f.read false x
     (v = .nan true → k = 256) ∧ (v = .nan false → k = 512) ∧ (v = .inf true → k = 1) ∧ (v = .inf false → k = 128) ∧
     ∀ q, v.rat = some q → k = (if q = 0 then (if v.sign then 8 else 16) else if |q| < f.tiny then (if q < 0 then 4 else 32)
       else if q < 0 then 2 else 64))) ∧
  ∀ (s : State) (e : Bool) (vd va vb : VReg) (sb : SReg), s.focus.ty.isFp = true →
    let t := s.focus.ty
    let f := s.focus
    let g := s.guardLanes
    (s.VecReady [(vd.toNat, t.pair), (va.toNat, t.pair), (vb.toNat, t.pair)] [] [] →
      (∀ p ∈ fltTable f e vd va vb, ∃ u, exec p.1 s = .next u ∧
        s.VecResult u t.pair vd.toNat g (fun i => (p.2 (s.opA t va i) (s.opB t (.vec vb) i)).1)
          (flagWord g (fun i => p.2 (s.opA t va i) (s.opB t (.vec vb) i)))) ∧
      (∀ p ∈ fmaTable f e vd va vb, ∃ u, exec p.1 s = .next u ∧
        s.VecResult u t.pair vd.toNat g (fun i => (p.2 (s.opA t va i) (s.opB t (.vec vb) i) (s.opC t vd i)).1)
          (flagWord g (fun i => p.2 (s.opA t va i) (s.opB t (.vec vb) i) (s.opC t vd i))))) ∧
    (s.VecReady [(vd.toNat, t.pair), (va.toNat, t.pair)] [sb] [] →
      ∀ p ∈ fltTableS f e vd va sb, ∃ u, exec p.1 s = .next u ∧
        s.VecResult u t.pair vd.toNat g (fun i => (p.2 (s.opA t va i) (s.opB t (.sca sb) i)).1)
          (flagWord g (fun i => p.2 (s.opA t va i) (s.opB t (.sca sb) i)))) ∧
    (s.VecReady [(vd.toNat, t.pair), (va.toNat, t.pair)] [] [] →
      ∀ p ∈ fltTable1 f e vd va, ∃ u, exec p.1 s = .next u ∧
        s.VecResult u t.pair vd.toNat g (fun i => (p.2 (s.opA t va i)).1) (flagWord g (fun i => p.2 (s.opA t va i))))

/-- R92, R102 to R104, R144: `vcvt` reads at the source type's width and writes at the destination's; the log-domain operations run under
TYPE L32 alone, and trap ILLEGAL 5 under any other. What a conversion comes to, in exact numbers: an integer is narrowed to the low bits
or, with SAT, clamped; a number becomes the integer the mode gives, clamped to the range with invalid; a NaN becomes 0; to floating
point it is rounded by R144. What a log-domain operation of finite numbers comes to: `vlmul` and `vldiv` add and subtract L, `vlsqrt`
halves it, `vlpow` multiplies it, `vexp2` takes its operand as L, each rounded half to even and held to the range; `vlog2` gives L
rounded by R144; `vtolog` and `vfromlog` turn a power of two into its exponent and back; and the NaN, invalid and division rows of R104.
Choices of the model in it: logs 87, 113. -/
def Obligations.ConvertAndLogResults : Prop :=
  (∀ (src dst : Ty) (rnd : Nat) (sat ftz : Bool) (x : Nat), rnd < 4 → src ≠ .l32 → dst ≠ .l32 →
    let r := convert src dst rnd sat ftz x
    (src.isInt = true → dst.isInt = true → r.2 = Flags.none ∧
      (sat = false → (r.1 : Int) = src.intVal x % (2 ^ dst.width : Nat)) ∧
      (sat = true → dst.intVal r.1 = max dst.lo (min (src.intVal x) dst.hi))) ∧
    (∀ f, src.isInt = true → dst.fmt = some f →
      (src.intVal x ≠ 0 → f.Rounds rnd sat ftz (src.intVal x : ℚ) r) ∧ (src.intVal x = 0 → r = (0, Flags.none))) ∧
    (∀ g, src.fmt = some g → dst.isInt = true →
      (∀ n, g.read ftz x = .nan n → r = (0, Flags.invalid)) ∧
      (∀ n, g.read ftz x = .inf n → dst.intVal r.1 = (if n then dst.lo else dst.hi) ∧ r.2 = Flags.invalid) ∧
      (∀ v, (g.read ftz x).rat = some v → ∃ i, NearInt rnd v i ∧
        (i < dst.lo → dst.intVal r.1 = dst.lo ∧ r.2 = Flags.invalid) ∧
        (dst.hi < i → dst.intVal r.1 = dst.hi ∧ r.2 = Flags.invalid) ∧
        (dst.lo ≤ i → i ≤ dst.hi → dst.intVal r.1 = i ∧ r.2 = { Flags.none with nx := decide ((i : ℚ) ≠ v) }))) ∧
    (∀ g f, src.fmt = some g → dst.fmt = some f →
      (∀ v, (g.read ftz x).rat = some v → v ≠ 0 → f.Rounds rnd sat ftz v r) ∧
      (∀ n, g.read ftz x = .nan n → r = if f.nan then (f.canon, if n then Flags.invalid else Flags.none) else (0, Flags.invalid)) ∧
      (∀ n, g.read ftz x = .inf n → f.ieee = true → f.read false r.1 = .inf n ∧ r.2 = Flags.none))) ∧
  (∀ (a b : Nat) (ftz : Bool),
    let nan := fun (x : Nat) => x % 2 ^ 31 = 0x40000001
    let inf := fun (x : Nat) => x % 2 ^ 31 = 0x3FFFFFFF
    let zero := fun (x : Nat) => x % 2 ^ 31 = 0x40000000
    let sign := a.testBit 31 != b.testBit 31
    let f := sInt 16 (b % 2 ^ 16)
    (∀ div : Bool,
      (lFin a → lFin b → LRounds sign (if div then lNum a - lNum b else lNum a + lNum b : Int) (vlMulDiv div a b)) ∧
      (nan a ∨ nan b → vlMulDiv div a b = (0x40000001, Flags.none)) ∧
      ((if div then (zero a ∧ zero b) ∨ (inf a ∧ inf b) else (zero a ∧ inf b) ∨ (inf a ∧ zero b)) →
        vlMulDiv div a b = (0x40000001, Flags.invalid)) ∧
      (div = true → lFin a → zero b → vlMulDiv div a b = ((if sign then 2 ^ 31 else 0) + 0x3FFFFFFF, { Flags.none with dz := true }))) ∧
    (lFin a →
      (a.testBit 31 = false → LRounds false (lNum a / 2) (vlSqrt a) ∧
        (lNum a ≠ 0 → fmtF32.Rounds 0 false false (lNum a / 2 ^ 22) (vLog2 a)) ∧ (lNum a = 0 → vLog2 a = (0, Flags.none))) ∧
      (a.testBit 31 = true → vlSqrt a = (0x40000001, Flags.invalid) ∧ vLog2 a = (fmtF32.canon, Flags.invalid)) ∧
      (a.testBit 31 = false ∨ f % 256 = 0 →
        LRounds (a.testBit 31 && decide (f / 256 % 2 = 1)) (lNum a * f / 256) (vlPow a b)) ∧
      (a.testBit 31 = true → f % 256 ≠ 0 → vlPow a b = (0x40000001, Flags.invalid)) ∧
      ∀ k : Int, lNum a = k * 2 ^ 22 → -126 ≤ k → k ≤ 127 →
        (fmtF32.read false (vFromLog ftz a).1).rat = some ((if a.testBit 31 then -1 else 1) * 2 ^ k) ∧ (vFromLog ftz a).2 = Flags.none) ∧
    (∀ v, (fmtF32.read ftz a).rat = some v → LRounds false (v * 2 ^ 22) (vExp2 ftz a)) ∧
    ∀ (n : Bool) (k : Int), (fmtF32.read ftz a).rat = some ((if n then -1 else 1) * 2 ^ k) →
      (vToLog ftz a).1 < 2 ^ 32 ∧ (vToLog ftz a).1.testBit 31 = n ∧ lNum (vToLog ftz a).1 = k * 2 ^ 22 ∧ (vToLog ftz a).2 = Flags.none) ∧
  ∀ (s : State) (e : Bool) (src : Ty) (vd va vb : VReg),
    let t := s.focus.ty
    let g := s.guardLanes
    (src ≠ .l32 → t ≠ .l32 → s.VecReady [(vd.toNat, t.pair), (va.toNat, src.pair)] [] [] →
      ∃ u, exec (.vcvt e src vd va) s = .next u ∧
        s.VecResult u t.pair vd.toNat g (fun i => (convert src t s.focus.rnd s.focus.sat s.focus.ftz (s.opA src va i)).1)
          (flagWord g (fun i => convert src t s.focus.rnd s.focus.sat s.focus.ftz (s.opA src va i)))) ∧
    (t ≠ .l32 → (t.pair = true → vd.toNat % 2 = 0 ∧ va.toNat % 2 = 0 ∧ vb.toNat % 2 = 0) →
      ∀ i ∈ (logTable1 s.focus.ftz e vd va).map Prod.fst ++ (logTable2 e vd va vb).map Prod.fst,
        ∃ u, exec i s = .next u ∧ s.Faulted u (s.recordOf 0x01 5 0)) ∧
    (t = .l32 → s.VecReady [(vd.toNat, false), (va.toNat, false), (vb.toNat, false)] [] [] →
      (∀ p ∈ logTable2 e vd va vb, ∃ u, exec p.1 s = .next u ∧
        s.VecResult u false vd.toNat g (fun i => (p.2 (s.opA t va i) (s.opB t (.vec vb) i)).1)
          (flagWord g (fun i => p.2 (s.opA t va i) (s.opB t (.vec vb) i))))) ∧
    (t = .l32 → s.VecReady [(vd.toNat, false), (va.toNat, false)] [] [] →
      ∀ p ∈ logTable1 s.focus.ftz e vd va, ∃ u, exec p.1 s = .next u ∧
        s.VecResult u false vd.toNat g (fun i => (p.2 (s.opA t va i)).1) (flagWord g (fun i => p.2 (s.opA t va i))))

/-- R16, R105 to R107: compares write the guard's bits of the predicate and keep the others, and floating-point compares raise flags;
predicate operations write the whole predicate, bits at and above LANES zero, whatever MODE and the guard say. What each condition says of two
integers, by its own signedness, and of two floating-point values, −0 being equal to +0 and a NaN to nothing; and when invalid is raised. -/
def Obligations.PredicateResults : Prop :=
  (∀ (w a b : Nat), 0 < w → a < 2 ^ w → b < 2 ^ w → ∀ p ∈ cmpTable w, cmpHolds p.1 w a b = true ↔ p.2 (BitVec.ofNat w a) (BitVec.ofNat w b)) ∧
  (∀ (a b : FVal), ∀ p ∈ fcmpTable, ((fcompare p.1 a b).1 = true ↔ p.2.1 a b) ∧
    (p.2.2 = true → (a.anyNan b → (fcompare p.1 a b).2 = Flags.invalid) ∧ (¬ a.anyNan b → (fcompare p.1 a b).2 = Flags.none)) ∧
    (p.2.2 = false → (fcompare p.1 a b).2 = nanFlags a b)) ∧
  ∀ (s : State) (e : Bool) (c : Cmp) (fc : FCmp) (pd pa pb : PReg) (va vb : VReg) (ra : SReg), pd ≠ 0 →
    let t := s.focus.ty
    let A := fun i => s.opA t va i
    let B := fun i => s.opB t (.vec vb) i
    let r := fun i => fcompare fc (s.focus.fmt.read s.focus.ftz (A i)) (s.focus.fmt.read s.focus.ftz (B i))
    let kept := fun (u : State) => (∀ q, q ≠ pd → u.focus.rdP q = s.focus.rdP q) ∧ u.crew.banks = s.crew.banks ∧
      (∀ q, u.rdS q = s.rdS q) ∧ u.focus.pc = s.focus.pc + 4
    (s.VecReady [(va.toNat, t.pair), (vb.toNat, t.pair)] [] [] →
      (t.isInt = true → ∃ u, exec (.vcmp e c pd va vb) s = .next u ∧ kept u ∧ u.focus.fflags = s.focus.fflags ∧
        ∀ i, bit (u.focus.rdP pd) i = if i ∈ s.guardLanes then cmpHolds c t.width (A i) (B i) else bit (s.focus.rdP pd) i) ∧
      (t.isFp = true → ∃ u, exec (.vfcmp e fc pd va vb) s = .next u ∧ kept u ∧
        u.focus.fflags = s.focus.fflags ||| (flagsOf (s.guardLanes.map (fun i => (i, (r i).2)))).word ∧
        ∀ i, bit (u.focus.rdP pd) i = if i ∈ s.guardLanes then (r i).1 else bit (s.focus.rdP pd) i)) ∧
    (s.waits [] [] [] = none →
      (∀ p ∈ predTable e pd pa pb, ∃ u, exec p.1 s = .next u ∧ kept u ∧ u.focus.fflags = s.focus.fflags ∧
        u.focus.rdP pd = p.2 (s.focus.rdP pa) (s.focus.rdP pb) s.focus.live &&& lowMask s.lanes) ∧
      (∃ u, exec (.pfirst e pd pa) s = .next u ∧ kept u ∧ u.focus.fflags = s.focus.fflags ∧
        ∀ i, bit (u.focus.rdP pd) i = true ↔ i < s.lanes ∧ bit (s.focus.rdP pa &&& s.focus.live) i = true ∧
          ∀ j, j < i → bit (s.focus.rdP pa &&& s.focus.live) j = false)) ∧
    (s.waits [ra] [] [] = none → ∃ u, exec (.pfroms e pd ra) s = .next u ∧ kept u ∧ u.focus.fflags = s.focus.fflags ∧
      u.focus.rdP pd = s.rdS ra &&& lowMask s.lanes)

/-- R120 to R122, R124: reduction and scan fold the guard's lanes in ascending order from the operator's identity, by the steps and the
identities of `redTable`; a scan gives each lane the fold up to it; votes read a
predicate's live bits; `vext` reads the lowest selected live lane, 0 where there is none.
Choices of the model in it: log 103 (under L32 `vext` zero-extends). -/
def Obligations.CrossLaneResults : Prop :=
  ∀ (s : State) (e : Bool) (rd : SReg) (vd va : VReg) (p : PReg),
    let t := s.focus.ty
    let g := s.guardLanes
    let ext := fun (x : Nat) => if t.isI then BitVec.ofInt 64 (sInt t.width x) else BitVec.ofNat 64 (x % 2 ^ t.width)
    (t.isInt = true ∨ t.isFp = true → ∀ o ∈ redTable s.focus, let r := foldLanes o.2.2 (s.opA t va) o.2.1
      (s.VecReady [(va.toNat, t.pair)] [] [rd] → ∃ u, exec (.vred e o.1 rd va) s = .next u ∧
        u.rdS rd = (if rd = 0 then (0 : Word) else ext (r g).1) ∧ (∀ q, q ≠ rd → u.rdS q = s.rdS q) ∧
        u.focus.fflags = s.focus.fflags ||| (r g).2.word ∧ u.crew.banks = s.crew.banks ∧ u.focus.pc = s.focus.pc + 4) ∧
      (s.VecReady [(vd.toNat, t.pair), (va.toNat, t.pair)] [] [] → ∃ u, exec (.vscan e o.1 vd va) s = .next u ∧
        s.VecResult u t.pair vd.toNat g (fun i => (r (g.filter (fun j => j ≤ i))).1) (r g).2.word)) ∧
    (s.waits [] [rd] [] = none → ∀ q ∈ voteTable e rd p, ∃ u, exec q.1 s = .next u ∧
      u.rdS rd = (if rd = 0 then (0 : Word) else q.2 (s.focus.rdP p &&& s.focus.live) s.focus.live) ∧
      (∀ x, x ≠ rd → u.rdS x = s.rdS x) ∧ u.focus.p = s.focus.p ∧ u.focus.pc = s.focus.pc + 4) ∧
    (s.VecReady [(va.toNat, t.pair)] [] [rd] → ∃ u, exec (.vext e rd va p) s = .next u ∧
      u.rdS rd = (if rd = 0 then (0 : Word) else match lanesOf s.lanes (s.focus.rdP p &&& s.focus.live) with
        | j :: _ => extendTy t (s.opA t va j)
        | [] => 0) ∧ (∀ q, q ≠ rd → u.rdS q = s.rdS q) ∧ u.crew.banks = s.crew.banks ∧ u.focus.pc = s.focus.pc + 4)

/-- R6, R33, R56, R108: register-relative moves over the guard, the other register being the one whose number is S[sb] + imm; an index
at or above VREGS traps REGBOUND with subcode 0, its record naming the index; a remnant that does not hold the register traps EJECTED
with subcode 2; a pair that is odd or whose second register is out of bounds traps ILLEGAL with subcode 4; a root strand that does not
hold the register takes its full allotment first, or parks for it.
Choices of the model in it: logs 5, 30, 105. -/
def Obligations.RelativeMoves : Prop :=
  ∀ (s : State) (e : Bool) (v : VReg) (sb : SReg) (imm : BitVec 11), s.crew.hdr.vregs ≤ 128 →
    let t := s.focus.ty
    let x := s.rdS sb + imm.signExtend 64
    let n := x.toNat + (if t.pair = true ∧ x.toNat % 2 = 0 then 1 else 0)
    s.VecReady [(v.toNat, t.pair)] [sb] [] →
    let held := s.holdsFull = true ∨ n < s.crew.hdr.vprologue
    let badPair := t.pair = true ∧ (x.toNat % 2 = 1 ∨ s.crew.hdr.vregs ≤ x.toNat + 1)
    (x.toNat < s.crew.hdr.vregs → ¬ badPair → held →
      s.waits [] [] [(x.toNat, t.pair)] = none →
      (∃ u, exec (.vrdx e v sb imm) s = .next u ∧
        s.VecResult u t.pair v.toNat s.guardLanes (fun i => s.elem t.pair x.toNat i % 2 ^ t.width) 0) ∧
      (∃ u, exec (.vwrx e v sb imm) s = .next u ∧
        s.VecResult u t.pair x.toNat s.guardLanes (fun i => s.elem t.pair v.toNat i % 2 ^ t.width) 0)) ∧
    (s.crew.hdr.vregs ≤ x.toNat →
      (∃ u, exec (.vrdx e v sb imm) s = .next u ∧ s.Faulted u (s.recordOf 0x02 0 x)) ∧
      (∃ u, exec (.vwrx e v sb imm) s = .next u ∧ s.Faulted u (s.recordOf 0x02 0 x))) ∧
    (x.toNat < s.crew.hdr.vregs → ¬ held → s.focus.isRemnant = true →
      (∃ u, exec (.vrdx e v sb imm) s = .next u ∧ s.Faulted u (s.recordOf 0x0B 2 0)) ∧
      (∃ u, exec (.vwrx e v sb imm) s = .next u ∧ s.Faulted u (s.recordOf 0x0B 2 0))) ∧
    (x.toNat < s.crew.hdr.vregs → (held ∨ s.focus.isRemnant = false) → badPair →
      (∃ u, exec (.vrdx e v sb imm) s = .next u ∧ s.Faulted u (s.recordOf 0x01 4 0)) ∧
      (∃ u, exec (.vwrx e v sb imm) s = .next u ∧ s.Faulted u (s.recordOf 0x01 4 0))) ∧
    (x.toNat < s.crew.hdr.vregs → ¬ held → s.focus.isRemnant = false → ¬ badPair → s.focused = true →
      (s.canGrant = true → s.waits [] [] [(x.toNat, t.pair)] = none →
        (∃ u, exec (.vrdx e v sb imm) s = .next u ∧ u.focus.full = true ∧ u.focus.pc = s.focus.pc + 4 ∧
          ∀ i ∈ s.guardLanes, u.elem t.pair v.toNat i = s.elem t.pair x.toNat i % 2 ^ t.width) ∧
        (∃ u, exec (.vwrx e v sb imm) s = .next u ∧ u.focus.full = true ∧ u.focus.pc = s.focus.pc + 4 ∧
          ∀ i ∈ s.guardLanes, u.elem t.pair x.toNat i = s.elem t.pair v.toNat i % 2 ^ t.width)) ∧
      (s.canGrant = false →
        (∃ u, exec (.vrdx e v sb imm) s = .next u ∧ u.focus.state = .parked ∧ u.focus.park = some .acquire ∧ u.crew = s.crew) ∧
        (∃ u, exec (.vwrx e v sb imm) s = .next u ∧ u.focus.state = .parked ∧ u.focus.park = some .acquire ∧ u.crew = s.crew)))

/-- R8, R18, R90, R91, R102: at issue a vector operation that computes, converts, compares or moves within registers traps, in this order,
ILLEGAL 4 for an odd register of a pair, ILLEGAL 5 under a TYPE it does not accept (for the log-domain operations every TYPE but L32),
REGBOUND 1 for a register at or above VREGS or with its pair partner there, its record naming the first such register in the order of the
fields; so do the global vector loads and stores. `vcvt` from L32, and a compare or predicate operation whose destination is p0, trap
ILLEGAL 4.
Choices of the model in it: log 30. -/
def Obligations.VectorTraps : Prop :=
  ∀ (s : State) (e : Bool) (op : RedOp) (vd va vb vo : VReg) (sb : SReg) (q pa pb : PReg) (imm : BitVec 11) (big : BitVec 18)
    (disp : BitVec 9) (sc : BitVec 2) (src : Ty) (c : Cmp) (fc : FCmp),
    let t := s.focus.ty
    let out := fun (v : Nat) (pair : Bool) => decide (s.crew.hdr.vregs ≤ v + (if pair then 1 else 0))
    (∀ p ∈ regTable t s.focus e op vd va vb sb q imm big src c fc,
      ((∃ v ∈ p.2.2, v.2 = true ∧ v.1 % 2 = 1) → ∃ u, exec p.1 s = .next u ∧ s.Faulted u (s.recordOf 0x01 4 0)) ∧
      ((∀ v ∈ p.2.2, v.2 = true → v.1 % 2 = 0) →
        (p.2.1 = false → ∃ u, exec p.1 s = .next u ∧ s.Faulted u (s.recordOf 0x01 5 0)) ∧
        (p.2.1 = true → ∀ v, p.2.2.find? (fun v => out v.1 v.2) = some v →
          ∃ u, exec p.1 s = .next u ∧ s.Faulted u (s.recordOf 0x02 1 (BitVec.ofNat 64 v.1))))) ∧
    (∃ u, exec (.vcvt e .l32 vd va) s = .next u ∧ s.Faulted u (s.recordOf 0x01 4 0)) ∧
    (∀ i ∈ predWriters e c fc 0 pa pb va vb sb, ∃ u, exec i s = .next u ∧ s.Faulted u (s.recordOf 0x01 4 0)) ∧
    (∀ p ∈ vmemTable t e vd sb disp vo sc, s.qualOk (if p.2.1 then .store else .load) = true →
      (t.pair = true → vd.toNat % 2 = 1 → ∃ u, exec p.1 s = .next u ∧ s.Faulted u (s.recordOf 0x01 4 0)) ∧
      (t = .f4 → ∃ u, exec p.1 s = .next u ∧ s.Faulted u (s.recordOf 0x01 5 0)) ∧
      (t ≠ .f4 → (t.pair = false ∨ vd.toNat % 2 = 0) → ∀ v, p.2.2.find? (fun v => out v.1 v.2) = some v →
        ∃ u, exec p.1 s = .next u ∧ s.Faulted u (s.recordOf 0x02 1 (BitVec.ofNat 64 v.1))))

/-- R50, R51, R114: a prefix leaves its word with the unit and goes on to the next word; a `qual` with a scope of 6 or 7 traps
ILLEGAL with subcode 4.
Choices of the model in it: logs 15, 84. -/
def Obligations.PrefixResults : Prop :=
  ∀ (s : State) (a b c : BitVec 8) (seg : Bool) (scope : BitVec 3) (o : Order) (cache : BitVec 2),
    (∃ u, exec (.route a b c seg) s = .next u ∧ u.focus.route = some { a := a, b := b, c := c, seg := seg } ∧
      u.focus.pc = s.focus.pc + 4 ∧ u.focus.unitPc = s.focus.unitPc ∧ u.focus.s = s.focus.s ∧ u.focus.qual = s.focus.qual) ∧
    (scope.toNat ≤ 5 → ∃ u, exec (.qual scope o cache) s = .next u ∧
      u.focus.qual = some { scope := scope, order := o, cache := cache } ∧ u.focus.pc = s.focus.pc + 4 ∧
      u.focus.unitPc = s.focus.unitPc ∧ u.focus.s = s.focus.s ∧ u.focus.route = s.focus.route) ∧
    (6 ≤ scope.toNat → ∃ u, exec (.qual scope o cache) s = .next u ∧ s.Faulted u (s.recordOf 0x01 4 0))

/-! ### Ejection, joining, leaving (R20 to R25, R75, R76) -/

/-- R20 to R22, R75: an `eject` of no lane goes on with 0; of every live lane it takes the branch with 0; with four remnants
already out, or no remnant context free, it goes on with 0; else a remnant is made that has those lanes, a copy of every register
but s63, and stands READY at the target, and the strand goes on without them with 1.
Choices of the model in it: logs 17, 28. -/
def Obligations.EjectResults : Prop :=
  ∀ (s : State) (rd : SReg) (p : PReg) (disp : BitVec 16), s.waits [] [rd] [] = none →
    let m := s.focus.rdP p &&& s.focus.live
    let target := s.focus.pc + disp.signExtend 64 * 4
    (m = 0 ∨ (m ≠ s.focus.live ∧ (s.focus.joins = 4 ∨ s.remnantCtx = none)) → ∃ t, exec (.eject rd p disp) s = .next t ∧
      t.rdS rd = 0 ∧ (∀ r, r ≠ rd → t.rdS r = s.rdS r) ∧ t.focus.live = s.focus.live ∧ t.focus.joins = s.focus.joins ∧
      t.focus.pc = s.focus.pc + 4 ∧ t.strands = s.strands ∧ s.RunEnds t) ∧
    (m ≠ 0 → m = s.focus.live → ∃ t, exec (.eject rd p disp) s = .next t ∧
      t.rdS rd = 0 ∧ (∀ r, r ≠ rd → t.rdS r = s.rdS r) ∧ t.focus.live = s.focus.live ∧ t.focus.joins = s.focus.joins ∧
      t.focus.pc = target ∧ t.strands = s.strands ∧ s.RunEnds t) ∧
    (m ≠ 0 → m ≠ s.focus.live → s.focus.joins ≠ 4 → (∃ k, s.remnantCtx = some k) → s.waits [63] [rd] [] = none → s.completeTo 1 = true →
      s.heldOn s.crew.die s.crew.core = [] → ∃ t x, exec (.eject rd p disp) s = .next t ∧ t.strands = s.strands ++ [x] ∧
        x.live = m ∧ x.pc = target ∧ x.parent = some s.focus.uid ∧ x.state = .ready ∧ x.joins = 0 ∧ x.lfault = 0 ∧
        x.mode = s.focus.mode ∧ x.fflags = s.focus.fflags ∧ x.p = s.focus.p ∧
        x.rdS 63 = s.focus.stklo + BitVec.ofNat 64 ((s.rdS 63 - s.focus.stklo).toNat / 32 * 16) ∧
        (∀ r, r ≠ 63 → x.rdS r = s.rdS r) ∧
        t.focus.live = s.focus.live &&& ~~~m ∧ t.focus.joins = s.focus.joins + 1 ∧ t.focus.stklo = x.rdS 63 ∧
        t.rdS rd = (if rd = 0 then (0 : Word) else 1) ∧ (∀ r, r ≠ rd → t.rdS r = s.rdS r) ∧
        t.focus.pc = s.focus.pc + 4 ∧ s.RunEnds t)

/-- R12, R23 to R25, R76: `join` parks while remnants are out; with none a root strand goes on with the lanes they returned, and a
remnant retires, its parent taking back its lanes, its FFLAGS and its LFAULT. `exit` with remnants out puts the strand in EJECT-WAIT at
once, whatever loads it has outstanding; with none out it is DONE once no load is outstanding, and not before. A remnant's `exit` returns
no lane; its parent's join count falls by one, and its FFLAGS and LFAULT go to the parent.
Choices of the model in it: logs 28, 86. -/
def Obligations.JoinAndExit : Prop :=
  ∀ (s : State),
    (s.focus.joins ≠ 0 → ∃ t, exec .join s = .next t ∧ t.focus.state = .parked ∧ t.focus.park = some .join ∧
      (∀ r, t.rdS r = s.rdS r)) ∧
    (s.focus.joins = 0 → s.focus.isRemnant = false → ∃ t, exec .join s = .next t ∧
      t.focus.live = s.focus.live ||| s.focus.returned ∧ t.focus.returned = 0 ∧ (∀ r, t.rdS r = s.rdS r) ∧
      t.focus.pc = s.focus.pc + 4 ∧ s.RunEnds t) ∧
    (∀ (p : Nat) (y : Strand), s.focused = true → s.focus.uid ≠ 0 → s.focus.joins = 0 → s.focus.parent = some p → p ≠ s.focus.uid →
      s.strandOf p = some y → y.state ≠ .ejectWait → s.focus.mcast = none → s.completeTo 1 = true →
      ∃ t z, exec .join s = .next t ∧ t.focus.state = .done ∧ t.strandOf p = some z ∧
        z.returned = y.returned ||| (s.focus.live ||| s.focus.returned) ∧ z.fflags = y.fflags ||| s.focus.fflags ∧
        z.lfault = y.lfault ||| s.focus.lfault ∧ z.joins = y.joins - 1) ∧
    (s.focus.isRemnant = false ∨ s.focus.mcast = none →
      (s.focus.joins ≠ 0 → ∃ t, exec .exit s = .next t ∧ t.focus.state = .ejectWait ∧ t.focus.park = none ∧ t.focus.joins = s.focus.joins) ∧
      (s.focus.joins = 0 → s.focus.remotes.any (fun m => m.load) = true → ∃ t, exec .exit s = .next t ∧ t.focus.uid = s.focus.uid ∧
        t.focus.state ≠ .done ∧ t.focus.remotes = s.focus.remotes) ∧
      (s.focused = true → s.focus.uid ≠ 0 → s.focus.joins = 0 → s.focus.remotes.any (fun m => m.load) = false →
        ∃ t, exec .exit s = .next t ∧ t.focus.uid = s.focus.uid ∧ t.focus.state = .done)) ∧
    (∀ (p : Nat) (y : Strand), s.focused = true → s.focus.uid ≠ 0 → s.focus.joins = 0 → s.focus.parent = some p → p ≠ s.focus.uid →
      s.strandOf p = some y → y.state ≠ .ejectWait → s.focus.mcast = none → s.focus.remotes.any (fun m => m.load) = false →
      ∃ t z, exec .exit s = .next t ∧ t.focus.state = .done ∧ t.strandOf p = some z ∧ z.returned = y.returned ∧
        z.fflags = y.fflags ||| s.focus.fflags ∧ z.lfault = y.lfault ||| s.focus.lfault ∧ z.joins = y.joins - 1)

/-! ### Faults (R113, R299 to R303, R312 to R314) -/

/-- R299, R301, R302: taking a fault parks the strand at the first word of its unit with every register as it was; the 32 bytes of
its record are stored in the die's fault ring at its tail, which moves on, or, while the ring is full or an older record waits, the
record waits. Nothing else in memory changes. The record's fields stand where R301 puts them.
Choices of the model in it: logs 7, 32. -/
def Obligations.TakingAFault : Prop :=
  ∀ (s : State) (r : FaultRec),
    let t := s.takeFault r
    let c := (s.die s.crew.die).ctl
    let at_ := c.flt.base + 32 * (c.flt.tail % 2 ^ c.flt.log)
    let b := r.bytes
    s.Faulted t r ∧
    (c.flt.full = false → c.fltWait = [] →
      (t.die s.crew.die).ctl.flt = { c.flt with tail := (c.flt.tail + 1) % 2 ^ 32 } ∧
      s.DevWrote t at_ b) ∧
    (c.flt.full = true ∨ c.fltWait ≠ [] → (t.die s.crew.die).ctl.fltWait = c.fltWait ++ [r] ∧ t.mem = s.mem ∧ t.homes = s.homes) ∧
    b.length = 32 ∧ field b 0 1 = r.code.toNat ∧ field b 1 1 = r.sub.toNat ∧ field b 2 1 = r.lane.toNat ∧
    field b 3 1 = r.strand.toNat ∧
    field b 4 4 = (if r.defer then 1 else 0) + (if r.remn then 2 else 0) + (if r.eng then 4 else 0) ∧
    field b 8 8 = r.pc.toNat ∧ field b 16 8 = r.addr.toNat ∧
    field b 24 8 / 2 ^ 59 = r.grid % 32 ∧ field b 24 8 % 2 ^ 59 = r.crew % 2 ^ 40

/-- R113, R303, R314: STRAND_RESUME lets a strand parked with a resumable fault begin a new run where it stands, after DEBUG
subcode 3 or 4 without a breakpoint check for one unit; a strand with any other fault stays. -/
def Obligations.ResumeResults : Prop :=
  ∀ (s : State) (u : Nat) (x : Strand) (k : Crew) (r : FaultRec) (b : Bool), s.focused = false → s.strandOf u = some x →
    x.state = .parked → x.park = some .fault → x.faulted = some (r, b) → s.crewOf x.crew = some k → k.preempted = false →
    (s.die k.die).ctl.fltWait.contains r = false →
    ((r.code = 0x05 ∨ r.code = 0x06 ∨ r.code = 0x07 ∨ (r.code = 0x08 ∧ r.sub = 1) ∨ r.code = 0x0D ∨ r.code = 0x0F) →
      ∃ t y, exec (.strandResume u) s = .next t ∧ t.strandOf u = some y ∧ y.state = .ready ∧ y.run = 0 ∧ y.pc = x.pc ∧
        y.s = x.s ∧ y.faulted = none ∧ y.skipBrk = decide (r.code = 0x0D ∧ (r.sub = 3 ∨ r.sub = 4)) ∧ t.mem = s.mem) ∧
    (¬ (r.code = 0x05 ∨ r.code = 0x06 ∨ r.code = 0x07 ∨ (r.code = 0x08 ∧ r.sub = 1) ∨ r.code = 0x0D ∨ r.code = 0x0F) →
      exec (.strandResume u) s = .next s)

/-- R79, R312: under a debugger `ebreak` traps DEBUG with subcode 1 at its own word, and the strand then stands at the next word; in
a stepped kernel under a debugger a completed unit is followed by DEBUG subcode 2, its record with the next unit's address as PC,
the completed unit's as ADDRESS, and as LANE that of the guard at issue; shown of `nop` and of a scalar addition, whose result stands. -/
def Obligations.DebugEvents : Prop :=
  ∀ (s : State) (e : Bool) (rd ra rb : SReg),
    (bit s.crew.debug 0 = true → ∃ t, exec (.ebreak e) s = .next t ∧ t.focus.state = .parked ∧ t.focus.park = some .fault ∧
      t.focus.faulted = some (s.recordOf 0x0D 1 0, true) ∧ t.focus.pc = s.focus.pc + 4 ∧ (∀ r, t.rdS r = s.rdS r)) ∧
    (s.watchedSteps = true →
      let r := s.faultRec 0x0D 2 s.focus.unitLane (s.focus.pc + 4) s.focus.unitPc false
      (∃ t, exec (.nop e) s = .next t ∧ t.focus.state = .parked ∧ t.focus.park = some .fault ∧ t.focus.faulted = some (r, true) ∧
        t.focus.pc = s.focus.pc + 4) ∧
      (s.waits [ra, rb] [rd] [] = none → ∃ t, exec (.add e rd ra rb) s = .next t ∧ t.focus.state = .parked ∧
        t.focus.faulted = some (r, true) ∧ t.focus.pc = s.focus.pc + 4 ∧
        t.rdS rd = (if rd = 0 then (0 : Word) else s.rdS ra + s.rdS rb)))

/-! ### Ordering and memory (R86, R109, R126 to R138, R226 to R240) -/

/-- R234, R236: a `fence` with release waits until every earlier access is complete to its scope (where the core still holds stores, they
go to the die cache first, R222); an acquire at die scope or wider
empties the core's L1; a bad scope or order traps ILLEGAL with subcode 4.
Choices of the model in it: logs 13, 28. -/
def Obligations.FenceResults : Prop :=
  ∀ (s : State) (e : Bool) (scope : BitVec 3) (o : Order), (o.hasRel = true → s.heldOn s.crew.die s.crew.core = []) →
    let ok := (o.hasRel = true → s.startRelease.completeTo scope.toNat = true ∧
        (scope.toNat = 5 → s.deferredStore = none ∧ s.focus.mcast = none)) ∧
      (o.hasRel = false → s.focus.remotes.any (fun m => m.reads) = false)
    (scope.toNat ≤ 5 → o ≠ .rlx → ok → ∃ t, exec (.fence e scope o) s = .next t ∧ t.focus.pc = s.focus.pc + 4 ∧
      (∀ r, t.rdS r = s.rdS r) ∧ (∀ a, s.watchedSteps = false → t.memByte a = s.memByte a) ∧
      (o.hasAcq = true → 2 ≤ scope.toNat → (t.core s.crew.die s.crew.core).l1 = []) ∧
      (o.hasAcq = false ∨ scope.toNat < 2 → (t.core s.crew.die s.crew.core).l1 = (s.core s.crew.die s.crew.core).l1)) ∧
    (scope.toNat ≤ 5 → o.hasRel = true → s.startRelease.completeTo scope.toNat = false →
      ∃ t, exec (.fence e scope o) s = .next t ∧ t.focus.state = .parked ∧ t.focus.park = some (.wait .fence) ∧
        (∀ r, t.rdS r = s.rdS r)) ∧
    ((5 < scope.toNat ∨ o = .rlx) → ∃ t, exec (.fence e scope o) s = .next t ∧ s.Faulted t (s.recordOf 0x01 4 0))

/-- R86, R112, R126, R127, R222, R253, R284, R287: a scalar load of this package gives its register the loaded value, extended; `v` is what
the access reads: the bytes of the core's L1 copy where that serves it, else those that its core or base die holds as stores, else the die
cache's; where the die cache lacks the sector it asks for it, and the unit is not ready yet (log 95). An address that is not canonical or not
aligned, a translation that fails, a missing permission, a die that may not be reached and a key that is not there trap, in this order, at
lane 0, and no register changes. A scalar
store of this package goes to the die cache or the home, behind a release where it has one, not before the strand's remote loads have
returned, nor before the dirty bit of its page is set, for which it parks. An access of a strand whose earlier stores its core still holds parks.
Choices of the model in it: logs 11, 28, 33, 98. -/
def Obligations.ScalarMemory : Prop :=
  (∀ (s : State) (l1 : Bool) (n : Nat) (el : Elem), n ≤ 8 → el.pa % 16 + n ≤ 16 →
    let d := s.crew.die
    let c := s.crew.core
    let sec := el.pa / 16
    let byte := fun (v : Word) (j : Nat) => (v >>> (8 * j)).setWidth 8
    let h := s.holdOf (.die d) sec
    (∀ x, look el.lane s.focus.got = none → s.hstPending sec = false → ptePlace el.leaf.pte ≠ 3 → s.l1Serves (ptePlace el.leaf.pte) = true →
      s.l1Copy d c sec (sectorMask (el.pa % 16) n) = some x → ∃ v, s.loadLocal true n el = (s, some v) ∧
        ∀ j, j < n → byte v j = sectorByte x.data (el.pa % 16 + j)) ∧
    (s.ReadsDie l1 n el →
      ((∀ j, j < n → ∃ b, s.SeesByte d c (el.pa + j) b) → ∃ t v, s.loadLocal l1 n el = (t, some v) ∧
        ∀ j b, j < n → s.SeesByte d c (el.pa + j) b → byte v j = b) ∧
      (h.count = 0 ∨ h.known = false → (∃ j, j < n ∧ (∀ x ∈ s.heldOn d c, x.2.sec = sec → x.2.mask.getLsbD (el.pa % 16 + j) = false) ∧
          ∀ x ∈ s.pendings d, x.sec = sec → x.mask.getLsbD (el.pa % 16 + j) = false) →
        ∃ t w, s.loadLocal l1 n el = (t, none) ∧ (t.cache (.die d)).reqs.any (fun r => r.sec == sec) = true ∧
          look sec t.focus.wants = some w ∧ ∀ j, j < n → w.mask.getLsbD (el.pa % 16 + j) = true))) ∧
  ∀ (s u w : State) (e : Bool) (size : BitVec 2) (sign : Bool) (rd sb : SReg) (imm : BitVec 9) (el : Elem) (v : Word),
    let n := 2 ^ size.toNat
    let bad := fun (i : Instr) (code sub : Nat) => ∃ t, exec i s = .next t ∧ s.Faulted t
      (s.faultRec code sub 0 s.focus.unitPc (s.rdS sb + imm.signExtend 64 * BitVec.ofNat 64 (2 ^ size.toNat)) false)
    let a := s.rdS sb + imm.signExtend 64 * BitVec.ofNat 64 n
    (¬ (sign = true ∧ size = 3) → s.qualOk .load = true → s.waits [sb] [rd] [] = none → s.MemOpen s →
      (s.overwrite [rd]).Passes .load n [(0, a.toNat)] u [el] → pteFab el.leaf.pte = false → u.loadLocal true n el = (w, some v) →
      ∃ t, exec (.sld e size sign false rd sb imm) s = .next t ∧
        t.rdS rd = (if rd = 0 then (0 : Word) else if sign then BitVec.ofInt 64 (sInt (8 * n) v.toNat)
          else BitVec.ofNat 64 (v.toNat % 2 ^ (8 * n))) ∧
        (∀ r, r ≠ rd → t.rdS r = s.rdS r) ∧ t.focus.pc = s.focus.pc + 4) ∧
    (¬ (sign = true ∧ size = 3) → s.qualOk .load = true → s.waits [sb] [rd] [] = none → s.MemOpen s →
      (s.overwrite [rd]).Passes .load n [(0, a.toNat)] u [el] → pteFab el.leaf.pte = false → u.loadLocal true n el = (w, none) →
      ∃ t, exec (.sld e size sign false rd sb imm) s = .next t ∧ t.focus.state = .issuing ∧ t.focus.stalled = true ∧
        t.focus.pc = s.focus.unitPc ∧ (∀ r, t.rdS r = s.rdS r)) ∧
    (look 0 s.focus.checked = none →
      (¬ (sign = true ∧ size = 3) → s.qualOk .load = true → s.waits [sb] [rd] [] = none → s.MemOpen s →
        (s.overwrite [rd]).AccessTraps .load n a.toNat (bad (.sld e size sign false rd sb imm))) ∧
      ∀ m, s.qualOk .store = true → s.waits [sb, rd] [] [] = none → s.focus.got = [] → s.WriteOpen m →
        m.AccessTraps .store n a.toNat (bad (.sst e size false rd sb imm))) ∧
    (∀ m, s.qualOk .store = true → s.waits [sb, rd] [] [] = none → s.focus.got = [] → s.WriteOpen m →
      m.Passes .store n [(0, a.toNat)] u [el] → pteFab el.leaf.pte = false → u.storeStalls [el] = false →
      ∀ x b, u.markAll u.crew.die [el.leaf] = (x, b) →
        (b = true → exec (.sst e size false rd sb imm) s =
          .next (((x.storeLocal n el ((s.rdS rd).toNat % 2 ^ (8 * n))).touch [el]).finish e)) ∧
        (b = false → ∃ t, exec (.sst e size false rd sb imm) s = .next t ∧ t.focus.state = .parked ∧
          t.focus.park = some (.wait .pending))) ∧
    (s.qualOk .store = true → s.waits [sb, rd] [] [] = none → s.focus.got = [] → s.focus.remotes.any (fun m => m.reads) = true →
      ∃ t, exec (.sst e size false rd sb imm) s = .next t ∧ t.focus.state = .parked ∧ t.focus.park = some .remoteLoad ∧ t.mem = s.mem) ∧
    (s.acqOutstanding = false → s.drainMine.focus.heldSt ≠ [] →
      (¬ (sign = true ∧ size = 3) → s.qualOk .load = true → s.waits [sb] [rd] [] = none →
        ∃ t, exec (.sld e size sign false rd sb imm) s = .next t ∧ t.focus.state = .parked ∧ t.focus.park = some (.wait .pending)) ∧
      (s.qualOk .store = true → s.waits [sb, rd] [] [] = none → s.focus.remotes.any (fun m => m.reads) = false →
        ∃ t, exec (.sst e size false rd sb imm) s = .next t ∧ t.focus.state = .parked ∧ t.focus.park = some (.wait .pending)))

/-- R127, R128, R203, R220, R222, R223, R252: where a store inside this package goes. Below PLACE 3, with no earlier store held by the
core, a sector the die cache holds whole, with no pending entry of its own and none of its partner's that it must follow (one the die has
read), takes the bytes and becomes dirty, and at PLACE 2 or with the
streaming hint its tokens then go to the home with the data; an entry of the die's own takes the bytes, keeping the hint; else a new entry
holds them where the buffer has room; a store that finds no room, or another store held before it, or an entry of its own that is
performed before one of the partner's that it must follow, is held by the core. In no case does a byte of memory itself change, nor any
holding of another sector. At PLACE 3 the bytes go to the home.
The L1 copy of the sector on the core takes the bytes.
Choices of the model in it: logs 27 (an entry of its own that comes before one of the partner's), 33. -/
def Obligations.StoreGoesWhere : Prop :=
  ∀ (s : State) (size : Nat) (el : Elem) (v : Nat),
    let t := s.storeLocal size el v
    let d := s.crew.die
    let sec := el.pa / 16
    let mask := sectorMask (el.pa % 16) size
    let data := sectorPlace (el.pa % 16) size (BitVec.ofNat 64 v)
    let place := ptePlace el.leaf.pte
    let st := s.hintSt || decide (place = 2)
    let first := s.heldOn d s.crew.core = []
    (∀ a, t.memByte a = s.memByte a) ∧ (∀ r, t.rdS r = s.rdS r) ∧
    (∀ c ∈ (s.core d s.crew.core).l1, c.sec = sec → ∃ y ∈ (t.core d s.crew.core).l1, y.sec = sec ∧ y.have_ = c.have_ ∧
      y.data = mergeSector (mask &&& c.have_) data c.data) ∧
    (place ≠ 3 → first → s.pendOf d sec = none → s.partnerSeen d sec = false → s.ownsAll d sec = true → st = true →
      (s.holdOf (.die d) sec).own = true → (s.die d).cache.reqs.any (fun r => r.sec == sec && r.x) = false →
      (s.die d).cache.activeFor sec = none →
      (t.holdOf (.die d) sec).count = 0 ∧ (∀ x, x ≠ sec → (t.die d).cache.hold x = (s.die d).cache.hold x) ∧ (t.die d).pend = (s.die d).pend ∧
      ∃ f ∈ t.net, f.dst = s.homeHolder sec ∧ ∃ m p, f.msg = .tok m p ∧ m.sec = sec ∧ m.count = 16 ∧ m.own = true ∧ m.dirty = true ∧
        m.data = some (mergeSector mask data (s.holdOf (.die d) sec).data)) ∧
    (place ≠ 3 → first → s.pendOf d sec = none → s.partnerSeen d sec = false → s.ownsAll d sec = true → st = false →
      (t.holdOf (.die d) sec).dirty = true ∧ (t.holdOf (.die d) sec).data = mergeSector mask data (s.holdOf (.die d) sec).data ∧
      (∀ x, x ≠ sec → (t.die d).cache.hold x = (s.die d).cache.hold x) ∧ (t.die d).pend = (s.die d).pend) ∧
    (place ≠ 3 → first → s.pendOf d sec = none → (s.ownsAll d sec = false ∨ s.partnerSeen d sec = true) →
      (s.die d).pend.length < 128 →
      ∃ x, (t.die d).pend = (s.die d).pend ++ [x] ∧ x.sec = sec ∧ x.mask = mask ∧ x.data = data ∧ x.by_ = [s.focus.uid] ∧
        x.grid = [s.crew.slot.val] ∧ x.st = st ∧ x.pin = decide (place = 1) ∧ x.seen = false ∧ (t.die d).cache.holds = (s.die d).cache.holds) ∧
    (∀ x, place ≠ 3 → first → s.pendOf d sec = some x → (∀ b, s.pendOf (partner d) sec = some b → b.seq ≤ x.seq ∨ b.seen = false) →
      ∃ y, y ∈ (t.die d).pend ∧ y.sec = sec ∧ y.seq = x.seq ∧
      y.mask = x.mask ||| mask ∧ y.data = mergeSector mask data x.data ∧ y.st = st ∧ (t.die d).cache.holds = (s.die d).cache.holds) ∧
    (place ≠ 3 → (¬ first ∨ s.storeFits d sec = false) → (t.die d).pend = (s.die d).pend ∧ (t.die d).cache.holds = (s.die d).cache.holds ∧
      ∃ h : HeldStore, t.focus.heldSt = s.focus.heldSt ++ [h] ∧ h.sec = sec ∧ h.mask = mask ∧ h.data = data ∧ h.st = st ∧
        h.pin = decide (place = 1)) ∧
    (place = 3 → ∃ n,
      t.net = s.net ++ [⟨.home (s.homeOf (16 * sec)), .hst { src := .die d n, sec := sec, mask := mask, data := data }, s.time⟩] ∧
      t.focus.hstOut = s.focus.hstOut ++ [(n, sec)])

/-- R86, R129, R301: the scratchpad forms of `sld` and `sst`; an address out of range traps ADDR with subcode 1 and a misaligned one
ALIGN with subcode 1, at lane 0 with the address, for either. The store changes the bytes it names and no other of the scratchpad, and
no byte of memory. -/
def Obligations.ScalarScratchpad : Prop :=
  ∀ (s m : State) (e : Bool) (size : BitVec 2) (sign : Bool) (rd sb : SReg) (imm : BitVec 9),
    let n := 2 ^ size.toNat
    let a := (s.rdS sb + imm.signExtend 64 * BitVec.ofNat 64 n).toNat
    let bad := fun (code : Nat) => s.faultRec code 1 0 s.focus.unitPc (BitVec.ofNat 64 a) false
    (¬ (sign = true ∧ size = 3) → s.qualOk .spLoad = true → s.waits [sb] [rd] [] = none → s.MemOpen s →
      (a + n ≤ s.crew.hdr.scratch → a % n = 0 → ∃ t, exec (.sld e size sign true rd sb imm) s = .next t ∧
        t.rdS rd = (if rd = 0 then (0 : Word) else if sign then BitVec.ofInt 64 (sInt (8 * n) (s.crew.spRead a n))
          else BitVec.ofNat 64 (s.crew.spRead a n)) ∧
        (∀ r, r ≠ rd → t.rdS r = s.rdS r) ∧ t.crew.spad = s.crew.spad ∧ t.focus.pc = s.focus.pc + 4) ∧
      (s.crew.hdr.scratch < a + n → ∃ t, exec (.sld e size sign true rd sb imm) s = .next t ∧ s.Faulted t (bad 0x04)) ∧
      (a + n ≤ s.crew.hdr.scratch → a % n ≠ 0 → ∃ t, exec (.sld e size sign true rd sb imm) s = .next t ∧ s.Faulted t (bad 0x03))) ∧
    (s.qualOk .spStore = true → s.waits [sb, rd] [] [] = none → s.WriteOpen m →
      (s.focus.state = .issuing → a + n ≤ s.crew.hdr.scratch → a % n = 0 →
        ∃ t, exec (.sst e size true rd sb imm) s = .next t ∧
          (∀ x, t.crew.spByte x = if a ≤ x ∧ x < a + n then BitVec.ofNat 8 ((s.rdS rd).toNat / 2 ^ (8 * (x - a))) else s.crew.spByte x) ∧
          (∀ r, t.rdS r = s.rdS r) ∧ t.focus.pc = s.focus.pc + 4 ∧ (s.watchedSteps = false → t.mem = s.mem ∧ t.dies = m.dies)) ∧
      (s.crew.hdr.scratch < a + n → ∃ t, exec (.sst e size true rd sb imm) s = .next t ∧ s.Faulted t (bad 0x04)) ∧
      (a + n ≤ s.crew.hdr.scratch → a % n ≠ 0 → ∃ t, exec (.sst e size true rd sb imm) s = .next t ∧ s.Faulted t (bad 0x03)))

/-- R109, R110, R112, R126, R127, R135, R136, R253, R287: a global vector load of this package gives every lane of the guard the value read
at its address; lanes that name one address share one access (`reps`), and every other lane and register stands. Where the die cache holds
every sector and nothing newer is on its way, those values are its bytes. The first element that fails a check of R126 traps, its lane and
address in the record, and no register changes.
Choices of the model in it: log 95. -/
def Obligations.VectorLoads : Prop :=
  ∀ (s u w : State) (e : Bool) (vd : VReg) (sb : SReg) (imm : BitVec 9) (vo : VReg) (sc : BitVec 2) (es : List Elem)
    (vs : List (Nat × Word)),
    let t := s.focus.ty
    t ≠ .f4 → s.qualOk .load = true → s.MemOpen s →
    ((∀ x ∈ es, s.ReadsDie true t.esize x ∧ s.l1Copy s.crew.die s.crew.core (x.pa / 16) 0 = none ∧ ptePlace x.leaf.pte < 2 ∧
        x.pa % 16 + t.esize ≤ 16 ∧ (s.holdOf (.die s.crew.die) (x.pa / 16)).count ≠ 0 ∧
        (s.holdOf (.die s.crew.die) (x.pa / 16)).known = true ∧ (s.pendings s.crew.die).any (fun y => y.sec == x.pa / 16) = false ∧
        (s.heldOn s.crew.die s.crew.core).any (fun y => y.2.sec == x.pa / 16) = false) → s.hintSt = false →
      ∃ y, s.loadAll true t.esize es = (y, es.map (fun x => (x.lane,
        sectorTake (s.holdOf (.die s.crew.die) (x.pa / 16)).data (x.pa % 16) t.esize)), true)) ∧
    ∀ p ∈ loadForms e vd sb imm vo sc s, s.VecReady ((vd.toNat, t.pair) :: p.2.1) [sb] [] →
      let reps := distinct (s.guardLanes.map (fun i => (i, (p.2.2 i).toNat))) []
      (∀ pre x post, reps = pre ++ x :: post → look x.1 s.focus.checked = none → s.checkElems .load t.esize pre = (u, es, none) →
        u.AccessTraps .load t.esize x.2 (fun code sub => ∃ y, exec p.1 s = .next y ∧
          s.Faulted y (s.faultRec code sub (BitVec.ofNat 8 x.1) s.focus.unitPc (BitVec.ofNat 64 x.2) false))) ∧
      (s.Passes .load t.esize reps u es → fabElems es = [] → u.loadAll true t.esize es = (w, vs, true) →
      ∃ x, exec p.1 s = .next x ∧ (∀ r, x.rdS r = s.rdS r) ∧ x.focus.pc = s.focus.pc + 4 ∧
        (∀ i ∈ s.guardLanes, ∀ r ∈ reps, r.2 = (p.2.2 i).toNat → ∀ v, look r.1 vs = some v →
          x.elem t.pair vd.toNat i = v.toNat % 2 ^ (if t.pair then 64 else 32)) ∧
        (∀ v i, i ∉ s.guardLanes ∨ (v ≠ vd.toNat ∧ (t.pair = false ∨ v ≠ vd.toNat + 1)) → x.rdV v i = s.rdV v i))

/-- R109, R111, R135 to R137: a global vector store of this package performs its elements in lane order: `vst` each guarded lane at
its address; `vstx` of those that name one address only the highest; `vstc` the guarded lanes from PROGRESS on, one after the other,
and PROGRESS is then 0. A store waits, parked, until the dirty bits of its pages are set. The first element of a `vst`, or the first of all
of another store, that fails a check of R126 traps with its lane and address, and no register changes (R112, R126, R287); where elements of a
`vstc` come before it they are performed, and PROGRESS counts up to it (R111).
Choices of the model in it: log 95. -/
def Obligations.VectorStores : Prop :=
  ∀ (s m u : State) (e : Bool) (vd : VReg) (sb : SReg) (imm : BitVec 9) (vo : VReg) (sc : BitVec 2) (es : List Elem),
    let t := s.focus.ty
    let run := fun (x : State) (l : List Elem) => (l.foldl (fun x el => x.storeElem t.esize el (s.storeData vd el.lane)) x).touch es
    let done := fun (i : Instr) (l : List Elem) (fin : State → State) => u.storeStalls l = false →
      ∀ x b, u.markAll u.crew.die (l.map (fun el => el.leaf)) = (x, b) →
        (b = true → exec i s = .next ((fin (run x l)).finish e)) ∧
        (b = false → ∃ y, exec i s = .next y ∧ y.focus.state = .parked ∧ y.focus.park = some (.wait .pending))
    let last := es.filter (fun el => (lastWins es).contains el)
    let at_ := fun (i : Instr) (x : Nat × Nat) (code sub : Nat) => ∃ y, exec i s = .next y ∧
      s.Faulted y (s.faultRec code sub (BitVec.ofNat 8 x.1) s.focus.unitPc (BitVec.ofNat 64 x.2) false) ∧ y.focus.progress = s.focus.progress
    t ≠ .f4 → s.qualOk .store = true → s.WriteOpen m → s.focus.got = [] → es.all (fun el => !pteFab el.leaf.pte) = true →
    (s.VecReady [(vd.toNat, t.pair)] [sb] [] → let xs := s.guardLanes.map (fun i => (i, (s.unitEa sb imm i).toNat))
      (∀ pre x post, xs = pre ++ x :: post → look x.1 s.focus.checked = none → m.checkElems .store t.esize pre = (u, es, none) →
        u.AccessTraps .store t.esize x.2 (at_ (.vst e vd sb imm) x)) ∧
      (m.Passes .store t.esize xs u es → done (.vst e vd sb imm) es id)) ∧
    (s.VecReady [(vd.toNat, t.pair), (vo.toNat, false)] [sb] [] →
      let xs := s.guardLanes.map (fun i => (i, (s.scaledEa sb vo sc i).toNat))
      (∀ x rest, xs = x :: rest → look x.1 s.focus.checked = none → m.AccessTraps .store t.esize x.2 (at_ (.vstx e vd sb vo sc) x)) ∧
      (m.Passes .store t.esize xs u es → done (.vstx e vd sb vo sc) last id)) ∧
    (s.VecReady [(vd.toNat, t.pair)] [sb] [] →
      let k := s.focus.progress.toNat
      let base := s.unitBase sb imm + BitVec.ofNat 64 (k * t.esize)
      (s.guardLanes.length ≤ k → ∃ x, exec (.vstc e vd sb imm) s = .next x ∧ x.focus.progress = 0 ∧ x.focus.pc = s.focus.pc + 4 ∧
        (∀ r, x.rdS r = s.rdS r) ∧ (s.watchedSteps = false → x.mem = s.mem)) ∧
      let xs := packedFrom base t.esize 0 (s.guardLanes.drop k)
      (∀ x rest, k < s.guardLanes.length → xs = x :: rest → look x.1 s.focus.checked = none →
        m.AccessTraps .store t.esize x.2 (at_ (.vstc e vd sb imm) x)) ∧
      (∀ b, k < s.guardLanes.length → m.checkElems .store t.esize xs = (u, es, some b) → u.dataBrk .store es = none →
        (∀ el ∈ es, el.held = false) → u.storeStalls last = false → ∀ x, u.markAll u.crew.die (last.map (fun el => el.leaf)) = (x, true) →
        exec (.vstc e vd sb imm) s = .next (let y := run x last
          (y.setFocus { y.focus with progress := BitVec.ofNat 64 (k + es.length) }).raiseAt b.code b.sub b.lane (BitVec.ofNat 64 b.va))) ∧
      (k < s.guardLanes.length → m.Passes .store t.esize xs u es →
        done (.vstc e vd sb imm) last (fun x => x.setFocus { x.focus with progress := 0 })))

/-- R129 to R131, R138: scratchpad vector accesses. Lanes whose addresses are good are performed, ascending; the others are killed:
they leave the live mask, set LFAULT and the crew's kill record, which takes the offset of the lowest of them and the unit's address
where no lane of the crew was killed before. A load leaves the scratchpad, a store every vector register and every byte that no good lane
names. -/
def Obligations.ScratchpadVectors : Prop :=
  ∀ (s m : State) (e store : Bool) (swz : BitVec 3) (vd : VReg) (sb : SReg) (imm : BitVec 9) (vo : VReg) (sc : BitVec 2),
    let t := s.focus.ty
    let n := t.esize
    s.focus.state = .issuing → t ≠ .f4 → s.qualOk (if store then .spStore else .spLoad) = true →
    (if store then s.WriteOpen m else s.MemOpen m) →
    ∀ p ∈ spadForms store e swz vd sb imm vo sc s, s.VecReady ((vd.toNat, t.pair) :: p.2.1) [sb] [] →
      let good := fun (i : Nat) => (p.2.2 i).toNat + n ≤ s.crew.hdr.scratch ∧ (p.2.2 i).toNat % n = 0 ∧ (p.2.2 i).toNat < s.crew.hdr.scratch
      let at_ := fun (i : Nat) => swizzle swz.toNat n (p.2.2 i).toNat
      let gs := s.guardLanes.filter (fun i => decide (good i))
      let bad := s.guardLanes.filter (fun i => !decide (good i))
      ∃ x, exec p.1 s = .next x ∧ (∀ r, x.rdS r = s.rdS r) ∧ x.focus.pc = s.focus.pc + 4 ∧
        (∀ i, bit x.crew.kills i = (bit s.crew.kills i || decide (i ∈ bad))) ∧
        (∀ j l, bad = j :: l → s.crew.kills = 0 → x.crew.firstOff = p.2.2 j ∧ x.crew.firstPc = s.focus.unitPc) ∧
        (bad = [] ∨ s.crew.kills ≠ 0 → x.crew.firstOff = s.crew.firstOff ∧ x.crew.firstPc = s.crew.firstPc) ∧
        (∀ i, bit x.focus.live i = (bit s.focus.live i && !decide (i ∈ s.guardLanes ∧ ¬ good i))) ∧
        (∀ i, bit x.focus.lfault i = (bit s.focus.lfault i || decide (i ∈ s.guardLanes ∧ ¬ good i))) ∧
        (store = false → x.crew.spad = s.crew.spad ∧
          (∀ i ∈ gs, x.elem t.pair vd.toNat i = s.crew.spRead (at_ i) n % 2 ^ (if t.pair then 64 else 32)) ∧
          (∀ v i, i ∉ gs ∨ (v ≠ vd.toNat ∧ (t.pair = false ∨ v ≠ vd.toNat + 1)) → x.rdV v i = s.rdV v i)) ∧
        (store = true → x.crew.banks = s.crew.banks ∧
          ∀ a, x.crew.spByte a = spadAfter n (s.storeData vd) (s.crew.spByte a) a (gs.map (fun i => (i, at_ i))))

/-- R228 to R233: atomics. In scratchpad the guard's good lanes act one after the other, ascending, and the returning form gives
each what it found. In memory the elements of this package act in the same order once the checks have passed; `old` are the values
they found. The first element that fails a check of R126 traps with its lane and address, before any acts (R112, R126, R287).
Choices of the model in it: log 14. -/
def Obligations.AtomicResults : Prop :=
  ∀ (s m u w : State) (e ret w8 : Bool) (op : AOp) (vd vo : VReg) (rd ra rb sb : SReg) (es : List Elem) (old : List (Nat × Word)),
    let t := s.focus.ty
    let n := atomRegs op t.pair
    let vs := (below n).map (fun i => (vd.toNat + i, false)) ++ [(vo.toNat, false)]
    let ready := (t.pair = true → vd.toNat % 2 = 0) ∧ atomTypeOk op t = true ∧ vd.toNat + n ≤ s.crew.hdr.vregs ∧
      (∀ v ∈ vs, v.1 < s.crew.hdr.vregs ∧ (s.holdsFull = true ∨ v.1 < s.crew.hdr.vprologue)) ∧ s.waits [sb] [] vs = none
    (s.qualOk .spAtomic = true → ready → s.WriteOpen m →
      let x := m.spSplit t.esize (m.atomEa sb vo)
      let r := spAtomics t.esize (m.laneArgs op ret vd) x.1 m.crew
      exec (.vatoms e op ret vd sb vo) s = .next
        ((((let y := (m.setCrew r.2).wakeLatches m.crew.uid
            if ret then y.putElems t.pair vd.toNat r.1 else y).kill x.2).acquireL1 s.scope s.order).finish e)) ∧
    (s.qualOk .atomic = true → ready → s.WriteOpen m → fabElems es = [] →
      m.Passes .atomic t.esize (s.guardLanes.map (fun i => (i, (s.atomEa sb vo i).toNat))) u es →
      u.atomAll t.esize ret (if ret then .vreg vd t.esize else .none) (u.laneArgs op ret vd) es = (w, old, true) →
      ∃ x, exec (.vatom e op ret vd sb vo) s = .next x ∧ x.focus.pc = s.focus.pc + 4 ∧ (∀ r, x.rdS r = s.rdS r) ∧
        (ret = true → ∀ o ∈ old, x.elem t.pair vd.toNat o.1 = o.2.toNat % 2 ^ (if t.pair then 64 else 32)) ∧
        (ret = false → x.crew.banks = s.crew.banks)) ∧
    (s.qualOk .atomic = true → ready → s.WriteOpen m →
      ∀ pre x post, s.guardLanes.map (fun i => (i, (s.atomEa sb vo i).toNat)) = pre ++ x :: post → look x.1 s.focus.checked = none →
        m.checkElems .atomic t.esize pre = (u, es, none) → u.AccessTraps .atomic t.esize x.2 (fun code sub => ∃ y,
          exec (.vatom e op ret vd sb vo) s = .next y ∧
            s.Faulted y (s.faultRec code sub (BitVec.ofNat 8 x.1) s.focus.unitPc (BitVec.ofNat 64 x.2) false))) ∧
    (s.qualOk .atomic = true → ¬ (op = .fadd ∧ w8 = true) → ¬ (op = .cas ∧ rd = 63) →
      s.waits ([ra, rb, rd] ++ (if op = .cas then [rd + 1] else [])) (if ret then [rd] else []) [] = none →
      (s.overwrite (if ret then [rd] else [])).WriteOpen m → look 0 s.focus.checked = none →
      m.AccessTraps .atomic (if w8 then 8 else 4) (s.rdS ra + s.rdS rb).toNat (fun code sub => ∃ y,
        exec (.satom e op ret w8 rd ra rb) s = .next y ∧ s.Faulted y (s.faultRec code sub 0 s.focus.unitPc (s.rdS ra + s.rdS rb) false))) ∧
    (s.qualOk .atomic = true → ¬ (op = .fadd ∧ w8 = true) → ¬ (op = .cas ∧ rd = 63) →
      s.waits ([ra, rb, rd] ++ (if op = .cas then [rd + 1] else [])) (if ret then [rd] else []) [] = none →
      (s.overwrite (if ret then [rd] else [])).WriteOpen m → fabElems es = [] →
      m.Passes .atomic (if w8 then 8 else 4) [(0, (s.rdS ra + s.rdS rb).toNat)] u es →
      let size := if w8 then 8 else 4
      ∀ v, u.atomAll size ret (if ret = true ∧ rd ≠ 0 then .sreg rd size false else .none)
          (fun _ => { op := op, w64 := w8, x := s.rdS rd, y := if op = .cas then s.rdS (rd + 1) else 0, ret := ret }) es
          = (w, [(0, v)], true) →
        ∃ x, exec (.satom e op ret w8 rd ra rb) s = .next x ∧ x.focus.pc = s.focus.pc + 4 ∧
          x.rdS rd = (if rd = 0 then (0 : Word) else if ret then v else s.rdS rd) ∧ (∀ r, r ≠ rd → x.rdS r = s.rdS r))

/-- R229: what each atomic leaves in memory for `m` found there and operand `x` at a width of `w` bits (`fadd`: the F32 sum rounded to
nearest even), and, at R219, that the rest of the sector stands. -/
def Obligations.AtomicTable : Prop :=
  (∀ (w m x y : Nat), m < 2 ^ w → x < 2 ^ w →
    atomNew .add w m x y = (m + x) % 2 ^ w ∧ atomNew .xchg w m x y = x ∧ (m = x → atomNew .cas w m x y = y) ∧
    (m ≠ x → atomNew .cas w m x y = m) ∧ (x ≤ m → atomNew .inc w m x y = 0) ∧ (m < x → atomNew .inc w m x y = m + 1) ∧
    (m = 0 ∨ x < m → atomNew .dec w m x y = x) ∧ (m ≠ 0 → m ≤ x → atomNew .dec w m x y = m - 1) ∧
    atomNew .minu w m x y ≤ m ∧ atomNew .minu w m x y ≤ x ∧ (atomNew .minu w m x y = m ∨ atomNew .minu w m x y = x) ∧
    sInt w (atomNew .max w m x y) = max (sInt w m) (sInt w x) ∧ sInt w (atomNew .min w m x y) = min (sInt w m) (sInt w x) ∧
    m ≤ atomNew .maxu w m x y ∧ x ≤ atomNew .maxu w m x y ∧ (atomNew .maxu w m x y = m ∨ atomNew .maxu w m x y = x) ∧
    ∀ i, (atomNew .and w m x y).testBit i = (m.testBit i && x.testBit i) ∧ (atomNew .or w m x y).testBit i = (m.testBit i || x.testBit i) ∧
      (atomNew .xor w m x y).testBit i = (m.testBit i != x.testBit i)) ∧
  (∀ (m x y : Nat) (a b : ℚ), (fmtF32.read false m).rat = some a → (fmtF32.read false x).rat = some b → a + b ≠ 0 →
    ∃ r, r.1 = atomNew .fadd 32 m x y ∧ fmtF32.Rounds 0 false false (a + b) r) ∧
  (∀ (a : AtomArgs) (off : Nat) (v : SectorData) (k : Nat), off + (if a.w64 then 8 else 4) ≤ 16 → k < 16 →
    k < off ∨ off + (if a.w64 then 8 else 4) ≤ k → sectorByte (atomSector a off v).2 k = sectorByte v k)

/-- R240: the first look of `waitc`. A word that differs from S[sb] ends it with 1; one that does not parks it with reason wait until
an event, or 10 µs from now.
Choices of the model in it: log 95. -/
def Obligations.WaitcResults : Prop :=
  ∀ (s u w : State) (rd ra rb : SReg) (el : Elem) (v : Word), s.qualOk .wait = true → s.waits [ra, rb] [rd] [] = none →
    s.MemOpen s → (s.overwrite [rd]).checkElems .load 8 [(0, (s.rdS ra).toNat)] = (u, [el], none) →
    u.dataBrk .load [el] = none → (pteFab el.leaf.pte = false ∨ u.remoteLoads < 16) → (u.keepChecked [el]).waitcRead el = (w, some v) →
    (v ≠ s.rdS rb → ∃ t, exec (.waitc rd ra rb) s = .next t ∧ t.rdS rd = (if rd = 0 then (0 : Word) else 1) ∧
      (∀ r, r ≠ rd → t.rdS r = s.rdS r) ∧ t.focus.pc = s.focus.pc + 4 ∧ s.RunEnds t) ∧
    (v = s.rdS rb → ∃ t r, exec (.waitc rd ra rb) s = .next t ∧ t.focus.state = .parked ∧
      t.focus.park = some (.wait (.waitc (s.time + 10000) r (el.pa / 16) false s.time)) ∧ (∀ r, t.rdS r = s.rdS r))

/-! ### Barriers, Latches, Hinges, slots (R157 to R167, R184 to R186, R237 to R239) -/

/-- R237, R238: barriers. An arrival sets the strand's bit; when every participant has arrived the phase moves on, the bits clear and
the strands that wait complete their instructions. A strand that has arrived already parks, and so does `bar.wait` while the phase
of the last arrival runs. A remnant traps EJECTED with subcode 1.
Choices of the model in it: log 18. -/
def Obligations.BarrierResults : Prop :=
  ∀ (s : State) (id : BitVec 4) (e : Bool), s.focused = true → s.focus.uid ≠ 0 → s.focus.crew = s.crew.uid → s.focus.idx < 16 →
    s.focus.state = .issuing →
    let b := s.crew.bar id
    let last := (s.participants s.crew.uid).all (fun x => b.arrived.getLsbD x.idx || x.idx == s.focus.idx)
    let moved := fun (t : State) => (t.crew.bar id).phase = b.phase + 1 ∧ (t.crew.bar id).arrived = 0 ∧
      ∀ x ∈ s.strands, waitsBar s.crew.uid id x = true → ∃ y ∈ t.strands, y.uid = x.uid ∧ y.state = .ready ∧ y.pc = x.pc + 4 ∧ y.s = x.s
    let marked := fun (t : State) => (t.crew.bar id).phase = b.phase ∧ ∀ i, (t.crew.bar id).arrived.getLsbD i = (b.arrived.getLsbD i || i == s.focus.idx)
    (s.focus.isRemnant = false → s.completeTo 1 = true →
      (s.arrived id = false → last = false →
        (∃ t, exec (.barArrive e id) s = .next t ∧ marked t ∧ t.focus.pc = s.focus.pc + 4) ∧
        (∃ t, exec (.bar id) s = .next t ∧ marked t ∧ t.focus.state = .parked ∧ t.focus.park = some (.barrier (some id)))) ∧
      (s.arrived id = false → last = true →
        (∃ t, exec (.barArrive e id) s = .next t ∧ moved t ∧ t.focus.pc = s.focus.pc + 4) ∧
        (∃ t, exec (.bar id) s = .next t ∧ moved t ∧ t.focus.state = .ready ∧ t.focus.pc = s.focus.pc + 4)) ∧
      (s.arrived id = true →
        (∃ t, exec (.barArrive e id) s = .next t ∧ t.focus.state = .parked ∧ t.focus.park = some (.barrier (some id)) ∧ t.crew = s.crew) ∧
        (∃ t, exec (.bar id) s = .next t ∧ t.focus.state = .parked ∧ t.focus.park = some (.barrier (some id)) ∧ t.crew = s.crew))) ∧
    (s.focus.isRemnant = false →
      (at16 b.last s.focus.idx = some b.phase → ∃ t, exec (.barWait id) s = .next t ∧ t.focus.state = .parked ∧
        t.focus.park = some (.barrier (some id)) ∧ t.crew = s.crew) ∧
      (at16 b.last s.focus.idx ≠ some b.phase → ∃ t, exec (.barWait id) s = .next t ∧ t.focus.pc = s.focus.pc + 4 ∧ s.RunEnds t ∧
        t.crew = s.crew)) ∧
    (s.focus.isRemnant = true → ∀ i ∈ [Instr.bar id, .barArrive e id, .barWait id, .gbar],
      ∃ t, exec i s = .next t ∧ s.Faulted t (s.recordOf 0x0B 1 0))

/-- R239, R251: `gbar` in a kernel without COOP traps COOP with subcode 1; else, once every remote load and atomic of the strand has read
its value, for which it parks, the strand arrives and parks while some participant of the launch has not arrived; the last arrival moves the
grid's phase and lets the strand go on.
Choices of the model in it: logs 28, 98. -/
def Obligations.GridBarrierResults : Prop :=
  ∀ (s : State), s.focused = true → s.focus.uid ≠ 0 → s.focus.crew = s.crew.uid → s.focus.idx < 16 → s.focus.isRemnant = false →
    (∀ c ∈ s.crews, c.uid ≠ s.crew.uid) →
    let d := s.crew.die
    let own := fun (c : Crew) (x : Strand) => c.garrived.getLsbD x.idx || (c.uid == s.crew.uid && x.idx == s.focus.idx)
    (s.crew.hdr.coop = false → ∃ t, exec .gbar s = .next t ∧ s.Faulted t (s.recordOf 0x0E 1 0)) ∧
    (s.crew.hdr.coop = true → s.focus.remotes.any (fun m => m.reads) = true → ∃ t, exec .gbar s = .next t ∧ t.focus.state = .parked ∧
      t.focus.park = some .remoteLoad ∧ t.crew = s.crew ∧ (∀ r, t.rdS r = s.rdS r)) ∧
    (s.crew.hdr.coop = true → s.focus.remotes.any (fun m => m.reads) = false →
      (∀ c ∈ s.crews, ∀ x ∈ s.strands, c.die = d → c.slot = s.crew.slot → c.uid ≠ s.crew.uid → x.crew = c.uid → x.parent = none →
        x.state ≠ .done → x.state ≠ .ejectWait → c.garrived.getLsbD x.idx = false →
        ∃ t, exec .gbar s = .next t ∧ t.focus.state = .parked ∧ t.focus.park = some (.barrier none) ∧
          t.crew.garrived.getLsbD s.focus.idx = true ∧ (∀ r, t.rdS r = s.rdS r)) ∧
      (∀ g, s.gridAt d s.crew.slot = some g → g.next = crewCount g.hdr g.rec_ →
        (∀ c ∈ s.crewsOf d s.crew.slot, ∀ x ∈ s.participants c.uid, own c x = true) →
        ∃ t h, exec .gbar s = .next t ∧ t.focus.state = .ready ∧ t.focus.pc = s.focus.pc + 4 ∧ t.crew.garrived = 0 ∧
          t.gridAt d s.crew.slot = some h ∧ h.gphase = g.gphase + 1 ∧ (∀ r, t.rdS r = s.rdS r)))

/-- R184 to R186: Latches. `ltinit` writes PHASE 0 and PENDING and EXPECTED n; `ltarm` and `ltarrive` move PENDING, turn the phase at
0, and let the strands go on that waited for that; `ltwait` parks while PHASE equals S[sb][0]; `lttest` tells whether it differs.
An offset that is misaligned traps ALIGN, one out of range ADDR, each with subcode 1 and the offset as ADDRESS. Like every access to memory
they wait for what R222, R226 and R251 name, and `ltarm` and `ltarrive`, which can turn the phase, for all that the strand did before them
(R248).
Choices of the model in it: logs 41, 98. -/
def Obligations.LatchResults : Prop :=
  ∀ (s : State) (e : Bool) (rd ra rb : SReg), s.focused = true → s.focus.state = .issuing →
    let a := (s.rdS ra).toNat
    let w := (s.crew.latch a).toNat
    let n := (s.rdS rb).toNat
    let after := fun (d : Int) => BitVec.ofNat 64 (latchAfter (w / 2 ^ 63) (w / 2 ^ 32 % 2 ^ 31) (w % 2 ^ 32) d)
    let ph := decide (2 ^ 63 ≤ w)
    let freed := fun (t : State) => ∀ x ∈ s.strands, ∀ q, x.crew = s.crew.uid → x.state = .parked → x.park = some (.wait (.latch a q)) →
      bit (t.crew.latch a) 63 ≠ q → ∃ y ∈ t.strands, y.uid = x.uid ∧ y.state = .ready ∧ y.pc = x.pc + 4 ∧ y.s = x.s
    (a % 8 = 0 → a + 8 ≤ s.crew.hdr.scratch →
      (s.waits [ra, rb] [] [] = none →
        (1 ≤ n → n ≤ 2 ^ 30 - 1 → s.WriteOpen s → ∃ t, exec (.ltinit e ra rb) s = .next t ∧ t.crew.latch a = BitVec.ofNat 64 (n * 2 ^ 32 + n) ∧
          freed t ∧ (∀ r, t.rdS r = s.rdS r) ∧ t.focus.pc = s.focus.pc + 4) ∧
        (n < 1 ∨ 2 ^ 30 - 1 < n → ∃ t, exec (.ltinit e ra rb) s = .next t ∧ s.Faulted t (s.recordOf 0x01 4 0)) ∧
        (s.completeTo 1 = true → ∃ t, exec (.ltarm e ra rb) s = .next t ∧ t.crew.latch a = after (sInt 31 (n % 2 ^ 31)) ∧ freed t ∧
          (∀ r, t.rdS r = s.rdS r) ∧ t.focus.pc = s.focus.pc + 4) ∧
        (s.MemOpen s → ph ≠ bit (s.rdS rb) 0 → ∃ t, exec (.ltwait ra rb) s = .next t ∧ t.focus.pc = s.focus.pc + 4 ∧ s.RunEnds t ∧ t.crew = s.crew) ∧
        (s.MemOpen s → ph = bit (s.rdS rb) 0 → ∃ t, exec (.ltwait ra rb) s = .next t ∧ t.focus.state = .parked ∧
          t.focus.park = some (.wait (.latch a ph)) ∧ t.crew = s.crew)) ∧
      (s.waits [ra] [rd] [] = none → s.completeTo 1 = true → ∃ t, exec (.ltarrive e rd ra) s = .next t ∧
        t.crew.latch a = after (-1) ∧ freed t ∧ t.rdS rd = (if rd ≠ 0 ∧ ph = true then (1 : Word) else 0) ∧
        (∀ r, r ≠ rd → t.rdS r = s.rdS r) ∧ t.focus.pc = s.focus.pc + 4) ∧
      (s.waits [ra, rb] [rd] [] = none → s.MemOpen s → ∃ t, exec (.lttest e rd ra rb) s = .next t ∧ t.crew = s.crew ∧
        t.rdS rd = (if rd ≠ 0 ∧ ph ≠ bit (s.rdS rb) 0 then (1 : Word) else 0) ∧ (∀ r, r ≠ rd → t.rdS r = s.rdS r) ∧
        t.focus.pc = s.focus.pc + 4)) ∧
    (s.waits [ra, rb] [rd] [] = none → s.waits [ra, rb] [] [] = none → s.waits [ra] [rd] [] = none →
      ∀ i ∈ [Instr.ltinit e ra rb, .ltarm e ra rb, .ltarrive e rd ra, .ltwait ra rb, .lttest e rd ra rb],
        (a % 8 ≠ 0 → ∃ t, exec i s = .next t ∧ s.Faulted t (s.recordOf 0x03 1 (s.rdS ra))) ∧
        (a % 8 = 0 → s.crew.hdr.scratch < a + 8 → ∃ t, exec i s = .next t ∧ s.Faulted t (s.recordOf 0x04 1 (s.rdS ra))))

/-- R26, R166, R167, R174: Hinges. A strand's arrival and its taking of a release move its own counts, and the context's `mhwait` and
`mharr` move the Hinge's; each waits where R166 says. In a remnant they trap EJECTED with subcode 1. -/
def Obligations.HingeResults : Prop :=
  ∀ (s : State) (e : Bool) (h : BitVec 4), s.focused = true →
    let g := s.crew.hinge h
    let i := s.focus.idx
    let ps := s.hingeParticipants s.crew.uid
    (s.focus.isRemnant = false → s.focus.state = .issuing →
      (s.completeTo 1 = true → at16 g.ac i - g.mc < 255 → ∃ t, exec (.hgarrive e h) s = .next t ∧
        t.crew.hinge h = { g with ac := set16 g.ac i (at16 g.ac i + 1) } ∧ (∀ k, k ≠ h → t.crew.hinge k = s.crew.hinge k) ∧
        (∀ r, t.rdS r = s.rdS r) ∧ t.focus.pc = s.focus.pc + 4) ∧
      (s.completeTo 1 = true → 255 ≤ at16 g.ac i - g.mc → ∃ t, exec (.hgarrive e h) s = .next t ∧ t.focus.state = .parked ∧
        t.focus.park = some (.hinge h) ∧ t.crew = s.crew) ∧
      (at16 g.wc i + 1 ≤ g.rc → ∃ t, exec (.hgwait h) s = .next t ∧
        t.crew.hinge h = { g with wc := set16 g.wc i (at16 g.wc i + 1) } ∧ (∀ k, k ≠ h → t.crew.hinge k = s.crew.hinge k) ∧
        (∀ r, t.rdS r = s.rdS r) ∧ t.focus.pc = s.focus.pc + 4) ∧
      (g.rc < at16 g.wc i + 1 → ∃ t, exec (.hgwait h) s = .next t ∧ t.focus.state = .parked ∧ t.focus.park = some (.hinge h) ∧
        t.crew = s.crew)) ∧
    (s.focus.isRemnant = true → ∀ i ∈ [Instr.hgarrive e h, .hgwait h], ∃ t, exec i s = .next t ∧ s.Faulted t (s.recordOf 0x0B 1 0)) ∧
    ((∀ x ∈ ps, g.mc + 1 ≤ at16 g.ac x.idx) → ∃ t, exec (.mhwait h) s = .next t ∧ t.crew.hinge h = { g with mc := g.mc + 1 } ∧
      t.crew.seq.pc = s.crew.seq.pc + 4 ∧ t.crew.seq.state = .running) ∧
    (¬ (∀ x ∈ ps, g.mc + 1 ≤ at16 g.ac x.idx) → ∃ t, exec (.mhwait h) s = .next t ∧ t.crew.hinge h = g ∧
      t.crew.seq = { s.crew.seq with state := .waiting, hinge := h }) ∧
    ((∀ x ∈ ps, g.rc + 1 - at16 g.wc x.idx ≤ 255) → ∃ t, exec (.mharr h) s = .next t ∧ t.crew.hinge h = { g with rc := g.rc + 1 } ∧
      t.crew.seq.pc = s.crew.seq.pc + 4 ∧ t.crew.seq.state = .running) ∧
    (¬ (∀ x ∈ ps, g.rc + 1 - at16 g.wc x.idx ≤ 255) → ∃ t, exec (.mharr h) s = .next t ∧ t.crew.hinge h = g ∧
      t.crew.seq = { s.crew.seq with state := .holding, hinge := h })

/-- R161, R162: `mclaim` gives fresh slots after those held and answers the number of the first, counted from 1; a claim of none or
more than 64 traps SLOTS 1, one beyond the header's count SLOTS 2; where the core has not enough, or a claim is parked there already, a
crew that holds slots gets 0 and one that holds none parks behind the others. `mrel` gives up the last n, or with 0 all; more than held traps SLOTS 3.
Choices of the model in it: log 46. -/
def Obligations.SlotResults : Prop :=
  ∀ (s : State) (e : Bool) (rd ra : SReg), s.focus.state = .issuing →
    let n := (s.rdS ra).toNat
    let h := s.crew.slots.length
    let q := (s.core s.crew.die s.crew.core).claims
    let free := s.freeSlots s.crew.die s.crew.core
    (s.waits [ra] [rd] [] = none →
      (1 ≤ n → n ≤ 64 → h + n ≤ s.crew.hdr.slots → n ≤ free → q = [] → ∃ t, exec (.mclaim e rd ra) s = .next t ∧
        t.crew.slots = s.crew.slots ++ List.replicate n Slot.fresh ∧ t.rdS rd = (if rd = 0 then (0 : Word) else BitVec.ofNat 64 (h + 1)) ∧
        (∀ r, r ≠ rd → t.rdS r = s.rdS r) ∧ t.focus.pc = s.focus.pc + 4) ∧
      (1 ≤ n → n ≤ 64 → h + n ≤ s.crew.hdr.slots → (free < n ∨ q ≠ []) → s.focus.uid ∉ q →
        (h ≠ 0 → ∃ t, exec (.mclaim e rd ra) s = .next t ∧ t.rdS rd = 0 ∧ (∀ r, r ≠ rd → t.rdS r = s.rdS r) ∧ t.crew = s.crew ∧
          t.focus.pc = s.focus.pc + 4) ∧
        (h = 0 → ∃ t, exec (.mclaim e rd ra) s = .next t ∧ t.focus.state = .parked ∧ t.focus.park = some (.wait .slots) ∧
          (t.core s.crew.die s.crew.core).claims = q ++ [s.focus.uid] ∧ t.crew = s.crew)) ∧
      (n = 0 ∨ 64 < n → ∃ t, exec (.mclaim e rd ra) s = .next t ∧ s.Faulted t (s.recordOf 0x0C 1 0)) ∧
      (1 ≤ n → n ≤ 64 → s.crew.hdr.slots < h + n →
        ∃ t, exec (.mclaim e rd ra) s = .next t ∧ s.Faulted t (s.recordOf 0x0C 2 0))) ∧
    (s.waits [ra] [] [] = none →
      (n ≤ h → ∃ t, exec (.mrel e ra) s = .next t ∧ t.crew.slots = s.crew.slots.take (h - (if n = 0 then h else n)) ∧
        (∀ r, t.rdS r = s.rdS r) ∧ t.focus.pc = s.focus.pc + 4) ∧
      (h < n → ∃ t, exec (.mrel e ra) s = .next t ∧ s.Faulted t (s.recordOf 0x0C 3 0)))

/-! ### Engines: copies, streams, the sequencer, binning, launches, the Keyway -/

/-- R182, R187 to R190: a copy is accepted with its descriptor as it stands, its token register busy or its Latch named; with 32
outstanding on the core it parks. A descriptor offset that is misaligned traps ALIGN, one out of range ADDR, with subcode 1.
Choices of the model in it: logs 28, 41, 42. -/
def Obligations.CopyIssueResults : Prop :=
  ∀ (s : State) (e : Bool) (rd ra rb : SReg), s.completeTo 1 = true →
    let a := (s.rdS ra).toNat
    let taken := fun (t : State) (k : CopyKind) (d : Nat → Done) => ∃ o : CopyOp, t.crew.copies = s.crew.copies ++ [o] ∧ o.kind = k ∧
      o.desc = s.crew.spBytes a 64 ∧ o.done = d o.id ∧ o.begun = false ∧ o.next = 0 ∧ o.stopped = none ∧
      (∀ r, t.rdS r = s.rdS r) ∧ t.focus.pc = s.focus.pc + 4
    let busy := s.allStrands.any (s.waitsCopy s.crew.die s.crew.core)
    (s.waits [ra] [rd] [] = none →
      ∀ p ∈ [(Instr.cpy e rd ra, CopyKind.cpy), (.cpyw e rd ra, .cpyw), (.cpyo e rd ra, .cpyo), (.cpyg e rd ra, .cpyg)],
        (a % 64 = 0 → a + 64 ≤ s.crew.hdr.scratch → s.coreCopies < 32 → busy = false →
          ∃ t, exec p.1 s = .next t ∧ taken t p.2 (fun n => .token n) ∧ (rd ≠ 0 → ∃ n, (rd.toNat, n) ∈ t.focus.busy)) ∧
        (a % 64 = 0 → a + 64 ≤ s.crew.hdr.scratch → 32 ≤ s.coreCopies ∨ busy = true →
          ∃ t, exec p.1 s = .next t ∧ t.focus.state = .parked ∧ t.focus.park = some (.wait .copySlot) ∧ t.crew = s.crew) ∧
        (a % 64 ≠ 0 → ∃ t, exec p.1 s = .next t ∧ s.Faulted t (s.recordOf 0x03 1 (s.rdS ra))) ∧
        (a % 64 = 0 → s.crew.hdr.scratch < a + 64 → ∃ t, exec p.1 s = .next t ∧ s.Faulted t (s.recordOf 0x04 1 (s.rdS ra)))) ∧
    (s.waits [ra, rb] [] [] = none → a % 64 = 0 → a + 64 ≤ s.crew.hdr.scratch → (s.rdS rb).toNat % 8 = 0 →
      (s.rdS rb).toNat + 8 ≤ s.crew.hdr.scratch → s.coreCopies < 32 → busy = false →
      ∀ p ∈ [(Instr.cpyLt e ra rb, CopyKind.cpy), (.cpywLt e ra rb, .cpyw), (.cpyoLt e ra rb, .cpyo), (.cpygLt e ra rb, .cpyg)],
        ∃ t, exec p.1 s = .next t ∧ taken t p.2 (fun _ => .latch (s.rdS rb).toNat)) ∧
    (s.waits [] [rd] [] = none → ∃ t, exec (.cpyq e rd) s = .next t ∧
      t.rdS rd = (if rd = 0 then (0 : Word) else BitVec.ofNat 64 s.crew.copies.length) ∧ (∀ r, r ≠ rd → t.rdS r = s.rdS r) ∧
      t.crew = s.crew ∧ t.focus.pc = s.focus.pc + 4)

/-- R196, R197, R258, R259, R275: streams and binning. `sdesc` gives a good descriptor a handle of the core's 64, a bad one all ones,
and with none free 0 (which free handle is the model's choice, log 20); `sgo` starts a stream of the crew from its first element and
`sstop` drops it. Binning operations queue in the crew's issue order, their token registers busy; `binit` of a count outside 1 to 64
traps ILLEGAL with subcode 4. A binning operation waits like a release at crew scope for what the strand did before it (R249).
Choices of the model in it: logs 28, 31, 100. -/
def Obligations.StreamAndBinningResults : Prop :=
  ∀ (s : State) (e : Bool) (rd ra : SReg) (vb : VReg),
    let a := (s.rdS ra).toNat
    let d := s.crew.spBytes a 64
    let q := s.crew.bin.queue
    let went := fun (t : State) (o : Nat → BinOp) => ∃ k, t.crew.bin.queue = q ++ [o k] ∧ (rd ≠ 0 → (rd.toNat, k) ∈ t.focus.busy) ∧
      (∀ r, t.rdS r = s.rdS r) ∧ t.focus.pc = s.focus.pc + 4
    (s.waits [ra] [rd] [] = none → a % 64 = 0 → a + 64 ≤ s.crew.hdr.scratch → ∃ t, exec (.sdesc e rd ra) s = .next t ∧
      (∀ r, r ≠ rd → t.rdS r = s.rdS r) ∧ t.focus.pc = s.focus.pc + 4 ∧
      (streamBad d = true → t.rdS rd = (if rd = 0 then (0 : Word) else BitVec.allOnes 64) ∧ t.crew.streams = s.crew.streams) ∧
      (streamBad d = false → (∀ h, 1 ≤ h → h ≤ 64 → h ∈ s.handlesUsed) → t.rdS rd = 0 ∧ t.crew.streams = s.crew.streams) ∧
      (streamBad d = false → (∃ h, 1 ≤ h ∧ h ≤ 64 ∧ h ∉ s.handlesUsed) → ∃ x : Stream, t.crew.streams = s.crew.streams ++ [x] ∧
        1 ≤ x.handle ∧ x.handle ≤ 64 ∧ x.handle ∉ s.handlesUsed ∧ x.desc = d ∧ x.running = false ∧
        t.rdS rd = (if rd = 0 then (0 : Word) else BitVec.ofNat 64 x.handle))) ∧
    (s.waits [ra] [] [] = none →
      (∃ t, exec (.sgo e ra) s = .next t ∧ (∀ r, t.rdS r = s.rdS r) ∧ t.focus.pc = s.focus.pc + 4 ∧ t.crew.streams =
        s.crew.streams.map (fun x => if x.handle = a then { x with running := true, next := 0, seen := 0 } else x)) ∧
      (∃ t, exec (.sstop e ra) s = .next t ∧ (∀ r, t.rdS r = s.rdS r) ∧ t.focus.pc = s.focus.pc + 4 ∧
        t.crew.streams = s.crew.streams.filter (fun x => decide (x.handle ≠ a)))) ∧
    (s.waits [ra] [rd] [] = none →
      (1 ≤ a → a ≤ 64 → s.completeTo 1 = true → ∃ t, exec (.binit e rd ra) s = .next t ∧ went t (fun k => .init k a)) ∧
      (a < 1 ∨ 64 < a → ∃ t, exec (.binit e rd ra) s = .next t ∧ s.Faulted t (s.recordOf 0x01 4 0)) ∧
      (s.completeTo 1 = true → ∃ t, exec (.bpatch e rd ra) s = .next t ∧ went t (fun k => .patch k (s.rdS ra)))) ∧
    (s.waits [] [rd] [] = none → s.completeTo 1 = true → ∃ t, exec (.brel e rd) s = .next t ∧ went t (fun k => .release k)) ∧
    (s.VecReady [(vb.toNat, false)] [ra] [rd] → a % 4 = 0 → a + 4 * s.lanes ≤ s.crew.hdr.scratch → s.completeTo 1 = true →
      ∃ t, exec (.bcount e rd ra vb) s = .next t ∧
        went t (fun k => .count k a (s.guardLanes.map (fun i => (i, s.routed 0 false vb.toNat i % 2 ^ 32)))))

/-- R164, R165, R170, R173: starting and reading the sequencer, and its own instructions. `mgo` waits like a release at crew scope for what
the strand did before it (R164, R248). `mstat` gives q(c − 1) for a selector c of 1 to 8, the status word for 0, else 0, and 0 in a crew
without a context (R165).
Choices of the model in it: logs 28, 44, 95. -/
def Obligations.SequencerResults : Prop :=
  ∀ (s : State) (e : Bool) (rd ra : SReg) (q : BitVec 3) (disp : BitVec 16) (imm : BitVec 24),
    let a := (s.rdS ra).toNat
    let c := s.crew
    let pc := c.seq.pc
    let gives := fun (v : Word) => ∃ t, exec (.mstat e rd ra) s = .next t ∧ t.rdS rd = (if rd = 0 then (0 : Word) else v) ∧
      (∀ r, r ≠ rd → t.rdS r = s.rdS r) ∧ t.crew = c ∧ t.focus.pc = s.focus.pc + 4
    (c.hdr.stream = 0 → ∃ t, exec (.mgo e rd ra) s = .next t ∧ s.Faulted t (s.recordOf 0x01 4 0)) ∧
    (c.hdr.stream ≠ 0 → s.waits [ra] [rd] [] = none → a % 8 = 0 → a + 64 ≤ c.hdr.scratch →
      (c.seq.state = .stopped → s.completeTo 1 = true → ∃ t, exec (.mgo e rd ra) s = .next t ∧ t.crew.seq.state = .running ∧
        t.crew.seq.pc = c.hdrAddr + BitVec.ofNat 64 (4 * c.hdr.stream) ∧ (∀ n, n < 8 → t.crew.seq.q[n]? = some (BitVec.ofNat 64 (c.spRead (a + 8 * n) 8))) ∧
        t.rdS rd = (if rd = 0 then (0 : Word) else 1) ∧ (∀ r, r ≠ rd → t.rdS r = s.rdS r) ∧ t.focus.pc = s.focus.pc + 4) ∧
      (c.seq.state ≠ .stopped → ∃ t, exec (.mgo e rd ra) s = .next t ∧ t.crew = c ∧ t.rdS rd = 0 ∧
        (∀ r, r ≠ rd → t.rdS r = s.rdS r) ∧ t.focus.pc = s.focus.pc + 4)) ∧
    (s.waits [ra] [rd] [] = none →
      (c.hdr.stream = 0 → gives 0) ∧
      (c.hdr.stream ≠ 0 → (a = 0 → gives (BitVec.ofNat 64 ((pc - c.seq.start).toNat / 4 % 2 ^ 32 * 2 ^ 32 + c.seq.fsub.toNat * 2 ^ 16 +
          c.seq.fcode.toNat * 2 ^ 8 + (match c.seq.state with
            | .stopped => 0
            | .running => 1
            | .waiting => 2
            | .holding => 3
            | .faulted => 4)))) ∧
        (∀ q : Fin 8, a = q.val + 1 → gives c.seq.q[q]) ∧ (8 < a → gives 0))) ∧
    (∃ t, exec .mnop s = .next t ∧ t.crew = { c with seq := { c.seq with state := .running, pc := pc + 4 } } ∧ t.mem = s.mem) ∧
    (∃ t, exec .mend s = .next t ∧ t.crew = { c with seq := { c.seq with state := .stopped, pc := pc + 4 } } ∧ t.mem = s.mem) ∧
    (∃ t, exec (.mloop q disp) s = .next t ∧ t.qReg q = s.qReg q - 1 ∧ (∀ p, p ≠ q → t.qReg p = s.qReg p) ∧ t.crew.seq.state = .running ∧
      t.crew.seq.pc = (if s.qReg q = 1 then pc + 4 else pc + disp.signExtend 64 * 4)) ∧
    (∃ t, exec (.mqadd q imm) s = .next t ∧ t.qReg q = s.qReg q + imm.signExtend 64 ∧ (∀ p, p ≠ q → t.qReg p = s.qReg p) ∧
      t.crew.seq.pc = pc + 4) ∧
    (∃ t, exec (.mset q imm) s = .next t ∧ t.qReg q = imm.signExtend 64 ∧ (∀ p, p ≠ q → t.qReg p = s.qReg p) ∧ t.crew.seq.pc = pc + 4)

/-- R145 to R152, R157 to R160, R168, R169, R171, R172, R175 to R181: the tile operations, the array being free. Each completes where its
operands are good, and what each writes: `mzero` clears a tile; `mldo` copies scratchpad bytes into a slot, and sets its row scales to 127 or
copies the side area; `mdeq` gives each code its value of R152, `mhad` each block its transform of R147, `mqnt` each row its scale and
elements of R148 or each block its exponent, micro bits and codes of R150, `mmla` each element of the accumulator its value of R145 and R146;
`msto` stores the accumulator's elements, as they are or rounded under the row scales. Every other slot, tile, side byte and byte of the
scratchpad stands, and the context goes on at the next word. An operation with bad operands stops the context at its word with the
fault's code and subcode; while another operation has the array none begins.
Choices of the model in it: logs 44, 45, 88, 106, 112. -/
def Obligations.TileResults : Prop :=
  (∀ x : Slot, x.ElementsStand) ∧
  ∀ (s : State) (acc : BitVec 4) (s1 s2 : BitVec 6) (q : BitVec 3) (fa fb : BitVec 3) (b1 b2 : Bool) (n out : BitVec 2)
    (imm : BitVec 12) (blk : BitVec 8),
    let c := s.crew
    let o := s1.toNat
    let held := fun (i : Nat) => i < c.slots.length
    let qv := (c.seq.q[q.toNat]'(q.isLt)).toNat
    let restSlots := fun (t : State) (l : List Nat) => ∀ i, i ∉ l → t.crew.slot_ i = c.slot_ i
    let unit := fun (t : State) (i : Nat) => ∀ b, b < 64 → (t.crew.slot_ i).sideByte b = 127
    let side := fun (t : State) (i from_ : Nat) => ∀ b, from_ ≤ b → (t.crew.slot_ i).sideByte b = (c.slot_ i).sideByte b
    -- the BF16 element `j` of row `r` of a row held from slot `i` on
    let bf := fun (i r j : Nat) => (c.slot_ (i + j / 32)).value 0 b1 r (j % 32)
    (s.arrayFree = true →
      (acc.toNat < c.tiles.length → ∃ t, exec (.mzero acc) s = .next t ∧ s.TileDone t ∧
        (∀ w, w < 4096 → t.crew.tileWord acc.toNat w = 0) ∧ (∀ a w, a ≠ acc.toNat → t.crew.tileWord a w = c.tileWord a w) ∧
        t.crew.slots = c.slots ∧ t.crew.spad = c.spad) ∧
      (let p := (qv + 64 * imm.toNat) % 2 ^ 64
       held o → p % 64 = 0 → p + 4096 + (if b1 then 2048 else 0) ≤ c.hdr.scratch → ∃ t, exec (.mldo s1 q b1 imm) s = .next t ∧ s.TileDone t ∧
        (∀ b, b < 4096 → (t.crew.slot_ o).byte b = c.spByte (p + b)) ∧
        (b1 = true → ∀ b, b < 2048 → (t.crew.slot_ o).sideByte b = c.spByte (p + 4096 + b)) ∧
        (b1 = false → unit t o ∧ side t o 64) ∧ restSlots t [o] ∧ t.crew.tiles = c.tiles ∧ t.crew.spad = c.spad) ∧
      (held (o + 1) → o % 2 = 0 → blk.toNat ≤ 192 → qv + 8452 ≤ c.hdr.scratch → ∃ t, exec (.mdeq s1 q blk b1) s = .next t ∧ s.TileDone t ∧
        (∀ r j, r < 64 → j < 64 → G4Value b1 (c.spRead (qv + 8448) 4) (c.spByte (qv + 8192 + (blk.toNat + r))).toNat
          ((c.spByte (qv + 32 * (blk.toNat + r) + j / 2)).toNat / (if j % 2 = 0 then 1 else 16) % 16)
          ((t.crew.slot_ (o + j / 32)).pattern 0 r (j % 32))) ∧
        (∀ i ∈ [o, o + 1], unit t i ∧ side t i 64) ∧ restSlots t [o, o + 1] ∧ t.crew.tiles = c.tiles ∧ t.crew.spad = c.spad) ∧
      (∀ f K, tileFmts[fa.toNat]? = some (f, K) → fa ≠ 4 → fa ≠ 5 → fa ≠ 7 → n ≠ 3 →
        let pts := 16 * 2 ^ n.toNat
        let l := if pts ≤ K then [o] else [o, o + 1]
        (pts ≤ K ∨ (pts = 2 * K ∧ o % 2 = 0)) → (∀ i ∈ l, held i) → ∃ t, exec (.mhad n s1 fa b1) s = .next t ∧ s.TileDone t ∧
          (∀ r b i, r < 64 → b * pts < l.length * K → i < pts → HadamardValue f b1 pts i
            (fun j => (c.slot_ (o + (b * pts + j) / K)).value fa.toNat b1 r ((b * pts + j) % K))
            ((t.crew.slot_ (o + (b * pts + i) / K)).pattern fa.toNat r ((b * pts + i) % K))) ∧
          (∀ i ∈ l, side t i 0) ∧ restSlots t l ∧ t.crew.tiles = c.tiles ∧ t.crew.spad = c.spad) ∧
      (let i := s2.toNat
       held o → i % 2 = 0 → held (i + 1) → ∃ t, exec (.mqnt s1 s2 false b1) s = .next t ∧ s.TileDone t ∧
        (∀ r, r < 64 → F8Row b1 (bf i r) ((t.crew.slot_ o).sideByte r).toNat (fun j => ((t.crew.slot_ o).byte (64 * r + j)).toNat)) ∧
        side t o 64 ∧ restSlots t [o] ∧ t.crew.tiles = c.tiles ∧ t.crew.spad = c.spad) ∧
      (let i := s2.toNat
       held o → i % 4 = 0 → held (i + 3) → ∃ t, exec (.mqnt s1 s2 true b1) s = .next t ∧ s.TileDone t ∧
        (∀ r k, r < 64 → k < 8 → Gb4Block b1 (fun j => bf i r (16 * k + j)) ((t.crew.slot_ o).sideByte (64 + 8 * r + k)).toNat
          ((t.crew.slot_ o).sideByte (576 + 8 * r + k)).toNat (fun j => (t.crew.slot_ o).pattern 5 r (16 * k + j))) ∧
        unit t o ∧ side t o 1088 ∧ restSlots t [o] ∧ t.crew.tiles = c.tiles ∧ t.crew.spad = c.spad) ∧
      (∀ f K g, tileFmts[fa.toNat]? = some (f, K) → tileFmts[fb.toNat]? = some (g, K) →
        let f64 := decide (K = 8)
        let sum := if f64 then fmtF64 else fmtF32
        held o → held s2.toNat → acc.toNat + (if f64 then 1 else 0) < c.tiles.length → (f64 = true → acc.toNat % 2 = 0) →
        ∃ t, exec (.mmla acc s1 s2 fa fb b1) s = .next t ∧ s.TileDone t ∧
          (∀ i j, i < 64 → j < 64 → MmlaValue sum b1 (sum.read b1 (c.accum acc.toNat (64 * i + j) f64)) ((c.slot_ o).sideByte i).toNat
            ((c.slot_ s2.toNat).sideByte j).toNat K (fun k => (c.slot_ o).value fa.toNat b1 i k)
            (fun k => (c.slot_ s2.toNat).value fb.toNat b1 j k) (t.crew.accum acc.toNat (64 * i + j) f64)) ∧
          (∀ a w, a ≠ acc.toNat → (f64 = false ∨ a ≠ acc.toNat + 1) → t.crew.tileWord a w = c.tileWord a w) ∧
          t.crew.slots = c.slots ∧ t.crew.spad = c.spad) ∧
      (let w := if out = 0 then 4 else if out = 1 then 2 else 8
       let f64 := decide (out = 2)
       let src := if f64 then fmtF64 else fmtF32
       let dst := if out = 0 then fmtF32 else if out = 1 then fmtBF16 else fmtF64
       out ≠ 3 → (b1 = false → s1 = 0) → (b1 = true → held o) → acc.toNat + (if f64 then 1 else 0) < c.tiles.length →
       (f64 = true → acc.toNat % 2 = 0) → qv % w = 0 → qv + 4096 * w ≤ c.hdr.scratch →
        ∃ t, exec (.msto q acc out b1 s1 b2) s = .next t ∧ s.TileDone t ∧
          (∀ i, i < 4096 → let v := t.crew.spRead (qv + w * i) w
            (b1 = false → out ≠ 1 → v = c.accum acc.toNat i f64) ∧
            (b1 = false → out = 1 → MstoValue src dst b2 127 (c.accum acc.toNat i f64) v) ∧
            (b1 = true → MstoValue src dst b2 ((c.slot_ o).sideByte (i / 64)).toNat (c.accum acc.toNat i f64) v)) ∧
          (∀ x, x < qv ∨ qv + 4096 * w ≤ x → t.crew.spByte x = c.spByte x) ∧ t.crew.tiles = c.tiles ∧ t.crew.slots = c.slots)) ∧
    (let p := (qv + 64 * imm.toNat) % 2 ^ 64
     let room := p + 4096 + (if b1 then 2048 else 0) ≤ c.hdr.scratch
     let stops := fun (i : Instr) (code sub : Byte) => ∃ t, exec i s = .next t ∧ t.crew.seq.state = .faulted ∧ t.crew.seq.pc = c.seq.pc ∧
       t.crew.seq.fcode = code ∧ t.crew.seq.fsub = sub ∧ t.crew.tiles = c.tiles ∧ t.crew.slots = c.slots ∧ t.crew.spad = c.spad
     s.arrayFree = true →
      (c.tiles.length ≤ acc.toNat → stops (.mzero acc) 0x10 3) ∧
      (p % 64 ≠ 0 ∨ ¬ room → stops (.mldo s1 q b1 imm) 0x10 4) ∧ (p % 64 = 0 → room → ¬ held o → stops (.mldo s1 q b1 imm) 0x0C 4) ∧
      (o % 2 = 1 ∨ 192 < blk.toNat → stops (.mdeq s1 q blk b1) 0x10 3) ∧
      (o % 2 = 0 → blk.toNat ≤ 192 → c.hdr.scratch < qv + 8452 → stops (.mdeq s1 q blk b1) 0x10 4) ∧
      (n = 3 ∨ fa = 4 ∨ fa = 5 ∨ fa = 7 → stops (.mhad n s1 fa b1) 0x10 3) ∧
      (s2.toNat % 2 = 1 → stops (.mqnt s1 s2 false b1) 0x10 3) ∧ (s2.toNat % 4 ≠ 0 → stops (.mqnt s1 s2 true b1) 0x10 3) ∧
      (∀ f g K L, tileFmts[fa.toNat]? = some (f, K) → tileFmts[fb.toNat]? = some (g, L) → K ≠ L → stops (.mmla acc s1 s2 fa fb b1) 0x10 3) ∧
      (b1 = false → s1 ≠ 0 → stops (.msto q acc out b1 s1 b2) 0x10 2) ∧
      (b1 = true ∨ s1 = 0 → out = 3 → stops (.msto q acc out b1 s1 b2) 0x10 3)) ∧
    ∀ p ∈ [(Instr.mzero acc, mzeroEffect c acc), (.mldo s1 q b1 imm, mldoEffect c s1 q b1 imm),
        (.mdeq s1 q blk b1, mdeqEffect c s1 q blk b1), (.mhad n s1 fa b1, mhadEffect c n s1 fa b1),
        (.mqnt s1 s2 b1 b2, mqntEffect c s1 s2 b1 b2), (.mmla acc s1 s2 fa fb b1, mmlaEffect c acc s1 s2 fa fb b1),
        (.msto q acc out b1 s1 b2, mstoEffect c q acc out b1 s1 b2)],
      (∀ ws us, p.2 = .ok ws us → s.arrayFree = true → ∃ t, exec p.1 s = .next t ∧ t.crew.tiles = (c.tileWriteAll ws).tiles ∧
        t.crew.slots = (c.tileWriteAll ws).slots ∧ t.crew.spad = (c.tileWriteAll ws).spad ∧ s.TileDone t) ∧
      (s.arrayFree = false → exec p.1 s = .next s) ∧
      (∀ code sub addr, p.2 = .bad code sub addr → s.arrayFree = true → ∃ t, exec p.1 s = .next t ∧ t.crew.seq.state = .faulted ∧
        t.crew.seq.pc = c.seq.pc ∧ t.crew.seq.fcode = BitVec.ofNat 8 code ∧ t.crew.seq.fsub = BitVec.ofNat 8 sub ∧
        t.crew.tiles = c.tiles ∧ t.crew.slots = c.slots)

/-- R241 to R244: `dlaunch` writes its record into slot j of device queue q and marks it filled, RESULT 0; a queue that is disabled or
not there gives 5, a slot not free yet 3, a slot consumed, filled or being filled already 4. `qnotify` raises a tail to the largest value
sent. A slot stands at a physical address (log 32) and is written at its home (log 7): where a home must first gather the tokens of its
sector, the register is busy until the record is written (log 47).
Choices of the model in it: logs 7, 28, 32, 47, 48. -/
def Obligations.DeviceLaunchResults : Prop :=
  ∀ (s : State) (e : Bool) (rd ra rb : SReg), s.startRelease.completeTo 2 = true → s.heldOn s.crew.die s.crew.core = [] →
    let d := s.crew.die
    let j := (s.rdS ra).toNat / 64
    let k : QueueId := Fin.ofNat 64 (s.rdS ra).toNat
    let g := (s.die d).ctl.dq[k]
    let a := (s.rdS rb).toNat
    let slot := g.base + 64 * (j % 2 ^ g.log)
    let asked := ∃ x ∈ (s.die d).port.asks, x.q = k.val ∧ x.j = j
    let gives := fun (t : State) (v : Word) => t.rdS rd = (if rd = 0 then (0 : Word) else v) ∧ (∀ r, r ≠ rd → t.rdS r = s.rdS r) ∧
      t.focus.pc = s.focus.pc + 4
    (s.waits [ra, rb] [rd] [] = none → a % 64 = 0 → a + 64 ≤ s.crew.hdr.scratch →
      (g.log ≠ 0 → g.head ≤ j → j < g.head + 2 ^ g.log → j ∉ g.filled → ¬ asked →
        ((∀ i, i < 64 → s.HomeFree ((slot + i) / 16)) → ∃ t, exec (.dlaunch e rd ra rb) s = .next t ∧ gives t 0 ∧
          (t.die d).ctl.dq[k] = { g with filled := g.filled ++ [j] } ∧ (s.watchedSteps = false → s.DevWrote t slot (s.crew.spBytes a 64))) ∧
        ((∀ i, i < 64 → ((s.home (s.homeOf (16 * ((slot + i) / 16)))).hold ((slot + i) / 16)).1 ≠ 16) →
          ∃ t x, exec (.dlaunch e rd ra rb) s = .next t ∧ (t.die d).port.asks = (s.die d).port.asks ++ [x] ∧ x.q = k.val ∧ x.j = j ∧
            (rd ≠ 0 → (rd.toNat, x.op) ∈ t.focus.busy) ∧ (t.die d).ctl.dq[k] = g ∧ (∀ r, t.rdS r = s.rdS r) ∧
            t.focus.pc = s.focus.pc + 4 ∧ (s.watchedSteps = false → s.DevWrote t slot (s.crew.spBytes a 64)))) ∧
      (g.log = 0 → ∃ t, exec (.dlaunch e rd ra rb) s = .next t ∧ gives t 5) ∧
      (g.log ≠ 0 → j < g.head ∨ j ∈ g.filled ∨ asked → ∃ t, exec (.dlaunch e rd ra rb) s = .next t ∧ gives t 4) ∧
      (g.log ≠ 0 → g.head + 2 ^ g.log ≤ j → j ∉ g.filled → ¬ asked → ∃ t, exec (.dlaunch e rd ra rb) s = .next t ∧ gives t 3)) ∧
    (s.waits [ra, rb] [] [] = none → ∃ t, exec (.qnotify e ra rb) s = .next t ∧
      (∀ r, t.rdS r = s.rdS r) ∧ t.focus.pc = s.focus.pc + 4 ∧
      ((s.rdS ra).toNat < 64 → g.log ≠ 0 → (t.die d).ctl.dq[k].tail = max g.tail (s.rdS rb).toNat) ∧
      (64 ≤ (s.rdS ra).toNat ∨ g.log = 0 → (t.die d).ctl.dq = (s.die d).ctl.dq))

/-- R261, R262, R264 to R266, R268, R269, R271 to R274: the strand's side of the Keyway. `kctx` binds a configured context that no other
crew has. A receive that nothing matches yet is posted, or for `kpull` ends with NOMATCH in its status word and record; one that a stored
message matches takes it: it asks the sender for a message of header only, and lands one that came whole. A send is handed over and, its
turn come, stamped with the next number of its channel, or on a broken channel ends with FAULT; with HOLD it is queued for the binning
engine. `kprobe` and `kcancel` are handed over, their register busy, and have their matching event later, in the order of their issue, those
of a context before any receive issued after them: `kprobe` tells whether an accepted message matches and takes nothing; `kcancel` removes
the earliest-posted receive with that record and answers 1, else 0.
Choices of the model in it: logs 28, 47, 57, 58. -/
def Obligations.KeywayIssue : Prop :=
  (∀ (s : State) (e : Bool) (rd ra rb : SReg), s.focused = true → s.focus.uid ≠ 0 → s.crew.uid ≠ 0 →
    s.heldOn s.crew.die s.crew.core = [] →
    let d := s.crew.die
    let a := (s.rdS ra).toNat
    let x : CtxId := Fin.ofNat 64 a
    let b := s.crew.spBytes a 64
    let y : CtxId := Fin.ofNat 64 (kCtx b)
    let on := fun (t : State) => ∃ z, t.strandOf s.focus.uid = some z ∧ z.pc = s.focus.pc + 4
    let status := fun (t : State) (v : Word) => ∃ z, t.strandOf s.focus.uid = some z ∧ z.pc = s.focus.pc + 4 ∧
      z.rdS rd = if rd = 0 then (0 : Word) else v
    let record := fun (t : State) (bs : List Byte) => ∃ k, t.crewOf s.crew.uid = some k ∧ k.spBytes (kRec b) 16 = bs
    -- the operation is handed to the Keyway, its register busy until its matching event
    let asked := fun (t : State) (q : KAsk) => (t.die d).key.asks = (s.die d).key.asks ++ [q] ∧ q.crew = s.crew.uid ∧
      (rd ≠ 0 → (rd.toNat, q.id) ∈ t.focus.busy) ∧ (∀ r, t.rdS r = s.rdS r) ∧ t.focus.pc = s.focus.pc + 4 ∧
      ∀ z, t.kctx d z = s.kctx d z
    let first := ∀ q ∈ (s.die d).key.asks, q.ctx ≠ kCtx b
    let chan := (kPkg b, kDie b)
    let offOk := a % 64 = 0 ∧ a + 64 ≤ s.crew.hdr.scratch
    let ltOk := (s.rdS rb).toNat % 8 = 0 ∧ (s.rdS rb).toNat + 8 ≤ s.crew.hdr.scratch
    (s.waits [ra] [rd] [] = none →
      (63 < a → ∃ t, exec (.kctx e rd ra) s = .next t ∧ s.Faulted t (s.recordOf 0x01 4 0)) ∧
      (a ≤ 63 → (s.kctx d x).configured = true → (s.kctx d x).bound = none ∨ (s.kctx d x).bound = some s.crew.uid →
        ∃ t, exec (.kctx e rd ra) s = .next t ∧ (t.kctx d x).bound = some s.crew.uid ∧ t.rdS rd = (if rd = 0 then (0 : Word) else 1) ∧
          (∀ r, r ≠ rd → t.rdS r = s.rdS r) ∧ t.focus.pc = s.focus.pc + 4) ∧
      (a ≤ 63 → ((s.kctx d x).configured = false ∨ ∃ c, (s.kctx d x).bound = some c ∧ c ≠ s.crew.uid) →
        ∃ t, exec (.kctx e rd ra) s = .next t ∧ t.kctx d x = s.kctx d x ∧ t.rdS rd = 0 ∧
          (∀ r, r ≠ rd → t.rdS r = s.rdS r) ∧ t.focus.pc = s.focus.pc + 4) ∧
      (offOk → s.kBad s.crew false true b = none → ∃ t q, exec (.kprobe e rd ra) s = .next t ∧ asked t q ∧ q.ctx = kCtx b ∧ q.off = kRec b ∧
        q.probe = some (kValue b, kMask b)) ∧
      (offOk → s.completeTo 1 = true → s.kBad s.crew false false b = none → ∀ i ∈ [Instr.kpost e rd ra, .kpull e rd ra],
        ∃ t, exec i s = .next t ∧ ∀ q ∈ (t.die d).key.asks, q.ctx ≠ kCtx b) ∧
      (offOk → first → s.completeTo 1 = true → s.kBad s.crew false false b = none → (s.kctx d y).find (kValue b) (kMask b) = none →
        (s.kctx d y).posted.length < 4096 → ∃ t n, exec (.kpost e rd ra) s = .next t ∧
          (t.kctx d y).posted = (s.kctx d y).posted ++ [n] ∧ (t.die d).key.recvs.length = (s.die d).key.recvs.length + 1 ∧ on t) ∧
      (offOk → first → s.completeTo 1 = true → s.kBad s.crew false false b = none → (s.kctx d y).find (kValue b) (kMask b) = none →
        s.crew.preempted = false → (s.die d).key.recvs = [] →
        ∃ t, exec (.kpull e rd ra) s = .next t ∧ (t.kctx d y).posted = (s.kctx d y).posted ∧ (t.die d).key.recvs = [] ∧ status t 8 ∧
          record t (List.replicate 12 0 ++ [8, 0, 0, 0])) ∧
      (∀ m : KStored, offOk → first → s.completeTo 1 = true → s.kBad s.crew false false b = none → (s.kctx d y).find (kValue b) (kMask b) = some m →
        s.crew.preempted = false → (s.die d).key.recvs = [] →
        ∀ i ∈ [Instr.kpost e rd ra, .kpull e rd ra],
          (m.msg.hdr.pull = true → m.msg.via = none → ∃ t q, exec i s = .next t ∧ on t ∧ (t.kctx d y).posted = (s.kctx d y).posted ∧
            (t.kctx d y).unexp = (s.kctx d y).unexp.filter (fun z => z.idx != m.idx) ∧
            (∃ f ∈ t.net, f.dst = .die m.msg.hdr.sdie ∧ f.msg = .pullReq q) ∧ q.send = m.msg.send ∧
            q.len = min m.msg.hdr.length.toNat (kBytes b)) ∧
          (m.msg.hdr.pull = false → kSpad b = true → m.msg.payload.length = m.msg.hdr.length.toNat →
            ∃ t, exec i s = .next t ∧ (t.kctx d y).posted = (s.kctx d y).posted ∧ (t.die d).key.recvs = [] ∧
              (t.kctx d y).unexp = (s.kctx d y).unexp.filter (fun z => z.idx != m.idx) ∧
              status t (if kBytes b < m.msg.hdr.length.toNat then 6 else 0))) ∧
      (offOk → s.startRelease.completeTo 5 = true → s.deferredStore = none → s.kBad s.crew true false b = none → kHold b = true →
        ∃ t k v, exec (.ksend e rd ra) s = .next t ∧ t.crewOf s.crew.uid = some k ∧
          k.bin.queue = s.crew.bin.queue ++ [.hold v] ∧ v.desc = b ∧ v.length = kBytes b ∧ on t) ∧
      (offOk → s.startRelease.completeTo 5 = true → s.deferredStore = none → s.kBad s.crew true false b = none → kHold b = false →
        s.crew.preempted = false → (s.die d).key.sends = [] →
        (assoc chan (s.kctx d y).broken = none → (4096 < kBytes b ∨ kSpad b = true) → ∃ t v h, exec (.ksend e rd ra) s = .next t ∧ on t ∧
          (t.die d).key.sends = [v] ∧ v.send.desc = b ∧ v.send.length = kBytes b ∧ v.stage = 1 ∧ v.hdr = some h ∧
          h.seq = numberOf chan (s.kctx d y).sendSeq ∧ numberOf chan (t.kctx d y).sendSeq = h.seq + 1 ∧
          h.length = BitVec.ofNat 32 (kBytes b) ∧ h.jobkey = (s.kctx d y).key ∧ h.pull = decide (4096 < kBytes b)) ∧
        (∀ sub, assoc chan (s.kctx d y).broken = some sub → ∃ t, exec (.ksend e rd ra) s = .next t ∧ (t.die d).key.sends = [] ∧
          status t (statusWord 0 sub 0x08 1)))) ∧
    (s.waits [ra, rb] [] [] = none → offOk → ltOk →
      (first → s.completeTo 1 = true → s.kBad s.crew false false b = none → (s.kctx d y).find (kValue b) (kMask b) = none →
        (s.kctx d y).posted.length < 4096 →
        (∃ t n, exec (.kpostLt e ra rb) s = .next t ∧ (t.kctx d y).posted = (s.kctx d y).posted ++ [n] ∧ on t) ∧
        (∃ t, exec (.kpullLt e ra rb) s = .next t ∧ (t.kctx d y).posted = (s.kctx d y).posted ∧ on t)) ∧
      (s.startRelease.completeTo 5 = true → s.deferredStore = none → s.kBad s.crew true false b = none → kHold b = true →
        ∃ t k v, exec (.ksendLt e ra rb) s = .next t ∧ t.crewOf s.crew.uid = some k ∧
          k.bin.queue = s.crew.bin.queue ++ [.hold v] ∧ v.done = .latch (s.rdS rb).toNat ∧ on t)) ∧
    (s.waits [ra, rb] [rd] [] = none → ∃ t q, exec (.kcancel e rd ra rb) s = .next t ∧ asked t q ∧ q.ctx = a ∧ q.off = (s.rdS rb).toNat ∧
      q.probe = none)) ∧
  ∀ (s : State) (d : DieId) (q : KAsk) (rest : List KAsk) (k : Crew), s.focused = false → (s.die d).key.asks = q :: rest →
    (∀ z ∈ rest, z.id ≠ q.id) → (s.die d).key.sends = [] → (∀ r ∈ (s.die d).key.recvs, r.msg = none) → s.crewOf q.crew = some k →
    k.preempted = false →
    let x : CtxId := Fin.ofNat 64 q.ctx
    let told := fun (t : State) (v : Word) => (t.die d).key.asks = rest ∧ ∀ u z, s.strandOf u = some z → z.state ≠ .done →
      ∀ r : SReg, r ≠ 0 → (r.toNat, q.id) ∈ z.busy → ∃ w, t.strandOf u = some w ∧ w.rdS r = v ∧ (r.toNat, q.id) ∉ w.busy
    (∀ p, q.probe = some p →
      ((s.kctx d x).find p.1 p.2 = none → ∃ t, s.runTurn (.keyway d) = .next t ∧ told t 0 ∧ t.kctx d x = s.kctx d x) ∧
      (∀ m, (s.kctx d x).find p.1 p.2 = some m → ∃ t c, s.runTurn (.keyway d) = .next t ∧ told t 1 ∧ t.kctx d x = s.kctx d x ∧
        t.crewOf q.crew = some c ∧
        c.spBytes q.off 16 = leBytes 8 (matchKey m.msg.hdr) ++ leBytes 4 m.msg.hdr.length.toNat ++ [0, 0, 0, 0])) ∧
    (q.probe = none →
      (63 < q.ctx ∨ (s.kctx d x).bound ≠ some q.crew ∨ s.postedAt d x q.off = none →
        ∃ t, s.runTurn (.keyway d) = .next t ∧ told t 0 ∧ t.kctx d x = s.kctx d x) ∧
      (∀ r, q.ctx ≤ 63 → (s.kctx d x).bound = some q.crew → s.postedAt d x q.off = some r → r.ctx = x → r.done ≠ .token q.id →
        ∃ t, s.runTurn (.keyway d) = .next t ∧ told t 1 ∧ (t.kctx d x).posted = (s.kctx d x).posted.filter (fun j => j != r.id) ∧
          (t.die d).key.recvs = (s.die d).key.recvs.filter (fun z => z.id != r.id)))

/-! ### Events (R326 to R343): what the host, the service OS, the engines, the token protocol and the ports make happen -/

/-- R331, R332, R336: what the host's requests do at a die that takes them. A launch joins its queue; a COPY is checked and waits, and
each of its completion events moves a run of its bytes, in ascending order, where their homes let it (log 75), and answers it with its
last byte; MAP, UNMAP and IMPORT write leaves at their homes (log 7) and answer once the invalidation is complete (shown of one leaf
whose tables are there, with nothing of the Keyway under way); EXPORT keeps the leaves under a handle the model leaves free (log 3);
an IMPORT from
outside the die's partition is denied (log 91); a SIGNAL whose counter is not 8-byte aligned, or whose operation is above 1, completes
BADREQ (log 72), and one that is held stays in its queue; RESET drops the launches without a crew; FILEGRANT grants an extent, and its revocation waits while a
COPY names the extent; QUERY answers in every state. Bad operands complete BADREQ.
Choices of the model in it: logs 7, 11, 70, 71, 72, 73, 74, 75, 82, 91, 99, 116. -/
def Obligations.HostRequests : Prop :=
  ∀ (s : State) (d : DieId) (q : QueueId) (tag : BitVec 32), s.focused = false → (s.die d).present = true → (s.die d).ready = true →
    let said := fun (t : State) (n : Nat) (v : Word) => (t.die d).face.responses = (s.die d).face.responses ++ [⟨tag, n, v⟩]
    let quiet := (s.die d).key.sends = [] ∧ (s.die d).key.recvs = []
    (∃ t b, exec (.query (.die d) tag) s = .next t ∧ said t 0 0 ∧ (t.die d).face.queries = (s.die d).face.queries ++ [(tag, b)] ∧
      b.length = 512 ∧ field b 0 2 = 1 ∧ field b 2 2 = s.pkgId.toNat ∧ field b 4 1 = s.liveDies.toNat ∧ field b 5 1 = d.val) ∧
    (∀ c ∈ (s.die d).copies, (s.die d).copies.find? (fun x => x.id == c.id) = some c →
      (s.die d).copies.find? (fun x => x.queue == c.queue) = some c → c.queue < 64 → c.ext = none → c.sig = none → c.stop = none →
      c.sent = false → c.pos ≤ c.len →
      let n := c.chunk
      let a := c.src + c.pos
      let b := c.dst + c.pos
      let ends := fun (t : State) => (∃ more, (t.die d).face.responses = (s.die d).face.responses ++ ⟨c.tag, 0, 0⟩ :: more) ∧
        (t.die d).copies = (s.die d).copies.filter (fun x => x.id != c.id)
      (c.pos < c.len → 0 < n ∧ c.pos + n ≤ c.len ∧
        (s.homeOpen (a / 16) = true → s.HomeFree (b / 16) → ∃ t, exec (.copyRequestComplete d c.id) s = .next t ∧
          (∀ x, t.memByte x = if b ≤ x ∧ x < b + n then s.memByte (a + (x - b)) else s.memByte x) ∧
          (c.pos + n < c.len → (t.die d).face = (s.die d).face ∧
            (t.die d).copies = (s.die d).copies.map (fun y => if y.id = c.id then { c with pos := c.pos + n } else y)) ∧
          (c.pos + n = c.len → ends t)) ∧
        (s.homeOpen (a / 16) = false → ∃ t, exec (.copyRequestComplete d c.id) s = .next t ∧ t.mem = s.mem ∧
          (t.die d).face = (s.die d).face ∧ (t.die d).copies.find? (fun x => x.id == c.id) = some c)) ∧
      (c.pos = c.len → ∃ t, exec (.copyRequestComplete d c.id) s = .next t ∧ t.mem = s.mem ∧ ends t)) ∧
    ((s.die d).face.takes = true →
      (∀ raw ws, s.subBusy d q = false → ws.length ≤ 4 → (∀ w ∈ ws, w.1.toNat % 8 = 0) → ∃ t e, exec (.launch d q tag raw ws) s = .next t ∧
        said t 0 0 ∧ t.queue d q = stampHead s.time (s.queue d q ++ [e]) ∧ e.raw = padTo 64 raw ∧ e.tag = tag ∧ e.grid = none ∧ e.hdr = none ∧
        e.waits.map (fun w => (w.addr, w.target)) = ws.filter (fun w => w.1 != 0)) ∧
      (∀ src dst len : Word, ∀ ext, s.subBusy d q = false → s.ownRange d src.toNat len.toNat = true → s.ownRange d dst.toNat len.toNat = true →
        s.carved src.toNat len.toNat = false → s.carved dst.toNat len.toNat = false → ∃ t c, exec (.copy d q tag src dst len ext 0) s = .next t ∧ (t.die d).copies = (s.die d).copies ++ [c] ∧ c.src = src.toNat ∧
          c.dst = dst.toNat ∧ c.len = len.toNat ∧ c.ext = none ∧ c.tag = tag ∧ c.queue = q.val ∧ t.mem = s.mem) ∧
      (∀ (va frame bits size : Word) (e : Nat), let z := size.setWidth 32
        quiet → mapOk va 1 z = true → frame.toNat % 65536 = 0 → frame.toNat < 2 ^ 48 → bits.toNat / 65536 % 2 ^ 32 = 0 →
        s.entryNow d (sizeLevel z) va.toNat = some e → ∃ t, exec (.map d tag va frame bits 1 z) s = .next t ∧
          s.DevWrote t e (leBytes 8 (bits ||| frame).toNat) ∧ t.WillAnswer d tag 0) ∧
      (∀ (va : Word) (z : BitVec 32) (e : Nat), quiet → mapOk va 1 z = true → s.entryNow d (sizeLevel z) va.toNat = some e →
        ∃ t, exec (.unmap d tag va 1 z) s = .next t ∧ s.DevWrote t e (leBytes 8 (s.tableWord e &&& ~~~(1 : Word)).toNat) ∧
          t.WillAnswer d tag 0) ∧
      (∀ (va len : Word) (ws : List Word), va.toNat % 65536 = 0 → len.toNat % 65536 = 0 → va.toNat + len.toNat ≤ 2 ^ 55 →
        s.pageLeaves d va.toNat (len.toNat / 65536) = .ok ws → (∀ w ∈ ws, pteFab w = false ∧ bit w 11 = false) →
        ∃ t, exec (.exportReq d tag va len 0) s = .next t ∧ said t 0 (Config.freeHandle s.free) ∧
          t.exports = s.exports ++ [⟨Config.freeHandle s.free, d, ws, false⟩]) ∧
      (∀ (h va : Word) (x : Export), s.exports.find? (fun y => y.handle == h) = some x →
        (s.die d).ctl.partition.getLsbD x.die.val = false → ∃ t, exec (.importReq d tag h va) s = .next t ∧ said t 2 0) ∧
      (∀ (h va : Word) (x : Export) (w : Word) (e : Nat), quiet → s.exports.find? (fun y => y.handle == h) = some x → x.rep = false →
        (s.die d).ctl.partition.getLsbD x.die.val = true → x.leaves = [w] → va.toNat % 65536 = 0 → va.toNat + 65536 ≤ 2 ^ 55 → s.entryNow d 2 va.toNat = some e →
        (∀ p e', p % 65536 = 0 → p / 2 ^ 21 = va.toNat / 2 ^ 21 → p ≠ va.toNat → s.entryNow d 2 p = some e' → bit (s.tableWord e') 8 = false) →
        ∃ t, exec (.importReq d tag h va) s = .next t ∧ s.DevWrote t e (leBytes 8 (peerLeaf x.die w).toNat) ∧ t.WillAnswer d tag 0) ∧
      (∀ h va : Word, s.exports.find? (fun y => y.handle == h) = none → ∃ t, exec (.importReq d tag h va) s = .next t ∧ said t 1 0) ∧
      (∀ (ctr x : Word) (op : BitVec 32), s.subBusy d q = false → (ctr.toNat % 8 ≠ 0 ∨ 1 < op.toNat →
          ∃ t, exec (.signal d q tag ctr x op) s = .next t ∧ said t 1 0) ∧
        (ctr.toNat % 8 = 0 → op.toNat ≤ 1 → ∀ w,
          s.counterAtomic d (tag.toNat, 1000 + q.val) ctr.toNat (if op = 0 then .xchg else .add) x = (w, .done) →
          exec (.signal d q tag ctr x op) s = .next (w.answer d tag 0 0)) ∧
        (ctr.toNat % 8 = 0 → op.toNat ≤ 1 → ∀ w code sub,
          s.counterAtomic d (tag.toNat, 1000 + q.val) ctr.toNat (if op = 0 then .xchg else .add) x = (w, .bad code sub) →
          exec (.signal d q tag ctr x op) s = .next (w.answer d tag 6 (BitVec.ofNat 64 (code * 256 + sub)))) ∧
        (ctr.toNat % 8 = 0 → op.toNat ≤ 1 → ∀ w,
          s.counterAtomic d (tag.toNat, 1000 + q.val) ctr.toNat (if op = 0 then .xchg else .add) x = (w, .wait) →
          ∃ t c, exec (.signal d q tag ctr x op) s = .next t ∧ (t.die d).copies = (w.die d).copies ++ [c] ∧ c.queue = q.val ∧
            c.tag = tag ∧ c.dst = ctr.toNat ∧ c.sig = some (if op = 0 then .xchg else .add, x) ∧ t.mem = w.mem)) ∧
      (∀ n : BitVec 32, (n.toNat < 64 → let k : QueueId := Fin.ofNat 64 n.toNat
          ∃ t, exec (.reset d tag n) s = .next t ∧ said t 0 0 ∧ t.queue d k = stampHead s.time ((s.queue d k).filter (fun e => e.grid.isSome)) ∧
            (t.die d).port.ends.length = (s.die d).port.ends.length + ((s.queue d k).filter (fun e => e.grid.isNone)).length) ∧
        (64 ≤ n.toNat → ∃ t, exec (.reset d tag n) s = .next t ∧ said t 1 0)) ∧
      (∀ (ext access : BitVec 32) (base len : Word), access.toNat ≤ 3 → len ≠ 0 → inHost base.toNat = true →
        inHost (base.toNat + len.toNat - 1) = true → (s.extent d ext.toNat).any (fun e => !e.revoking.isEmpty) = false →
        ∃ t, exec (.filegrant d tag ext access base len) s = .next t ∧ said t 0 0 ∧
          t.extent d ext.toNat = some ⟨ext.toNat, access.getLsbD 0, access.getLsbD 1, base.toNat, len.toNat, []⟩) ∧
      (∀ (ext access : BitVec 32) (base : Word) (x : Extent), access.toNat ≤ 3 → (s.die d).extents = [x] → x.id = ext.toNat → x.revoking = [] →
        (∃ c ∈ (s.die d).copies, c.ext = some x.id) → ∃ t, exec (.filegrant d tag ext access base 0) s = .next t ∧
          (t.die d).extents = [{ x with revoking := [tag] }] ∧ (t.die d).face = (s.die d).face))

/-- R304, R305, R311, R313, R322, R328, R331, R333, R337, R338, R340, R341: the management function's requests, which a die's function
answers BADREQ; a firmware image is answered once its bytes have come from the host (log 109) and it is written; TDISP, whose STOP leaves every state (PRESUMED, log 77); uncorrectable
errors; the reset of a die, which the last acknowledgement completes once there are frames for its root table and its rings (log 78), and
of the package; the clocks at the energy window.
Choices of the model in it: logs 5, 66, 77, 78, 79, 80, 109. -/
def Obligations.ManagementEvents : Prop :=
  ∀ (s : State) (d : DieId) (tag : BitVec 32), s.focused = false →
    let saidM := fun (t : State) (n : Nat) => t.mgmt.responses = s.mgmt.responses ++ [⟨tag, n, 0⟩]
    let tdisp := fun (x : State) (f : FuncId) => match f with
      | .die d => (x.die d).face.tdisp
      | .mgmt => x.mgmt.tdisp
    (∀ (addr len word baddr : Word) (n q i kind mask : BitVec 8) (ltag : BitVec 32),
      ((s.die d).present = true → (s.die d).ready = true → (s.die d).face.takes = true →
        ∀ x ∈ [Instr.fwupdate (.die d) tag addr len, .debugset (.die d) tag n q ltag word, .brkset (.die d) tag n i kind mask baddr],
          ∃ t, exec x s = .next t ∧ (t.die d).face.responses = (s.die d).face.responses ++ [⟨tag, 1, 0⟩]) ∧
      (s.mgmt.takes = true → s.fwBusy = none → (len = 0 ∨ (addr.toNat / 2 ^ 44 = 4 ∧ (addr.toNat + len.toNat - 1) / 2 ^ 44 = 4)) →
        ∃ t, exec (.fwupdate .mgmt tag addr len) s = .next t ∧ t.fwImage = none ∧ t.fwBusy = some (tag, addr.toNat, len.toNat) ∧ t.mgmt = s.mgmt) ∧
      (s.fwBusy = some (tag, addr.toNat, len.toNat) →
        (s.absent addr.toNat len.toNat = [] → ∃ t cells, State.runTurn s .fwWritten = .next t ∧ t.fwBusy = none ∧
          t.fwImage = some (len.toNat, cells) ∧ saidM t 0 ∧
          ∀ i b, (i, b) ∈ cells ↔ i < len.toNat ∧ b ≠ 0 ∧ b = sectorByte (s.performed ((addr.toNat + i) / 16)) ((addr.toNat + i) % 16)) ∧
        (s.absent addr.toNat len.toNat ≠ [] → ∃ t, State.runTurn s .fwWritten = .next t ∧ t.fwBusy = s.fwBusy ∧ t.fwImage = s.fwImage ∧
          t.mgmt = s.mgmt)) ∧
      (s.mgmt.takes = true → s.recovery = false → n.toNat < 8 → let e : DieId := Fin.ofNat 8 n.toNat
        (s.die e).present = true →
        (q.toNat < 64 → word.toNat < 4 → ∃ t, exec (.debugset .mgmt tag n q 0 word) s = .next t ∧ saidM t 0 ∧
          look q.toNat (t.die e).port.debugQ = some word) ∧
        (i.toNat < 4 → kind.toNat ≤ 4 → 2 ≤ mask.toNat → mask.toNat ≤ 16 → baddr.toNat % 2 ^ mask.toNat = 0 →
          ∃ t, exec (.brkset .mgmt tag n i kind mask baddr) s = .next t ∧ saidM t 0 ∧
            (t.die e).ctl.brk[i.toNat]? = some ⟨baddr, mask.toNat, kind.toNat⟩))) ∧
    (∃ t b, exec (.query .mgmt tag) s = .next t ∧ saidM t 0 ∧ t.mgmt.queries = s.mgmt.queries ++ [(tag, b)] ∧ b.length = 512 ∧
      field b 5 1 = 0xFF) ∧
    (∀ f : FuncId,
      (∃ t, exec (.lockInterfaceRequest f) s = .next t ∧
        tdisp t f = if tdisp s f = Tdisp.configUnlocked then Tdisp.configLocked else tdisp s f) ∧
      (∃ t, exec (.startInterfaceRequest f) s = .next t ∧ tdisp t f = if tdisp s f = Tdisp.configLocked then Tdisp.run else tdisp s f) ∧
      (∃ t, exec (.tdispStop f) s = .next t ∧ tdisp t f = Tdisp.configUnlocked)) ∧
    (∀ (sub : BitVec 8) (addr : Word), 1 ≤ sub.toNat → sub.toNat ≤ 6 → ∃ t, exec (.machine d sub addr) s = .next t ∧
      (∀ k ∈ t.crews, k.die ≠ d) ∧ (t.die d).port.grids = [] ∧
      (0 < s.mgmt.free → ∃ b, t.mgmt.events = s.mgmt.events ++ [b] ∧ field b 0 1 = 2 ∧ field b 32 1 = 0x13 ∧ field b 33 1 = sub.toNat)) ∧
    ((s.die d).present = true → ∃ t, exec (.functionLevelReset d) s = .next t ∧ (t.die d).ready = false ∧ (t.die d).enabled = false ∧
      (∀ k ∈ t.crews, k.die ≠ d) ∧ (t.die d).ctl = Ctl.reset ∧ (t.die d).resetAcks = s.allHomes ∧ (t.die d).extents = []) ∧
    (∀ h : Home, h ∈ (s.die d).resetAcks → (∀ f ∈ s.net, f.dst = .home h → ∀ m p, f.msg = .tok m p → m.src ≠ .die d) →
      let u := s.modDie d (fun x => { x with resetAcks := x.resetAcks.filter (fun y => y != h) })
      ((u.die d).resetAcks ≠ [] → exec (.resetTokenAck d h) s = .next u) ∧
      ((u.die d).resetAcks = [] →
        (∀ n t, u.resetDone d = (n, some t) → exec (.resetTokenAck d h) s = .next t ∧ (t.die d).ready = true ∧ (t.die d).enabled = true ∧
          (t.die d).resetAcks = [] ∧ (t.die d).ctl.root ≠ 0) ∧
        (∀ n, u.resetDone d = (n, none) → exec (.resetTokenAck d h) s = .next { s with free := n }))) ∧
    (∀ b : BringUp, ∃ t, let ok := b.imageOk && s.fwImage.isSome
      exec (.bringUp b) s = .next t ∧ t.booted = ok ∧ t.recovery = !ok ∧ t.strands = [] ∧ t.crews = [] ∧
      t.time = 0 ∧ t.pkgId = b.pkgId ∧ t.fwImage = s.fwImage ∧ ∀ e : DieId, (t.die e).present = (ok && b.dies.getLsbD e.val)) ∧
    (∃ t, exec (.clockStepDown d) s = .next t ∧ (t.die d).rate = (if 12 < (s.die d).rate then (s.die d).rate - 1 else (s.die d).rate) ∧
      ∀ e, e ≠ d → t.die e = s.die e) ∧
    (∀ n, (s.window * 100000 ≤ s.time → ∃ t, exec (.energyWindow n) s = .next t ∧ t.window = s.window + 1 ∧ ∀ e : DieId,
        (s.die e).present = true → (t.die e).ctl.clkmode = (s.die e).ctl.clkNext ∧ (t.die e).rate = clockCap (s.die e).ctl.clkNext) ∧
      (s.time < s.window * 100000 → exec (.energyWindow n) s = .next s))

/-- R83, R261, R265, R277, R278, R282, R289, R291, R294, R302, R328, R329, R333, R334: writes of the service OS. Each takes effect where its
limits hold, and else leaves the register as it was; a page-table store to an address outside every range of R297 faults. Table entries
and ring records are written at physical addresses (log 32), where they stand at their homes (log 7).
Choices of the model in it: logs 7, 12, 32, 61, 76, 83. -/
def Obligations.ServiceWrites : Prop :=
  ∀ (s : State) (d : DieId) (c : CtxId) (q : QueueId) (v w ring plist : Word), s.focused = false →
    let ctl := (s.die d).ctl
    (∃ t, exec (.clkmodeWrite d v) s = .next t ∧ (t.die d).ctl = if clkmodeOk v then { ctl with clkNext := v } else ctl) ∧
    (∃ t, exec (.cohmodeWrite d v) s = .next t ∧ (t.die d).ctl = if cohmodeOk v then { ctl with cohmode := v } else ctl) ∧
    (v = 0 ∨ (v.toNat % 65536 = 0 ∧ s.paOk v.toNat = true) → ∃ t, exec (.rootWrite d v) s = .next t ∧
      (t.die d).ctl = { ctl with root := v.toNat }) ∧
    (v ≠ 0 → v.toNat % 65536 ≠ 0 ∨ s.paOk v.toNat = false → exec (.rootWrite d v) s = .next s) ∧
    (∀ n : BitVec 32,
      (∃ t, exec (.trapheadWrite d n) s = .next t ∧ (t.die d).ctl.trap = if ctl.trap.headOk n.toNat then { ctl.trap with head := n.toNat } else ctl.trap) ∧
      (∃ t, exec (.fltheadWrite d n) s = .next t ∧ (t.die d).ctl.flt = if ctl.flt.headOk n.toNat then { ctl.flt with head := n.toNat } else ctl.flt)) ∧
    ((s.kctx d c).bound.isSome = true → exec (.kctxWrite d c w ring plist) s = .next s) ∧
    ((s.kctx d c).bound = none → w.toNat / 2 ^ 40 = 2 ^ 23 → w.toNat / 2 ^ 32 % 256 ≤ 16 →
      let n := 4160 * 2 ^ (w.toNat / 2 ^ 32 % 256)
      ring.toNat % n = 0 → s.ownRange d ring.toNat n = true → s.ownRange d plist.toNat postedArea = true → ∃ t, exec (.kctxWrite d c w ring plist) s = .next t ∧
        t.kctx d c = { s.kctx d c with w0 := w, ring := ring, plist := plist, expect := [], sendSeq := [], broken := [] }) ∧
    (∀ (pkg : BitVec 16) (e : DieId), let n := BitVec.ofNat 64 (2 ^ 63 + 2 ^ 62 + e.val * 2 ^ 32 + pkg.toNat * 2 ^ 16 + c.val)
      ∃ t, exec (.kchreset d n) s = .next t ∧ assoc (pkg.toNat, e.val) (t.kctx d c).sendSeq = none ∧
        assoc (pkg.toNat, e.val) (t.kctx d c).expect = none ∧ assoc (pkg.toNat, e.val) (t.kctx d c).broken = none) ∧
    (∀ n : BitVec 8, let g := 2 ^ n.toNat
      (4 ≤ n.toNat → n.toNat ≤ 16 → s.ringOk v.toNat (64 * g) = true → ∃ t, exec (.registerWrite (.trapRing d v n)) s = .next t ∧
        (t.die d).ctl = { ctl with trap := ⟨v.toNat, n.toNat, 0, 0⟩ }) ∧
      (4 ≤ n.toNat → n.toNat ≤ 16 → s.ringOk v.toNat (32 * g) = true → ∃ t, exec (.registerWrite (.faultRing d v n)) s = .next t ∧
        (t.die d).ctl = { ctl with flt := ⟨v.toNat, n.toNat, 0, 0⟩ }) ∧
      (n.toNat < 4 ∨ 16 < n.toNat → exec (.registerWrite (.trapRing d v n)) s = .next s ∧ exec (.registerWrite (.faultRing d v n)) s = .next s)) ∧
    (v.toNat % 65536 = 0 → w.toNat % 65536 = 0 → v.toNat + w.toNat ≤ 2 ^ 55 → ∃ t, exec (.registerWrite (.stkpool d q v w)) s = .next t ∧
      (t.die d).ctl.pools[q] = (v.toNat, w.toNat)) ∧
    (v.toNat % 65536 ≠ 0 ∨ w.toNat % 65536 ≠ 0 ∨ 2 ^ 55 < v.toNat + w.toNat → exec (.registerWrite (.stkpool d q v w)) s = .next s) ∧
    (∀ (i : Byte) (key : BitVec 32), ∃ t, exec (.registerWrite (.keytab d i key)) s = .next t ∧
      lookD 0 i.toNat (t.die d).ctl.keytab = key ∧ ∀ j, j ≠ i.toNat → lookD 0 j (t.die d).ctl.keytab = lookD 0 j ctl.keytab) ∧
    (∀ (g : Byte) (m : BitVec 6), let k := 64 * g.toNat + m.toNat
      (v.toNat % 65536 = 0 → v.toNat / 2 ^ 48 % 2 ^ 15 = 0 → ∃ t, exec (.registerWrite (.mcgrp d g m v)) s = .next t ∧
        lookD 0 k (t.die d).ctl.mcgrp = v ∧ ∀ j, j ≠ k → lookD 0 j (t.die d).ctl.mcgrp = lookD 0 j ctl.mcgrp) ∧
      (v.toNat % 65536 ≠ 0 ∨ v.toNat / 2 ^ 48 % 2 ^ 15 ≠ 0 → exec (.registerWrite (.mcgrp d g m v)) s = .next s)) ∧
    (∀ p : Byte, ∃ t, exec (.registerWrite (.partition d p)) s = .next t ∧ (t.die d).ctl = { ctl with partition := p }) ∧
    (∃ t, exec (.registerWrite (.dqcfg d q v 0 w)) s = .next t ∧ (t.die d).ctl.dq[q].log = 0) ∧
    (∀ n : Word, let ok := n.toNat ≤ 57 ∧ w.toNat % 8 = 0 ∧ s.paOk w.toNat = true ∧ s.ringOk v.toNat (64 * 2 ^ n.toNat) = true
      n ≠ 0 →
      (ok → ∃ t, exec (.registerWrite (.dqcfg d q v n w)) s = .next t ∧ (t.die d).ctl.dq[q] = ⟨v.toNat, n.toNat, w.toNat, 0, 0, []⟩) ∧
      (¬ ok → exec (.registerWrite (.dqcfg d q v n w)) s = .next s)) ∧
    (∀ (p : PortId) (e : BitVec 4),
      (v.toNat / 2 ^ 32 % 2 ^ 31 = 0 → ∃ t, exec (.registerWrite (.portmemb p e v)) s = .next t ∧
        lookD 0 e.toNat t.ports[p].memb = v ∧ ∀ j, j ≠ e.toNat → lookD 0 j t.ports[p].memb = lookD 0 j s.ports[p].memb) ∧
      (v.toNat / 2 ^ 32 % 2 ^ 31 ≠ 0 → exec (.registerWrite (.portmemb p e v)) s = .next s)) ∧
    (∀ x : BitVec 16, let ok := v.toNat / 2 ^ 48 % 2 ^ 15 = 0 ∧ v.toNat / 8 % 2 ^ 13 = 0 ∧ v.toNat % 2 = 0
      (ok → ∃ t, exec (.registerWrite (.fabwin x v)) s = .next t ∧
        lookD 0 x.toNat t.fabwin = v ∧ ∀ j, j ≠ x.toNat → lookD 0 j t.fabwin = lookD 0 j s.fabwin) ∧
      (¬ ok → exec (.registerWrite (.fabwin x v)) s = .next s)) ∧
    (s.paOk v.toNat = true → v.toNat % 8 = 0 → ∃ t, exec (.pageTableStore v.toNat w) s = .next t ∧
      s.DevWrote t v.toNat (leBytes 8 w.toNat)) ∧
    (s.paOk v.toNat = false → exec (.pageTableStore v.toNat w) s = .fault (.noSuchPhysicalAddress v.toNat)) ∧
    (∀ r rest, ctl.fltWait = r :: rest → ctl.flt.full = false → ∃ t, exec (.faultRingWrite d) s = .next t ∧ (t.die d).ctl.fltWait = rest ∧
      (t.die d).ctl.flt.tail = (ctl.flt.tail + 1) % 2 ^ 32 ∧
      s.DevWrote t (ctl.flt.base + 32 * (ctl.flt.tail % 2 ^ ctl.flt.log)) r.bytes) ∧
    (∀ u rest x k, ctl.trapWait = u :: rest → ctl.trap.full = false → s.strandOf u = some x → s.crewOf x.crew = some k →
      ∃ t, exec (.trapRingWrite d) s = .next t ∧ (t.die d).ctl.trapWait = rest ∧ (t.die d).ctl.trap.tail = (ctl.trap.tail + 1) % 2 ^ 32 ∧
        s.DevWrote t (ctl.trap.base + 64 * (ctl.trap.tail % 2 ^ ctl.trap.log)) (callRecord k x (trapNumber x.cur))) ∧
    (s.paOk v.toNat = true → v.toNat % 8 ≠ 0 → exec (.pageTableStore v.toNat w) s = .next s) ∧
    (∀ va len, (s.die d).key.sends = [] → (s.die d).key.recvs = [] →
      ∃ t, exec (.tlbInvalidate d va len) s = .next t ∧ (∀ l ∈ (t.die d).l2tlb, l.meets va len = false) ∧
        (∀ k, ∀ l ∈ (t.core d k).tlb, l.meets va len = false) ∧ t.mem = s.mem) ∧
    ((s.die d).face.held = [] → ∃ t, exec (.eventQueueEntryFree (.die d)) s = .next t ∧ (t.die d).face.free = (s.die d).face.free + 1) ∧
    (∀ e rest, s.mgmt.held = e :: rest → ∃ t, exec (.eventQueueEntryFree .mgmt) s = .next t ∧ t.mgmt.events = s.mgmt.events ++ [e] ∧
      t.mgmt.held = rest)

/-- R7, R9, R13, R38, R45, R77, R162, R168, R187 to R193, R198, R239 to R241, R258, R302, R306 to R310, R315 to R317, R319, R323, R326, R327,
R333: what happens to strands, crews, engines, launches and the core between instructions. A strand that takes an issue slot goes on in
its run; a stream asks for the lines of its next element, and stops at its end or at a translation that fails. The slot of a device
queue, its head word and a context image are read and written at physical addresses (log 32), where they stand at their homes (log 7).
A launch's first crew is admitted once the host's bytes of the executable pages are here, and asks for them before (log 93); a pre-empted
crew is not resumed before a head of higher effective priority (log 53).
Choices of the model in it: logs 2, 7, 32, 38, 42, 49, 52, 53, 54, 55, 60, 68, 69, 90, 92, 93, 94, 95, 101, 106. -/
def Obligations.CoreEvents : Prop :=
  ∀ (s : State) (d : DieId) (core : CoreId) (qt : QuarterId) (q : QueueId) (c : Nat) (k : Crew), s.focused = false →
    (∀ x ∈ s.strands, s.strandOf x.uid = some x → s.onQuarter d core qt x = true → x.state = .ready → s.stopped x = false → x.cls ≤ 3 →
      ((s.strands.filter (s.onQuarter d core qt)).filter (fun y => y.state == .issuing)).length < 2 →
      (∀ y ∈ s.strands, s.onQuarter d core qt y = true → y.state = .ready → s.stopped y = false → y ≠ x → y.uid ≠ x.uid ∧
        (x.cls < y.cls ∨ (x.cls = y.cls ∧ x.joinSeq < y.joinSeq))) →
      ∃ t y, exec (.slotFill d core qt) s = .next t ∧ t.strandOf x.uid = some y ∧ y.state = .issuing ∧ y.run = x.run ∧
        y.began = (if x.run = 0 then s.fresh else x.began) ∧ y.cls = x.baseCls ∧ y.s = x.s ∧ y.pc = x.pc) ∧
    (∀ (u : Nat) (x : Strand) (a b w : State) (rd ra rb : SReg) (dl sec since : Nat) (rr : Option Nat) (wk : Bool) (e : Elem) (v : Word),
      u ≠ 0 → s.strandOf u = some x → s.take u = some a → a.crew.preempted = false → x.state = .parked → x.cur = .waitc rd ra rb →
      x.park = some (.wait (.waitc dl rr sec wk since)) → a.checkElems .load 8 [(0, (x.rdS ra).toNat)] = (b, [e], none) →
      (b.setFocus { b.focus with state := .issuing, park := none }).waitcRead e = (w, some v) →
      let begun := if x.noLook then s.time else since
      ∀ p ∈ [(Instr.waitcWake u, wk = true), (.waitcReread u, ∃ r, rr = some r ∧ r ≤ s.time), (.waitcTimeout u, dl ≤ s.time)], p.2 →
        (v ≠ x.rdS rb → ∃ t z, exec p.1 s = .next t ∧ t.strandOf u = some z ∧ z.rdS rd = (if rd = 0 then (0 : Word) else 1) ∧
          (∀ r, r ≠ rd → z.rdS r = x.rdS r) ∧ z.pc = x.pc + 4) ∧
        (v = x.rdS rb → dl ≤ s.time → dl < begun + 2000 → ∃ t z, exec p.1 s = .next t ∧ t.strandOf u = some z ∧ z.rdS rd = 0 ∧
          (∀ r, r ≠ rd → z.rdS r = x.rdS r) ∧ z.pc = x.pc + 4) ∧
        (v = x.rdS rb → s.time < dl → ∃ t z r, exec p.1 s = .next t ∧ t.strandOf u = some z ∧
          z.park = some (.wait (.waitc dl r (e.pa / 16) false begun)) ∧ (∀ r, z.rdS r = x.rdS r) ∧ z.pc = x.pc)) ∧
    (∀ e rest, s.queue d q = e :: rest →
      (∃ t, exec (.priorityAging d q) s = .next t ∧
        t.queue d q = stampHead s.time ({ e with aged := min 3 (max e.aged (hundreds s.time e.readyAt)) } :: rest)) ∧
      (∀ p, e.passedAt = some p → p + 100000 ≤ s.time → (s.die d).port.reserved = none →
        ∃ t, exec (.passoverTimeout d q) s = .next t ∧ (t.die d).port.reserved = some q.val) ∧
      (∀ w u l, e.waits = [w] → w.met = false → s.dieCheck d .load w.addr.toNat = (u, .ok l) → pteFab l.pte = false → ptePlace l.pte = 0 →
        u.farOf d (e.id, 0) = none → let pa := leafPa l w.addr.toNat
        let h := u.holdOf (.die d) (pa / 16)
        h.count ≠ 0 → h.known = true → (u.pendings d).any (fun x => x.sec == pa / 16) = false →
        let m := decide (w.target.toNat ≤ leNat ((((below 16).map (sectorByte h.data)).drop (pa % 16)).take 8))
        ∃ t, exec (.waitMet d q) s = .next t ∧ t.queue d q = stampHead s.time ({ e with waits := [{ w with seen := true, met := m }] } :: rest))) ∧
    (∀ p x t, allOfQueues.foldl (fun s q => s.prepare d q) s = p → p.undecided d = false → leastBy (p.headKey d) (p.tryable d) = some x →
      (p.tryable d).any (fun x => x.e.grid.isNone) = false ∨ p.imageMissing d = [] → x.h.coop = false → p.admitHead d x = .done t → ∃ y, exec (.crewAdmission d) s = .next t ∧ t.crewOf p.fresh = some y ∧ y.die = d ∧
        y.preempted = false ∧ y.spad = [] ∧ y.slots = [] ∧ (t.core d y.core).l1 = []) ∧
    (∀ p, allOfQueues.foldl (fun s q => s.prepare d q) s = p → p.undecided d = false →
      (p.tryable d).any (fun x => x.e.grid.isNone) = true → p.imageMissing d ≠ [] →
      exec (.crewAdmission d) s = .next (p.imageAsk d (p.imageMissing d))) ∧
    (∀ n e, (s.die d).port.ends[n]? = some e → (s.die d).port.ends.find? (fun x => x.id == e.id) = some e → e.counter = 0 →
      s.launchPending d e.grid = false → (s.die d).face.free ≠ 0 → ∃ t, exec (.launchEvent d n) s = .next t ∧
        (t.die d).face.events = (s.die d).face.events ++ [e.bytes] ∧ (t.die d).face.free = (s.die d).face.free - 1 ∧
        (t.die d).port.ends = (s.die d).port.ends.filter (fun x => x.id != e.id)) ∧
    (∀ g, (s.die d).ctl.dq[q] = g → g.log ≠ 0 → g.head < g.tail → g.head ∈ g.filled → let slot := g.base + 64 * (g.head % 2 ^ g.log)
      ((∀ i, i < 64 → s.HomeFree ((slot + i) / 16)) → ∃ t e, exec (.deviceSlotConsume d q) s = .next t ∧
        t.queue d q = stampHead s.time (s.queue d q ++ [e]) ∧ e.raw = (below 64).map (fun i => s.memByte (slot + i)) ∧
        e.device = true ∧ e.grid = none ∧ (t.die d).ctl.dq[q].head = g.head + 1 ∧ s.DevWrote t g.headAt (leBytes 8 (g.head + 1))) ∧
      ((∃ i, i < 64 ∧ s.homeOpen ((slot + i) / 16) = false) → ∃ t, exec (.deviceSlotConsume d q) s = .next t ∧
        t.queue d q = s.queue d q ∧ (t.die d).ctl.dq[q] = g ∧ t.mem = s.mem)) ∧
    (∀ w i ws us, (s.core d core).array = none → (s.tileOrder d core).findSome? (fun u => s.readyTile u) = some (w, i) →
      tileEffect w.crew i = some (.ok ws us) → ∃ t, exec (.tileOpStart d core) s = .next t ∧
        (t.core d core).array = some ⟨w.crew.uid, ws, us, 0⟩) ∧
    (s.crewOf c = some k →
      (∀ a, (s.core d core).array = some a → a.crew = c → k.seq.state = .running → ∃ t y, exec (.tileOpComplete d core) s = .next t ∧
        (t.core d core).array = none ∧ t.crewOf c = some y ∧ y.tiles = (k.tileWriteAll a.writes).tiles ∧
        y.slots = (k.tileWriteAll a.writes).slots ∧ y.spad = (k.tileWriteAll a.writes).spad ∧ y.seq.pc = k.seq.pc + 4 ∧
        (k.die = d → k.core = core → k.ended.isSome = true → y.seq.state = .stopped)) ∧
      (∀ r, s.endingRecord k = some r → (s.die k.die).ctl.fltWait.contains r = false → ∃ t y, exec (.crewEnd c) s = .next t ∧
        t.crewOf c = some y ∧ y.ended = some (k.ended.getD r) ∧ (s.arrayOf k = false → y.seq.state = .stopped) ∧
        (∀ x ∈ t.strands, x.crew = c → x.state = .done ∨ x.state = .ejectWait) ∧
        ∀ x ∈ s.strands, x.crew = c → s.strandOf x.uid = some x → x.joins = 0 → x.loading = false →
          ∃ w, t.strandOf x.uid = some w ∧ w.state = .done) ∧
      (s.crewDone k = true → (s.lateStore k = none ∨ s.faultRingBusy k.die = false) → ∃ t, exec (.crewComplete c) s = .next t ∧ (∀ y ∈ t.crews, y.uid ≠ c) ∧ ∀ x ∈ t.strands, x.crew ≠ c) ∧
      (∀ image, k.preempted = false → s.imageFits k image = true → let k' := { k with stopping := some image }
        let u := s.modCrew c (fun _ => k')
        (u.halting k' = true → u.canSave k' = true → ∃ t y, exec (.preempt c image) s = .next t ∧ t.crewOf c = some y ∧ y.preempted = true ∧
          y.stopping = none ∧ (s.HomeFree (image / 16) → ∀ i, i < 4 → t.memByte (image + i) = (leBytes 4 0x48454C44).getD i 0)) ∧
        (u.halting k' = false ∨ u.canSave k' = false → exec (.preempt c image) s = .next u)) ∧
      (s.headFirst k.die k.rec_.prio = true → exec (.crewResume c core) s = .next s) ∧
      (∀ t, c ≠ 0 → k.preempted = true → k.hdr.coop = false → s.headFirst k.die k.rec_.prio = false → s.resumeCrew k core = some t → ∃ y, exec (.crewResume c core) s = .next t ∧
        t.crewOf c = some y ∧ y.preempted = false ∧ y.core = core) ∧
      (k.preempted = true → k.hdr.coop = true → let rest := (s.crewsOf k.die k.slot).filter (fun x => x.uid != c)
        (∀ t, s.headFirst k.die k.rec_.prio = false → (∀ y ∈ rest, y.preempted = true) → (s.resumeCrew k core).bind (fun u => u.resumeRest k.die rest) = some t →
          exec (.crewResume c core) s = .next t) ∧
        ((∃ y ∈ rest, y.preempted = false) → exec (.crewResume c core) s = .next s)) ∧
      (∀ n m rest, k.bin.held = [] → k.bin.queue = .init m n :: rest → k.preempted = false → ∃ t y, exec (.binningComplete c) s = .next t ∧
        t.crewOf c = some y ∧ y.bin.n = n ∧ y.bin.counts = [] ∧ y.bin.queue = rest) ∧
      (∀ m, ∃ t y, exec (.copyResume c m) s = .next t ∧ t.crewOf c = some y ∧
        y.copies = k.copies.map (fun o => if o.id = m ∧ s.canResume k.die o = true then { o with stopped := none } else o)) ∧
      (∀ x h, c ≠ 0 → k.streams.find? (fun y => y.handle == h) = some x → x.running = true → k.preempted = false → sCount x.desc ≤ x.next →
        ∃ t y, exec (.streamLineRequest c h) s = .next t ∧ t.crewOf c = some y ∧
          y.streams = k.streams.map (fun y => if y.handle = h then { y with running := false } else y)) ∧
      (∀ x h a w ok, c ≠ 0 → k.streams.find? (fun y => y.handle == h) = some x → x.running = true → k.preempted = false → x.next < sCount x.desc →
        (sLines x (x.next + 1)).length ≤ field x.desc 42 2 → s.takeCrew c = some a →
        a.warmLines (field x.desc 41 1 == 0) (elemLines x.desc x.next) = (w, ok) → ∃ t y, exec (.streamLineRequest c h) s = .next t ∧
          t.crewOf c = some y ∧ y.streams = k.streams.map (fun y => if y.handle = h then
            (if ok then { y with next := y.next + 1 } else { y with running := false }) else y)) ∧
      (∀ x h a u l va, c ≠ 0 → k.streams.find? (fun y => y.handle == h) = some x → x.running = true → k.preempted = false → x.next < sCount x.desc →
        (sLines x (x.next + 1)).length ≤ field x.desc 42 2 → s.takeCrew c = some a → elemLines x.desc x.next = [va] → va < 2 ^ 55 →
        a.translate k.die k.core .load va = (u, .ok l) → pteFab l.pte = false → ptePlace l.pte < 2 →
        (∀ i, i < 8 → (u.holdOf (.die k.die) (leafPa l va / 128 * 8 + i)).count = 0) → ∃ t, exec (.streamLineRequest c h) s = .next t ∧
          ∀ i, i < 8 → (t.cache (.die k.die)).reqs.any (fun r => r.sec == leafPa l va / 128 * 8 + i) = true) ∧
      (∀ x h, k.streams.find? (fun y => y.handle == h) = some x → k.preempted = false → x.next < sCount x.desc →
        field x.desc 42 2 < (sLines x (x.next + 1)).length → exec (.streamLineRequest c h) s = .next s) ∧
      (∀ x a e kd ra lt rd, c ≠ 0 → s.oldestCopy d core = some x → s.strandOf x.uid = some x → x.uid ≠ 0 → x.crew = c → s.take x.uid = some a →
        copyForm x.cur = some (e, kd, ra, lt, rd) → a.coreCopies < 32 → ∃ t y o z, exec (.copyAccept d core) s = .next t ∧
          t.crewOf c = some y ∧ y.copies = k.copies ++ [o] ∧ o.kind = kd ∧ o.desc = k.spBytes (x.rdS ra).toNat 64 ∧
          t.strandOf x.uid = some z ∧ z.pc = x.pc + 4 ∧ z.s = x.s) ∧
      (∀ (o : CopyOp) (v : Word) (m : Nat),
        let got := fun (t : State) => (∃ y, t.crewOf c = some y ∧ y.copies = k.copies.filter (fun x => x.id != o.id)) ∧
          ∀ x ∈ s.strands, x.state ≠ .done → ∃ y ∈ t.strands, y.uid = x.uid ∧
            ∀ r, (r, m) ∈ x.busy → r ≠ 0 → r < 64 → y.rdS (BitVec.ofNat 6 r) = v ∧ (r, m) ∉ y.busy
        c ≠ 0 → k.preempted = false → k.copies.find? (fun x => x.id == o.id) = some o → o.done = .token m →
        (∀ why, o.stopped = none → o.begun = false → dBad k o.kind o.desc = some why → v = statusWord 0 0 why 2 →
          ∃ t, exec (.copyComplete c o.id) s = .next t ∧ got t) ∧
        (∀ r, o.stopped = some r → r.code = 0x05 → (s.die k.die).ctl.fltWait.contains r = false → v = statusWord o.next r.sub.toNat 0x05 1 →
          ∃ t, exec (.copyFaultDecline c o.id) s = .next t ∧ got t)) ∧
      (∀ (o o' : CopyOp) (a u : State) (n v : Nat), s.takeCrew c = some a → k.copies.find? (fun x => x.id == o.id) = some o → o.stopped = none →
        o.begun = true → o.kind ≠ .cpyo → a.copyRun o (dCount o.desc - o.next) = ((u, o', .val v), n) →
        exec (.copyComplete c o.id) s = .next (u.endCopy o' 0 none)) ∧
      (∀ (o : CopyOp) (a : State) r, s.takeCrew c = some a → k.copies.find? (fun x => x.id == o.id) = some o → o.stopped = some r → r.code ≠ 0x05 →
        exec (.copyComplete c o.id) s = .next (if a.faultRingBusy k.die then s else a.endCopy { o with stopped := none } 0 (some r))))

/-- R199 to R202, R207, R209 to R212, R215 to R217, R219, R220, R224: the messages, timeouts and recovery of the token protocol. Each message
acts when it arrives (`came`, which is not more than 10 µs after it was sent: log 64), and what it makes a holder send is on its way
afterwards (`sent`); a home answers an access of an agent that waits for the answer.
Choices of the model in it: logs 23, 24, 34, 62, 63, 64, 85, 107, 108. -/
def Obligations.TokenEvents : Prop :=
  ∀ (s : State) (d : DieId) (h : Home) (sec line : Nat) (who : Holder) (k : LinkId), s.focused = false →
    let me : Holder := .die d
    let x := s.holdOf me sec
    let came := fun (to_ : Holder) (m : Msg) => s.net.any (fun f => f.dst == to_ && f.msg == m && !s.late f) = true
    let oneRecall := fun (y : Nat) => RecallMsg.mk (y / 8) (BitVec.ofNat 8 (2 ^ (y % 8)))
    let quiet := ∀ e, (s.die e).key.sends = [] ∧ (s.die e).key.recvs = []
    let sent := fun (t : State) (to_ : Holder) (p : Msg → Prop) => ∃ f ∈ t.net, f.dst = to_ ∧ p f.msg
    let hasp := (s.home h).hasp
    (∀ src : Holder, s.keeps me sec = false →
      (came me (.gets (oneReq src sec)) → x.own = true → x.count ≠ 0 → ∃ t, exec (.gets me (oneReq src sec)) s = .next t ∧
        (t.holdOf me sec).count = x.count - 1 ∧ sent t src (fun m => ∃ a p, m = .tok a p ∧ a.sec = sec ∧ a.count = 1 ∧
          a.own = decide (x.count = 1) ∧ a.data = if x.known then some x.data else none)) ∧
      (came me (.getx (oneReq src sec)) → x.count ≠ 0 → ∃ t, exec (.getx me (oneReq src sec)) s = .next t ∧
        (t.holdOf me sec).count = 0 ∧ sent t src (fun m => ∃ a p, m = .tok a p ∧ a.sec = sec ∧ a.count = x.count ∧ a.own = x.own)) ∧
      (came me (.recallTokens (oneRecall sec)) → x.count ≠ 0 → ∃ t, exec (.recallTokens me (oneRecall sec)) s = .next t ∧ (t.holdOf me sec).count = 0 ∧
        sent t (s.homeHolder sec) (fun m => ∃ a p, m = .tok a p ∧ a.sec = sec ∧ a.count = x.count ∧ a.own = x.own))) ∧
    (∀ m : TokMsg, m.sec = sec → came me (.tok m false) → (s.die d).cache.filter = [] → (s.die d).cache.acts = [] →
      (s.die d).cache.reqs = [] → s.pendOf d sec = none → (s.die d).cache.holds.any (fun y => y.sec / 8 == sec / 8) = true →
      (s.die d).cache.holds.length < dieSectors → (∀ y ∈ s.strands, y.near = none ∧ look sec y.wants = none) →
      s.enginesWant d sec = false → (s.die d).far = [] → quiet → 0 < m.count →
      ∃ t, exec (.tok me m) s = .next t ∧ t.holdOf me sec =
        ⟨sec, x.count + m.count, x.own || m.own, x.dirty || (m.own && m.dirty), x.known || m.data.isSome, x.pin, m.data.getD x.data⟩) ∧
    (∀ r, (s.cache who).reqs.find? (fun r => r.sec == sec) = some r → (∀ n, who ≠ .home n) →
      (r.stage = 0 → r.at_ + r.t1 ≤ s.time → ∃ t, exec (.transientTimeout who sec) s = .next t ∧
        t.net = s.net ++ (everyHolder (s.homeHolder sec) who).map
          (fun y => ⟨y, if r.x then .getx (oneReq who sec) else .gets (oneReq who sec), s.time⟩)) ∧
      (r.stage = 0 → s.time < r.at_ + r.t1 → exec (.transientTimeout who sec) s = .next s) ∧
      (r.stage = 1 → r.at_ + r.t2 ≤ s.time → s.persists who (s.homeOf (16 * sec)) = false →
        ∃ t m, exec (.persistentTimeout who sec) s = .next t ∧ t.net = s.net ++ [⟨s.homeHolder sec, .preq ⟨who, sec / 8, m⟩, s.time⟩] ∧
          (∀ i, i < 8 → m.getLsbD i = (s.cache who).reqs.any (fun q => q.sec == sec / 8 * 8 + i && q.stage == 1 &&
            decide (q.at_ + q.t2 ≤ s.time))) ∧ t.persists who (s.homeOf (16 * sec)) = true)) ∧
    (∀ m : ReqMsg, m.src = me → s.homeOfLine m.line = h → came (.home h) (.preq m) →
      (hasp.active = none → hasp.set_ = [] → ∃ t, exec (.preq m) s = .next t ∧
        (t.home h).hasp.active = some (d.val, m.line, m.mask) ∧ (t.home h).hasp.epoch = hasp.epoch + 1 ∧
        ∀ y ∈ s.sharers, sent t y (fun z => z = .pact ⟨h, m.line, m.mask, me, hasp.epoch + 1⟩)) ∧
      (hasp.active.isSome = true → ∃ t, exec (.preq m) s = .next t ∧ (t.home h).hasp.active = hasp.active ∧
        look d.val (t.home h).hasp.set_ = some (m.line, m.mask))) ∧
    (∀ m : ActMsg, came me (.pact m) → (s.die d).cache.actOf m.home = none → m.req ≠ me → ∃ t, exec (.pact me m) s = .next t ∧
      (t.die d).cache.actOf m.home = some ⟨m.home, m.epoch, m.line, m.mask, m.req, true, false⟩ ∧
      ∀ y ∈ secsOf m.line m.mask, (t.holdOf me y).count = 0 ∧ ((s.holdOf me y).count ≠ 0 →
        sent t m.req (fun z => ∃ a p, z = .tok a p ∧ a.sec = y ∧ a.count = (s.holdOf me y).count))) ∧
    (∀ (b : Fin 4) (i : Fin 3), h = .stack b i → came (.home h) (.pdone h hasp.epoch) → hasp.active.isSome = true → hasp.set_ = [] →
      (s.home h).queue = [] → ∃ t, exec (.pdone h hasp.epoch) s = .next t ∧ (t.home h).hasp.active = none ∧
        ∀ y ∈ s.sharers, sent t y (fun z => z = .pdeact h hasp.epoch)) ∧
    (∀ a : ActSeen, (s.die d).cache.actOf h = some a → came me (.pdeact h a.epoch) → ∃ t, exec (.pdeact me h a.epoch) s = .next t ∧
      (t.die d).cache.actOf h = some { a with active := false }) ∧
    (∀ e m, hasp.active = some (e, line, m) → hasp.since + 20000 ≤ s.time → (s.home h).recov = [] → s.recoveryRoom = true →
      ∀ i ∈ [Instr.recoveryTimeout h, .recoveryRateWindow h], ∃ t r, exec i s = .next t ∧ (t.home h).recov = [r] ∧ r.line = line ∧
        r.serial = (s.home h).serial line + 1 ∧ (t.home h).serial line = r.serial ∧ (∀ j, j < 8 → (t.home h).hold (8 * line + j) = (0, false)) ∧
        ∀ y ∈ s.sharers, sent t y (fun z => z = .recreate line r.serial)) ∧
    (∀ n : BitVec 8, came me (.recreate line n) → (∀ f ∈ (s.die d).cache.filter, f.1 = line → newer f.2.1 n = false) →
      ∃ t, exec (.recreate me line n) s = .next t ∧ (∀ j, j < 8 → (t.holdOf me (8 * line + j)).count = 0) ∧ (line, n, s.time + 50000) ∈ (t.die d).cache.filter ∧
      sent t (.home (s.homeOfLine line)) (fun z => ∃ a, z = .recack a ∧ a.src = me ∧ a.line = line ∧ a.serial = n)) ∧
    (∀ (n : BitVec 8) (f : Nat × BitVec 8 × Nat), came me (.recreate line n) → (s.die d).cache.filter = [f] → f.1 = line → newer f.2.1 n = true →
      ∃ t, exec (.recreate me line n) s = .next t ∧ (∀ y, t.holdOf me y = s.holdOf me y) ∧
        (t.die d).cache.filter = [f, (line, n, f.2.2)] ∧ sent t (.home (s.homeOfLine line))
          (fun z => ∃ a, z = .recack a ∧ a.src = me ∧ a.line = line ∧ a.serial = n ∧ a.owner = [] ∧ a.held = false)) ∧
    ((∀ n, who ≠ .home n) → ∃ t, exec (.recreateFilterExpiry who line) s = .next t ∧
      (t.cache who).filter = (s.cache who).filter.filter (fun f => decide (f.1 ≠ line ∨ s.time < f.2.2))) ∧
    (∀ m r, s.homeOfLine m.line = h → came (.home h) (.recack m) → (s.home h).recov.find? (fun r => r.line == m.line && r.serial == m.serial) = some r →
      r.acks.any (fun a => a.1 == m.src) = false → s.sharers.all (fun y => (r.acks ++ [(m.src, m.held)]).any (fun a => a.1 == y)) = false →
      ∃ t r', exec (.recack m) s = .next t ∧ r' ∈ (t.home h).recov ∧ r'.line = m.line ∧ r'.acks = r.acks ++ [(m.src, m.held)] ∧ r'.served = r.served) ∧
    (∀ r, s.homeOfLine line = h → (s.home h).recov.find? (fun r => r.line == line) = some r → r.served = true → r.start + 4000 ≤ s.time →
      ∃ t, exec (.lossCheck line) s = .next t ∧ (r.intact = 0xFF → (t.home h).recov = (s.home h).recov.filter (fun y => y.line != line) ∧
          t.crews = s.crews ∧ t.mem = s.mem) ∧
        (r.intact ≠ 0xFF → 0 < s.mgmt.free → ∃ b, t.mgmt.events = s.mgmt.events ++ [b] ∧ field b 32 1 = 0x12)) ∧
    (∀ n f, s.net[n]? = some f → (f.sent + 10000 ≤ s.time → ∃ t, exec (.flitGiveUp n) s = .next t ∧ t.net = s.net.eraseIdx n ∧ t.mem = s.mem) ∧
      (s.time < f.sent + 10000 → exec (.flitGiveUp n) s = .next s)) ∧
    (∀ n, s.homeOf (16 * sec) = h → look sec (s.home h).recalls = some n → n + 900 ≤ s.time → (s.home h).queued [sec] = true →
      hasp.active = none → hasp.set_ = [] → ∃ t, exec (.recallTimeout sec) s = .next t ∧
        (t.home h).hasp.active = some (12, sec / 8, BitVec.ofNat 8 (2 ^ (sec % 8)))) ∧
    (∀ (b : Fin 4) (i : Fin 3), h = .stack b i → s.homeOf (16 * sec) = h → ((s.home h).hold sec).1 = 16 → (s.home h).queue = [] →
      (s.home h).recovering (sec / 8) = false → hasp.active = none →
      let to_ := fun (r : Requester) => match r with
        | .die e _ => Holder.die e
        | .port _ _ => .home h
      let waits := fun (r : Requester) => ∀ e, r ≠ .die e 0
      (∀ m : AtomMsg, m.sec = sec → came (.home h) (.atom m) → ∃ t, exec (.atom m) s = .next t ∧
        t.memSector sec = (atomSector m.args m.off (s.memSector sec)).2 ∧
        (waits m.src → sent t (to_ m.src) (fun z => z = .rep 0 ⟨m.src, (atomSector m.args m.off (s.memSector sec)).1.setWidth 128, 0⟩))) ∧
      (∀ m : HldMsg, m.sec = sec → came (.home h) (.hld m) → ∃ t, exec (.hld m) s = .next t ∧ t.mem = s.mem ∧
        (waits m.src → sent t (to_ m.src) (fun z => z = .rep 1 ⟨m.src, s.memSector sec >>> (8 * maskLow m.mask), 0⟩))) ∧
      (∀ m : HstMsg, m.sec = sec → came (.home h) (.hst m) → ∃ t, exec (.hst m) s = .next t ∧
        (∀ j, j < 16 → t.memByte (16 * sec + j) = if m.mask.getLsbD j then sectorByte m.data j else s.memByte (16 * sec + j)) ∧
        (∀ a, a / 16 ≠ sec → t.memByte a = s.memByte a) ∧ (waits m.src → sent t (to_ m.src) (fun z => z = .rep 2 ⟨m.src, 0, 0⟩)))) ∧
    (∀ (m : RepMsg) (n : Nat), m.dst = .die d n → ∀ p ∈ [(Instr.atomr m, (0 : Fin 3)), (.hldr m, 1), (.hstr m, 2)], came me (.rep p.2 m) → quiet → (∀ e, (s.die e).port.asks = []) →
      ∃ t, exec p.1 s = .next t ∧ ∀ y ∈ s.strands, s.strandOn d y = true → ∃ z ∈ t.strands, z.uid = y.uid ∧ z.s = y.s ∧
        (∀ a ∈ z.hstOut, a.1 ≠ n) ∧ (∀ a ∈ y.asked, a.2 = n → look a.1 z.got = some (m.data.setWidth 64))) ∧
    (s.inDevice (64 * line) = false → ∀ v, exec (.cxlMemrd k line) s = .fault (.noSuchPhysicalAddress (64 * line)) ∧
      exec (.cxlMemwr k line v) s = .fault (.noSuchPhysicalAddress (64 * line))) ∧
    (s.inDevice (64 * line) = true → 64 * line / 2 ^ 38 ≠ k.val → ∀ v, exec (.cxlMemrd k line) s = .next s ∧ exec (.cxlMemwr k line v) s = .next s) ∧
    (s.cxl.getLsbD k.val = true → s.hostAccs.filter (fun a => a.link == k) = [] →
      let read := (hostSecs line).map (fun y => (k, y, (s.holdOf (.agent k) y).data))
      let mine := s.inDevice (64 * line) = true ∧ 64 * line / 2 ^ 38 = k.val ∧ s.carved (64 * line) 64 = false
      (mine → (∀ y ∈ hostSecs line, s.hostHas k false y = true) → ∃ t, exec (.cxlMemrd k line) s = .next t ∧
        t.hostOut = s.hostOut ++ read ∧ t.mem = s.mem) ∧
      (mine → (∀ y ∈ hostSecs line, s.hostHas k true y = true) → ∀ v : BitVec 512,
        ∃ t, exec (.cxlMemwr k line (some v)) s = .next t ∧ ∀ j, j < 4 → (t.holdOf (.agent k) (4 * line + j)).dirty = true ∧
          (t.holdOf (.agent k) (4 * line + j)).data = (v >>> (128 * j)).setWidth 128) ∧
      (inHost (64 * line) = true → s.homeOf (64 * line) = .agent k → (∀ y ∈ hostSecs line, s.hostHas k true y = true) → ∀ inv,
        ∃ t, exec (.cxlSnoop k line inv) s = .next t ∧ t.hostOut = s.hostOut ++ read)) ∧
    (∀ y v, s.snoops.find? (fun y => y.link == k && y.sec == sec) = some y → y.recr = none → y.inv = true →
      (∀ z ∈ s.snoops, z.link = k → z.sec / 8 = sec / 8 → z.recr = none) → ∃ t, exec (.bisnpResponse k sec v) s = .next t ∧ (t.holdOf (.agent k) sec).count = 0 ∧ t.snoops = s.snoops.erase y) ∧
    (∀ own v, (k, sec, own) ∈ s.hostReads → (s.home (.agent k)).queue = [] → (s.home (.agent k)).hasp.active = none →
      ∃ t, exec (.cxlHostData k sec own v) s = .next t ∧ (∀ j, j < 16 → t.memByte (16 * sec + j) = sectorByte v j) ∧
        look sec (t.home (.agent k)).hostHeld = some (own || (look sec (s.home (.agent k)).hostHeld).getD false))

/-- R221, R264, R265, R267, R273, R276 to R283: packets at the ports and messages of the Keyway. A memory packet with a key and a window page
that permits it becomes an access at the home, one without is answered with status 1; a packet whose key a port's table lacks is dropped
and counted; replies reach the strand that asked, failures and timeouts are kept for it. A Keyway message is accepted in its order, or answered NACK or REJECT.
Choices of the model in it: logs 8, 56, 64, 65, 85. -/
def Obligations.PortAndKeywayEvents : Prop :=
  ∀ (s : State) (d : DieId) (p : PortId) (pk : Packet), s.focused = false →
    let up := s.ports[p].width ≠ 0 ∧ s.ports[p].member pk.key = true
    let came := fun (m : Msg) => s.net.any (fun f => f.dst == .die d && f.msg == m && !s.late f) = true
    let sent := fun (t : State) (to_ : Holder) (q : Msg → Prop) => ∃ f ∈ t.net, f.dst = to_ ∧ q f.msg
    let replied := fun (t : State) (kind : BitVec 8) (st : BitVec 8) => ∃ x, t.outbox = s.outbox ++ [(p, x)] ∧ x.kind = kind ∧ x.status = st ∧
      x.dpkg = pk.spkg ∧ x.ddie = pk.sdie ∧ x.txn = pk.txn ∧ x.key = pk.key
    let one := fun (pa n : Nat) => 0 < n ∧ pa % 16 + n ≤ 16
    (up →
      (∀ pa, s.windowPa pk.addr pk.nbytes.toNat true false = some pa → one pa pk.nbytes.toNat → ∃ t, exec (.fabRead p pk) s = .next t ∧
        sent t (s.homeHolder (pa / 16)) (fun m => ∃ r, m = .hld ⟨r, pa / 16, sectorMask (pa % 16) pk.nbytes.toNat⟩)) ∧
      (s.windowPa pk.addr pk.nbytes.toNat true false = none → ∃ t, exec (.fabRead p pk) s = .next t ∧ replied t 1 1 ∧ t.net = s.net) ∧
      (∀ i ∈ [Instr.fabWrite p pk, .multicastWrite p pk],
        (∀ pa, s.windowPa pk.addr pk.payload.length false true = some pa → one pa pk.payload.length → ∃ t, exec i s = .next t ∧
          sent t (s.homeHolder (pa / 16)) (fun m => ∃ r, m = .hst ⟨r, pa / 16, sectorMask (pa % 16) pk.payload.length, placeBytes pa pk.payload⟩)) ∧
        (s.windowPa pk.addr pk.payload.length false true = none → ∃ t, exec i s = .next t ∧ replied t 3 1 ∧ t.net = s.net)) ∧
      (∀ a, pk.atom = some a → let n := if a.w64 then 8 else 4
        pk.addr.toNat % n = 0 → (∀ pa, s.windowPa pk.addr n true true = some pa → pa % 16 + n ≤ 16 → ∃ t, exec (.fabAtomic p pk) s = .next t ∧
          sent t (s.homeHolder (pa / 16)) (fun m => ∃ r, m = .atom ⟨r, pa / 16, pa % 16, a⟩)) ∧
        (s.windowPa pk.addr n true true = none → ∃ t, exec (.fabAtomic p pk) s = .next t ∧ replied t 5 1 ∧ t.net = s.net)) ∧
      (∀ x k m q, s.strands.find? (fun y => s.strandOn pk.ddie y && y.remotes.any (fun n => n.has pk.txn.toNat)) = some x → x.uid ≠ 0 →
        s.strandOf x.uid = some x → s.crewOf x.crew = some k → x.remotes = [m] → m.parts = [q] → x.asked = [] → x.mcast = none →
        ∀ i ∈ [Instr.fabReadReply p pk, .fabWriteAck p pk, .fabAtomicReply p pk],
          (pk.status = 0 → ∀ r n g, m.dest = .sreg r n g → ∃ t z, exec i s = .next t ∧ t.strandOf x.uid = some z ∧ z.remotes = [] ∧
            z.rdS r = (if r = 0 then (0 : Word) else extendLoad n g (BitVec.ofNat 64 (leNat (pk.payload.take n)))) ∧ z.deferred = x.deferred) ∧
          (pk.status ≠ 0 → x.deferred = [] → m.store = true ∨ m.dest ≠ .none → ∃ t z, exec i s = .next t ∧ t.strandOf x.uid = some z ∧
            z.remotes = [] ∧ z.s = x.s ∧ z.deferred = [⟨m.store, m.dest, 4, m.pc, q.va, q.lane⟩]))) ∧
    (∀ i ∈ [Instr.fabRead p pk, .fabWrite p pk, .fabAtomic p pk, .multicastWrite p pk, .fabReadReply p pk, .fabWriteAck p pk,
        .fabAtomicReply p pk],
      s.ports[p].width ≠ 0 → s.ports[p].member pk.key = false → ∃ t, exec i s = .next t ∧
        t.ports[p].drop = s.ports[p].drop + 1 ∧ t.net = s.net ∧ t.mem = s.mem ∧ t.strands = s.strands) ∧
    (∀ (n : Nat) (key : BitVec 32) (m : PullData), m.via = some p → m.key = key →
      ∀ i ∈ [Instr.keywayAck d ⟨n, some (p, key)⟩, .keywayNack d ⟨n, some (p, key)⟩, .keywayReject d ⟨n, some (p, key)⟩, .pullData m],
        s.ports[p].width ≠ 0 → s.ports[p].member key = false → ∃ t, exec i s = .next t ∧
          t.ports[p].drop = s.ports[p].drop + 1 ∧ t.net = s.net ∧ t.mem = s.mem ∧ t.dies = s.dies) ∧
    (10 < pk.kind.toNat → ∃ t, exec (.unknownPacketType p pk) s = .next t ∧ t.ports[p].drop = s.ports[p].drop + 1 ∧ t.net = s.net) ∧
    (∀ u n x k m q, u ≠ 0 → s.strandOf u = some x → s.crewOf x.crew = some k → ((below 8).map (Fin.ofNat 8)).find? (fun e => s.farDue e u n) = some k.die →
      s.strands.find? (fun y => y.uid == u && s.strandOn k.die y && y.remotes.any (fun r => r.has n)) = some x → x.remotes = [m] → m.parts = [q] →
      x.asked = [] → x.mcast = none → x.deferred = [] → m.store = true ∨ m.dest ≠ .none → ∃ t z, exec (.remoteTimeout u n) s = .next t ∧
        t.strandOf u = some z ∧ z.remotes = [] ∧ z.s = x.s ∧ z.deferred = [⟨m.store, m.dest, 2, m.pc, q.va, q.lane⟩]) ∧
    (∀ u n x m a, s.strandOf u = some x → x.mcast = some m → a ∈ m.await → a.2.txn = n → a.2.held = false → a.2.sent + 1000000 ≤ s.time →
      a.1 < 64 → ∃ t z r, exec (.mcastAckTimeout u n) s = .next t ∧ t.strandOf u = some z ∧ z.mcast = some r ∧
        (∀ b ∈ r.await, b.2.txn ≠ n) ∧ bit r.failed a.1 = true ∧ z.s = x.s) ∧
    (∀ m : KMsg, m.die = d → m.via = none → came (.key m) → (s.die d).present = true → m.hdr.ctx.toNat ≤ 63 →
      let c : CtxId := Fin.ofNat 64 m.hdr.ctx.toNat
      let k := s.kctx d c
      let from_ := (m.hdr.spkg.toNat, m.hdr.sdie.val)
      let answer := fun (t : State) (n : Nat) => sent t (.die m.hdr.sdie) (fun z => z = .keyRep m.hdr.sdie m.send n)
      (k.configured = false ∨ k.key ≠ m.hdr.jobkey → ∃ t, exec (.keywayMessage m) s = .next t ∧ answer t 2 ∧ t.kctx d c = k) ∧
      (k.configured = true → k.key = m.hdr.jobkey →
        (m.hdr.seq ≠ numberOf from_ k.expect → ∃ t, exec (.keywayMessage m) s = .next t ∧ answer t 1 ∧ t.kctx d c = k) ∧
        (m.hdr.seq = numberOf from_ k.expect → s.matchRecv d c m.hdr = none →
          (∀ i, s.ringFree d c = some i → ∃ t, exec (.keywayMessage m) s = .next t ∧ answer t 0 ∧ (t.kctx d c).unexp = k.unexp ++ [⟨m, i⟩] ∧
            numberOf from_ (t.kctx d c).expect = m.hdr.seq + 1) ∧
          (s.ringFree d c = none → ∃ t, exec (.keywayMessage m) s = .next t ∧ answer t 1 ∧ t.kctx d c = k)))) ∧
    (∀ (n : Nat) (x : KSend) (h : KHdr) (via : Option (PortId × BitVec 32)), s.sendOf d n = some x → x.hdr = some h →
      let arrives := fun (what : Nat) => match via with
        | none => h.dpkg = s.pkgId ∧ came (.keyRep d n what)
        | some v => h.dpkg ≠ s.pkgId ∧ v.2 = h.jobkey ∧ s.ports[v.1].width ≠ 0 ∧ s.ports[v.1].member v.2 = true
      (x.stage = 1 →
        (x.send.length ≤ 4096 → arrives 0 → ∃ t, exec (.keywayAck d ⟨n, via⟩) s = .next t ∧ (t.die d).key.sends = (s.die d).key.sends.filter (fun y => y.send.id != n)) ∧
        (4096 < x.send.length → arrives 0 → ∃ t, exec (.keywayAck d ⟨n, via⟩) s = .next t ∧ t.sendOf d n = some { x with stage := 3 }) ∧
        (arrives 1 → ∃ t y, exec (.keywayNack d ⟨n, via⟩) s = .next t ∧ t.sendOf d n = some y ∧ y.stage = 2 ∧ y.at_ = s.time + x.delay ∧
          y.delay = min 64000 (2 * x.delay) ∧ y.send = x.send) ∧
        (arrives 2 → ∃ t, exec (.keywayReject d ⟨n, via⟩) s = .next t ∧ assoc x.send.chan (t.kctx d x.send.ctx).broken = some 3 ∧ t.sendOf d n = none)) ∧
      (x.stage = 2 → x.at_ ≤ s.time → ∃ t, exec (.keywayRetry d n) s = .next t ∧ t.sendOf d n = some { x with stage := 1, at_ := s.time }) ∧
      (x.stage = 1 → x.at_ + 1000000 ≤ s.time → ∃ t, exec (.keywayAckTimeout d n) s = .next t ∧
        assoc x.send.chan (t.kctx d x.send.ctx).broken = some 2 ∧ t.sendOf d n = none) ∧
      (∀ m : PullReq, m.die = d → m.send = n → m.via = none → came (.pullReq m) → x.stage = 3 → kSpad x.send.desc = true → 0 < kEb x.send.desc →
        ∃ t, exec (.pullRequest m) s = .next t ∧ t.sendOf d n = none)) ∧
    (∀ (m : PullData) (x : Recv) (g : KMsg), m.die = d → m.via = none → came (.pullData m) → m.fail = none →
      (s.die d).key.recvs.find? (fun y => y.txn == some m.txn) = some x → s.recvOf d x.id = some x → x.msg = some g → m.key = g.hdr.jobkey → kSpad x.desc = true →
      0 < kEb x.desc → x.early = [] → x.fail = none → m.off = x.payload.length → x.cur.next * kEb x.desc ≤ x.payload.length →
      x.payload.length + m.bytes.length < x.due → ∃ t y, exec (.pullData m) s = .next t ∧ t.recvOf d x.id = some y ∧
        y.payload = x.payload ++ m.bytes ∧ y.msg = some g)

/-! ### The machine as a whole -/

/-- R52, R56 and the encodings, in tables: words written out field by field as R48, R53, R54 and R57 give them, and what they
stand for; the first two rows of prefixes are the manual's own worked words. The reserved majors and the permanently illegal one
are refused with subcode 1 (R55).
Choices of the model in it: logs 6, 15. -/
def Obligations.DecodeWords : Prop :=
  (∀ x ∈ ([
    ((1#1 ++ 0x1D#6 ++ 0#4 ++ 1#7 ++ 2#7 ++ 3#7 : W32), Instr.vfadd true 1 2 3),
    ((0#1 ++ 0x27#6 ++ 0x01#8 ++ 0x47#8 ++ 0#8 ++ 0#1 : W32), Instr.route 0x01 0x47 0 false),
    ((0#1 ++ 0x28#6 ++ 4#3 ++ 2#2 ++ 0#2 ++ 0#18 : W32), Instr.qual 4 .rel 0),
    ((0#1 ++ 0x2C#6 ++ 0#3 ++ 6#7 ++ 10#6 ++ 5#7 ++ 2#2 : W32), Instr.vstx false 6 10 5 2),
    ((1#1 ++ 0x11#6 ++ 1#3 ++ 8#6 ++ 0xFFF5#16 : W32), Instr.bnz 8 0xFFF5),
    ((1#1 ++ 0#6 ++ 1#7 ++ 0#6 ++ 0#6 ++ 0#6 : W32), Instr.exit),
    ((0#1 ++ 0x04#6 ++ 1#7 ++ 3#6 ++ 4#6 ++ 5#6 : W32), Instr.sub false 3 4 5),
    ((0#1 ++ 0x05#6 ++ 7#6 ++ 8#6 ++ 0x1FFF#13 : W32), Instr.addi false 7 8 0x1FFF),
    ((1#1 ++ 0x15#6 ++ 9#6 ++ 3#3 ++ 16#16 : W32), Instr.eject 9 3 16)] ++ [
    ((0#1 ++ 0x22#6 ++ 2#4 ++ 1#3 ++ 20#7 ++ 21#7 ++ 0#4 : W32), Instr.vcmp false .lt 1 20 21),
    ((0#1 ++ 0x24#6 ++ 0#4 ++ 1#3 ++ 2#3 ++ 3#3 ++ 0#6 ++ 0#6 : W32), Instr.pand false 1 2 3),
    ((0#1 ++ 0x32#6 ++ 2#2 ++ 1#1 ++ 0#1 ++ 11#6 ++ 12#6 ++ 0x1FF#9 : W32), Instr.sld false 2 true false 11 12 0x1FF),
    ((0#1 ++ 0x36#6 ++ 9#4 ++ 1#1 ++ 1#1 ++ 0#1 ++ 1#6 ++ 2#6 ++ 3#6 : W32), Instr.satom false .xchg true true 1 2 3),
    ((0#1 ++ 0x37#6 ++ 5#3 ++ 3#2 ++ 0#20 : W32), Instr.fence false 5 .ar)] :
      List (W32 × Instr)), decodeWord x.1 = .ok x.2) ∧
  (0x4E028E00#32 = (0#1 ++ 0x27#6 ++ 0x01#8 ++ 0x47#8 ++ 0#8 ++ 0#1 : W32) ∧
    0x58031416#32 = (0#1 ++ 0x2C#6 ++ 0#3 ++ 6#7 ++ 10#6 ++ 5#7 ++ 2#2 : W32) ∧ decodeWord 0x51200000 = .ok (.qual 4 .rel 0) ∧
    decodeWord 0xBA004103 = .ok (.vfadd true 1 2 3)) ∧
  (∀ m ∈ [0x03, 0x16, 0x17, 0x3E, 0x3F], decodeWord (BitVec.ofNat 32 (m * 2 ^ 25)) = .error (.illegal 1)) ∧
  decodeSeq (0x01#5 ++ 0#27) = .ok .mend

/-- R42, R48, R53, R54, R57 (headline): for every well-formed instruction, with every operand at every value its encoding admits,
decoding its word in its own stream gives it back. -/
def Obligations.RoundTripAll : Prop :=
  ∀ (i : Instr) (w : W32), i.wf = true → encodeWord i = some w → i.decodeOwn w = .ok i

/-- Headline: every step keeps memory in its canonical form, whatever runs or happens.
Choices of the model in it: log 4. -/
def Obligations.StepKeepsMemoryCanonical : Prop :=
  ∀ s t : State, s.Canonical → step s = .next t → t.Canonical

/-- R43, R47, R50 to R52, R168, R169, R326, R331: a step runs what stands at the program counter. A strand's turn fetches its prefixes and the
word after them and runs the instruction they decode to, unless a strand whose run began earlier is ready; a context's turn runs its
stream word, a tile operation when the array is free and its crew's turn has come; a turn that names an event is that event, and one that
brings a request chain runs the request it holds; time may pass. The model's choice (log 1): State names whose turn it is.
Choices of the model in it: logs 1, 2, 26, 110. -/
def Obligations.StepRuns : Prop :=
  ∀ (s : State) (rest : List Turn) (u : Nat),
    (∀ t v w i, s.turns = .strand u :: rest → ({ s with turns := rest } : State).take u = some t → t.focus.state = .issuing →
      t.crew.preempted = false → t.laterRun = false → t.focus.stepDue = none → t.brkHit [1] t.focus.pc.toNat = false →
      (t.focus.run < 24 ∨ t.crew.hdr.step = true) →
      (t.setFocus { t.focus with unitPc := t.focus.pc, unitLane := t.guardLane, stepDue := none }).fetchWord t.focus.pc.toNat = (v, .word w) →
      isPrefix w = false → decodeWord w = .ok i →
      v.focus = { t.focus with unitPc := t.focus.pc, unitLane := t.guardLane } ∧ v.crew = t.crew ∧ step s = exec i v) ∧
    (∀ t v ps w qs i, s.turns = .strand u :: rest → ({ s with turns := rest } : State).take u = some t → t.focus.state = .issuing →
      t.crew.preempted = false → t.laterRun = false → t.focus.stepDue = none → t.brkHit [1] t.focus.pc.toNat = false →
      (t.setFocus { t.focus with unitPc := t.focus.pc, unitLane := t.guardLane, stepDue := none }).fetchWords 3 t.focus.pc.toNat t.focus.run [] =
        (v, .ok (ps ++ [w])) →
      prefixesOk ps w = true → ps.map decodeWord = qs.map Except.ok → decodeWord w = .ok i →
      (v.runPrefixes qs).focus.state = .issuing → step s = exec i (v.runPrefixes qs)) ∧
    (∀ t v i, s.turns = .seq u :: rest → ({ s with turns := rest } : State).takeCrew u = some t → t.crew.seq.state = .running →
      t.crew.hasSeq = true → t.crew.preempted = false → t.halting t.crew = false → t.inArray = false → t.seqFetch = (v, .instr i) →
      ((tileEffect v.crew i).isSome = true → ({ s with turns := rest } : State).putBack.tileTurn t.crew = true ∧ v.arrayFree = true) →
      step s = exec i v) ∧
    (∀ i, s.turns = .event i :: rest → step s = exec i { s with turns := rest }) ∧
    (∀ f q raw m, s.turns = .request f q raw :: rest → requestOf f q raw = some m → step s = m { s with turns := rest }) ∧
    (∀ ns, s.turns = .advance ns :: rest → s.focused = false → ∃ t, step s = .next t ∧ t.time = s.time + ns ∧ t.mem = s.mem ∧
      t.strands = s.strands ∧ t.crews = s.crews ∧ ∀ d, (t.die d).ctl = (s.die d).ctl)

/-- R187, R306, R338, R341: what a step of the event table does depends on the machine alone, never on which strand stood in hand
before it. -/
def Obligations.EventsReadTheTables : Prop :=
  ∀ (s : State) (i : Instr), encodeWord i = none → exec i s = exec i s.putBack

/-- R206, R291, R328, R329, R334, R335, R341: what package reset leaves, where the manual says: no strand or crew runs and no launch is
queued; nobody holds a token and no message is under way; every die's ROOT is 0, its stack pools are empty, CLKMODE is MAX,
COHMODE 0xF01E, PARTITION every live die, and its device queues are disabled. The memory's listing is in its canonical form. That TIME
is 0, and that PARTITION is 0xFF because all eight dies are live, are choices of log 5; its other values are no part of this.
Choices of the model in it: logs 4, 5. -/
def Obligations.ResetState : Prop :=
  State.reset.strands = [] ∧ State.reset.crews = [] ∧ State.reset.net = [] ∧ State.reset.time = 0 ∧ State.reset.Canonical ∧
  (∀ h, (State.reset.cache h).holds = []) ∧
  ∀ (d : DieId) (q : QueueId), (State.reset.die d).ctl.root = 0 ∧ (State.reset.die d).ctl.pools[q] = (0, 0) ∧
    (State.reset.die d).ctl.clkmode = 0 ∧ (State.reset.die d).ctl.cohmode = 0xF01E ∧ (State.reset.die d).ctl.partition = 0xFF ∧
    (State.reset.die d).ctl.dq[q].log = 0 ∧ (State.reset.die d).ctl.keytab = [] ∧ State.reset.queue d q = [] ∧
    (State.reset.die d).port.grids = []
end

