-- ==== Sys2Proof/Laws/Memory.lean ====
section
/-! SUPPORT. The laws of memory: reading after writing, what a write leaves alone, and that every operation that writes memory keeps
its canonical form. -/

namespace Sys2Proof.Machine

open Sys2Proof

/-! ### Listings by key -/

variable {α : Type}

@[simp] theorem look_put_self (k : Nat) (v : α) : ∀ l : List (Nat × α), look k (put k v l) = some v
  | [] => by simp [put, look]
  | e :: t => by
    simp only [put]
    split
    · simp [look]
    · split
      · simp [look]
      · simp [look, *, look_put_self k v t]

theorem look_put_of_ne {k j : Nat} (v : α) (h : j ≠ k) : ∀ l : List (Nat × α), look j (put k v l) = look j l
  | [] => by simp [put, look, h.symm]
  | e :: t => by
    simp only [put]
    split
    · simp [look, h.symm]
    · split
      · rename_i he; simp [look, h.symm, he]
      · simp [look, look_put_of_ne v h t]

@[simp] theorem look_del_self (k : Nat) : ∀ l : List (Nat × α), look k (del k l) = none
  | [] => rfl
  | e :: t => by
    simp only [del]
    split
    · exact look_del_self k t
    · simp [look, *, look_del_self k t]

theorem look_del_of_ne {k j : Nat} (h : j ≠ k) : ∀ l : List (Nat × α), look j (del k l) = look j l
  | [] => rfl
  | e :: t => by
    simp only [del]
    split
    · rename_i he; simp [look, he, h.symm, look_del_of_ne h t]
    · simp [look, look_del_of_ne h t]

/-! ### Canonical form -/

variable [DecidableEq α] {blank : Nat → α}

theorem canonical_cons {e : Nat × α} {t : List (Nat × α)} :
    canonical blank (e :: t) = true ↔ e.2 ≠ blank e.1 ∧ aboveHead e.1 t = true ∧ canonical blank t = true := by
  simp [canonical, and_assoc]

omit [DecidableEq α] in
theorem aboveHead_mono {j k : Nat} (h : j ≤ k) {l : List (Nat × α)} (hl : aboveHead k l = true) : aboveHead j l = true := by
  cases l with
  | nil => rfl
  | cons e t => simp only [aboveHead, decide_eq_true_eq] at *; omega

omit [DecidableEq α] in
theorem aboveHead_put {j k : Nat} {v : α} (h : j < k) {l : List (Nat × α)} (hl : aboveHead j l = true) : aboveHead j (put k v l) = true := by
  cases l with
  | nil => simpa [put, aboveHead] using h
  | cons e t =>
    simp only [put]
    split
    · simpa [aboveHead] using h
    · split
      · simpa [aboveHead] using h
      · exact hl

/-- Putting a value that no unlisted byte reads as keeps the form. -/
theorem canonical_put {k : Nat} {v : α} (hv : v ≠ blank k) :
    ∀ {l : List (Nat × α)}, canonical blank l = true → canonical blank (put k v l) = true
  | [], _ => by simp [put, canonical, aboveHead, hv]
  | e :: t, h => by
    obtain ⟨h1, h2, h3⟩ := canonical_cons.1 h
    simp only [put]
    split
    · exact canonical_cons.2 ⟨hv, by simpa [aboveHead], h⟩
    · split
      · rename_i he; exact canonical_cons.2 ⟨hv, he ▸ h2, h3⟩
      · exact canonical_cons.2 ⟨h1, aboveHead_put (by omega) h2, canonical_put hv h3⟩

/-- A part of a listing is canonical. -/
theorem canonical_filter (p : Nat × α → Bool) : ∀ {l : List (Nat × α)}, canonical blank l = true →
    canonical blank (l.filter p) = true ∧ ∀ k, aboveHead k l = true → aboveHead k (l.filter p) = true
  | [], _ => ⟨rfl, fun _ h => h⟩
  | e :: t, h => by
    obtain ⟨h1, h2, h3⟩ := canonical_cons.1 h
    obtain ⟨c, a⟩ := canonical_filter p h3
    rw [List.filter_cons]
    split
    · exact ⟨canonical_cons.2 ⟨h1, a _ h2, c⟩, fun k hk => hk⟩
    · exact ⟨c, fun k hk => a k (aboveHead_mono (by simp only [aboveHead, decide_eq_true_eq] at hk; omega) h2)⟩

omit [DecidableEq α] in
theorem del_eq_filter (k : Nat) : ∀ l : List (Nat × α), del k l = l.filter (fun e => decide (e.1 ≠ k))
  | [] => rfl
  | e :: t => by
    simp only [del, List.filter_cons, del_eq_filter k t]
    split <;> simp_all

theorem canonical_del (k : Nat) {l : List (Nat × α)} (h : canonical blank l = true) : canonical blank (del k l) = true :=
  del_eq_filter k l ▸ (canonical_filter _ h).1

/-! ### The machine's memory -/

/-- What unlisted bytes read as depends on the service OS's memory and the key epochs alone. -/
theorem State.blank_congr {s t : State} (hc : t.carves = s.carves) (ho : t.osEpoch = s.osEpoch)
    (h : ∀ d, (t.die d).keyEpoch = (s.die d).keyEpoch) : t.blank = s.blank := by
  funext pa; simp only [State.blank, State.carved, hc, ho, h]; rfl

/-- The form depends on the listing and on what unlisted bytes read as. -/
theorem State.memWf_congr {s t : State} (hm : t.mem = s.mem) (hb : t.blank = s.blank) : t.memWf = s.memWf := by
  simp only [State.memWf, hm, hb]

@[simp] theorem State.blank_setMemByte (s : State) (pa : Nat) (v : Byte) : (s.setMemByte pa v).blank = s.blank := rfl

/-- Reading after writing gives the value written. -/
@[simp] theorem State.memByte_setMemByte (s : State) (pa : Nat) (v : Byte) : (s.setMemByte pa v).memByte pa = v := by
  unfold State.memByte
  rw [s.blank_setMemByte]
  unfold State.setMemByte
  dsimp only
  split <;> simp_all

/-- A write leaves every other byte alone. -/
theorem State.memByte_setMemByte_of_ne {s : State} {pa a : Nat} (v : Byte) (h : a ≠ pa) :
    (s.setMemByte pa v).memByte a = s.memByte a := by
  unfold State.memByte
  rw [s.blank_setMemByte]
  unfold State.setMemByte
  dsimp only
  split
  · rw [look_del_of_ne h]
  · rw [look_put_of_ne v h]

/-- Writing a byte keeps the form. -/
theorem State.memWf_setMemByte {s : State} (h : s.memWf = true) (pa : Nat) (v : Byte) : (s.setMemByte pa v).memWf = true := by
  unfold State.memWf
  rw [s.blank_setMemByte]
  unfold State.setMemByte
  dsimp only
  split
  · exact canonical_del pa h
  · exact canonical_put ‹_› h

/-- Writing part of a sector changes memory alone. -/
theorem State.setMemSector_eq (s : State) (sec : Nat) (mask : BitVec 16) (v : SectorData) :
    ∃ m, s.setMemSector sec mask v = { s with mem := m } := by
  have h : ∀ (l : List Nat) (s : State), ∃ m,
      l.foldl (fun s k => if mask.getLsbD k then s.setMemByte (16 * sec + k) (sectorByte v k) else s) s = { s with mem := m } := by
    intro l
    induction l with
    | nil => exact fun s => ⟨s.mem, rfl⟩
    | cons k l ih =>
      intro s
      rw [List.foldl_cons]
      split
      · obtain ⟨m, e⟩ := ih (s.setMemByte (16 * sec + k) (sectorByte v k)); exact ⟨m, e⟩
      · exact ih s
  exact h _ s

/-- Writing part of a sector keeps the form. -/
theorem State.memWf_setMemSector {s : State} (h : s.memWf = true) (sec : Nat) (mask : BitVec 16) (v : SectorData) :
    (s.setMemSector sec mask v).memWf = true := by
  have key : ∀ (l : List Nat) (s : State), s.memWf = true →
      (l.foldl (fun s k => if mask.getLsbD k then s.setMemByte (16 * sec + k) (sectorByte v k) else s) s).memWf = true := by
    intro l
    induction l with
    | nil => exact fun _ h => h
    | cons k l ih =>
      intro s h
      rw [List.foldl_cons]
      apply ih
      split
      · exact State.memWf_setMemByte h _ _
      · exact h
  exact key _ s h

@[simp] theorem State.die_modDie (s : State) (d e : DieId) (f : Die → Die) :
    (s.modDie d f).die e = if e = d then f (s.die d) else s.die e := by
  unfold State.modDie State.die
  by_cases h : e = d
  · simp [h]
  · have : (d : Nat) ≠ e := fun x => h (Fin.ext x.symm)
    simp [h, this]

/-- The memory of the machine right after reset is in the form. -/
theorem State.memWf_reset : State.reset.memWf = true := rfl

end Sys2Proof.Machine
end

