-- ==== Sys2Proof/Laws/Homes.lean ====
section
/-! SUPPORT. What homes can do: serving accesses, handing tokens on and writing for the device's agents change memory, the homes, the
messages on their way and what the host is asked for, and nothing else, and keep memory's canonical form. -/

namespace Sys2Proof.Machine

open Sys2Proof

/-- Only memory, the homes, the messages on their way and the questions to the host differ, and memory stays in its canonical form. -/
def State.HomeStep (s t : State) : Prop :=
  (∃ m h n r, t = { s with mem := m, homes := h, net := n, hostReads := r }) ∧ (s.memWf = true → t.memWf = true)

theorem State.HomeStep.refl (s : State) : s.HomeStep s := ⟨⟨_, _, _, _, rfl⟩, id⟩

theorem State.HomeStep.trans {s t u : State} (h : s.HomeStep t) (g : t.HomeStep u) : s.HomeStep u := by
  obtain ⟨⟨m, a, n, r, rfl⟩, w⟩ := h
  obtain ⟨⟨m', a', n', r', rfl⟩, w'⟩ := g
  exact ⟨⟨m', a', n', r', rfl⟩, fun h => w' (w h)⟩

/-- A fold of such steps is one. -/
theorem State.HomeStep.foldl {α : Type} {f : State → α → State} (h : ∀ (s : State) (x : α), s.HomeStep (f s x)) (l : List α) (s : State) :
    s.HomeStep (l.foldl f s) := by
  induction l generalizing s with
  | nil => exact .refl s
  | cons x l ih => exact (h s x).trans (ih _)

theorem State.modHome_step (s : State) (h : Home) (f : HomeState → HomeState) : s.HomeStep (s.modHome h f) :=
  ⟨⟨s.mem, _, s.net, s.hostReads, rfl⟩, id⟩

theorem State.sendTo_step (s : State) (d : Holder) (m : Msg) : s.HomeStep (s.sendTo d m) := ⟨⟨s.mem, s.homes, _, s.hostReads, rfl⟩, id⟩

theorem State.setMemSector_step (s : State) (sec : Nat) (mask : BitVec 16) (v : SectorData) : s.HomeStep (s.setMemSector sec mask v) := by
  refine ⟨?_, fun h => State.memWf_setMemSector h sec mask v⟩
  obtain ⟨m, e⟩ := s.setMemSector_eq sec mask v
  exact ⟨m, s.homes, s.net, s.hostReads, e⟩

theorem State.askHost_step (s : State) (h : Home) (sec : Nat) (own : Bool) : s.HomeStep (s.askHost h sec own) := by
  unfold State.askHost
  split
  · exact .refl s
  · split
    · exact .refl s
    · exact ⟨⟨s.mem, s.homes, s.net, _, rfl⟩, id⟩

theorem State.broadcast_step (s : State) (m : Msg) : s.HomeStep (s.broadcast m) :=
  State.HomeStep.foldl (fun s h => s.sendTo_step h m) _ s

theorem State.passAll_step (s : State) (h : Home) (dst : Holder) (sec : Nat) (p : Bool) : s.HomeStep (s.passAll (.home h) dst sec p) := by
  unfold State.passAll
  dsimp only
  split
  · exact .refl s
  · exact (s.modHome_step h _).trans (State.sendTo_step _ _ _)

theorem State.homeGive_step (s : State) (h : Home) (dst : Holder) (sec : Nat) : s.HomeStep (s.homeGive h dst sec) := by
  have a := s.askHost_step h sec true
  have p := s.passAll_step h dst sec true
  unfold State.homeGive
  dsimp only
  split
  · exact .refl s
  · split <;> (split <;> first | exact a | exact p)

theorem State.homeForward_step (s : State) (h : Home) : s.HomeStep (s.homeForward h) := by
  unfold State.homeForward
  split
  · exact .refl s
  · split
    · exact .refl s
    · exact State.HomeStep.foldl (fun s sec => s.homeGive_step h _ sec) _ s

theorem State.deactivate_step (s : State) (h : Home) : s.HomeStep (s.deactivate h) :=
  (s.modHome_step h _).trans (State.broadcast_step _ _)

theorem State.haspGo_step (h : Home) (n : Nat) : ∀ s : State, s.HomeStep (s.haspGo h n) := by
  induction n with
  | zero => exact fun s => .refl s
  | succ n ih =>
    intro s
    unfold State.haspGo
    dsimp only
    split
    · exact .refl s
    · split
      · exact .refl s
      · split
        · exact .refl s
        · split
          · exact ((((s.modHome_step h _).trans (State.broadcast_step _ _)).trans (State.homeForward_step _ h)).trans
              (State.deactivate_step _ h)).trans (ih _)
          · exact ((s.modHome_step h _).trans (State.broadcast_step _ _)).trans (State.homeForward_step _ h)

theorem State.homeDone_step (s : State) (h : Home) : s.HomeStep (s.homeDone h) := by
  unfold State.homeDone
  split
  · split
    · exact (s.deactivate_step h).trans (State.haspGo_step h _ _)
    · exact .refl s
  · exact .refl s

theorem State.homeReply_step (s : State) (to_ : Requester) (kind : Fin 3) (v : SectorData) (sec : Nat) :
    s.HomeStep (s.homeReply to_ kind v sec) := by
  unfold State.homeReply
  dsimp only
  split
  · split
    · exact .refl s
    · exact s.sendTo_step _ _
  · exact s.sendTo_step _ _

theorem State.homePerform_step (s : State) (i : HomeAcc) : s.HomeStep (s.homePerform i) := by
  cases i with
  | atom m => exact (s.setMemSector_step _ _ _).trans (State.homeReply_step _ _ _ _ _)
  | hld m => exact s.homeReply_step _ _ _ _
  | hst m => exact (s.setMemSector_step _ _ _).trans (State.homeReply_step _ _ _ _ _)

/-- All that serving the accesses of a sector can do. -/
theorem State.homeServe_step (s : State) (h : Home) (sec : Nat) : s.HomeStep (s.homeServe h sec) := by
  unfold State.homeServe
  dsimp only
  split
  · exact .refl s
  · split
    · split
      · exact s.askHost_step h sec _
      · exact ((s.modHome_step h _).trans (State.HomeStep.foldl (fun (s : State) (x : Nat × HomeAcc) => s.homePerform_step x.2) _ _)).trans (State.homeDone_step _ h)
    · split
      · exact .refl s
      · exact (s.modHome_step h _).trans (State.broadcast_step _ _)

theorem State.homeQueue_step (s : State) (sec : Nat) (i : HomeAcc) : s.HomeStep (s.homeQueue sec i) :=
  (s.modHome_step _ _).trans (State.homeServe_step _ _ sec)

theorem State.homeStore_step (d : DieId) (n : Nat) : ∀ (s : State) (pa : Nat) (bs : List Byte), s.HomeStep (s.homeStore d pa bs n) := by
  induction n with
  | zero => exact fun s _ _ => .refl s
  | succ n ih =>
    intro s pa bs
    unfold State.homeStore
    split
    · exact .refl s
    · exact (s.homeQueue_step _ _).trans (ih _ _ _)

/-- All that a write of an agent of the device can do at once. -/
theorem State.devWrite_step (s : State) (d : DieId) (pa : Nat) (bs : List Byte) : s.HomeStep (s.devWrite d pa bs) :=
  State.homeStore_step d _ s pa bs

end Sys2Proof.Machine
end

