-- ==== Sys2Proof/Laws/State.lean ====
section
/-! SUPPORT. One lemma per field per update of the state, so that no proof unfolds a record update. -/

namespace Sys2Proof.Machine

open Sys2Proof

@[simp] theorem State.setFocus_focused (x : State) (f : Strand) : (x.setFocus f).focused = x.focused := rfl
@[simp] theorem State.setFocus_focus (x : State) (f : Strand) : (x.setFocus f).focus = f := rfl
@[simp] theorem State.setFocus_crew (x : State) (f : Strand) : (x.setFocus f).crew = x.crew := rfl
@[simp] theorem State.setFocus_strands (x : State) (f : Strand) : (x.setFocus f).strands = x.strands := rfl
@[simp] theorem State.setFocus_crews (x : State) (f : Strand) : (x.setFocus f).crews = x.crews := rfl
@[simp] theorem State.setFocus_dies (x : State) (f : Strand) : (x.setFocus f).dies = x.dies := rfl
@[simp] theorem State.setFocus_homes (x : State) (f : Strand) : (x.setFocus f).homes = x.homes := rfl
@[simp] theorem State.setFocus_agents (x : State) (f : Strand) : (x.setFocus f).agents = x.agents := rfl
@[simp] theorem State.setFocus_snoops (x : State) (f : Strand) : (x.setFocus f).snoops = x.snoops := rfl
@[simp] theorem State.setFocus_hostAccs (x : State) (f : Strand) : (x.setFocus f).hostAccs = x.hostAccs := rfl
@[simp] theorem State.setFocus_hostReads (x : State) (f : Strand) : (x.setFocus f).hostReads = x.hostReads := rfl
@[simp] theorem State.setFocus_hostOut (x : State) (f : Strand) : (x.setFocus f).hostOut = x.hostOut := rfl
@[simp] theorem State.setFocus_hostLines (x : State) (f : Strand) : (x.setFocus f).hostLines = x.hostLines := rfl
@[simp] theorem State.setFocus_net (x : State) (f : Strand) : (x.setFocus f).net = x.net := rfl
@[simp] theorem State.setFocus_mem (x : State) (f : Strand) : (x.setFocus f).mem = x.mem := rfl
@[simp] theorem State.setFocus_ports (x : State) (f : Strand) : (x.setFocus f).ports = x.ports := rfl
@[simp] theorem State.setFocus_fabwin (x : State) (f : Strand) : (x.setFocus f).fabwin = x.fabwin := rfl
@[simp] theorem State.setFocus_outbox (x : State) (f : Strand) : (x.setFocus f).outbox = x.outbox := rfl
@[simp] theorem State.setFocus_portJobs (x : State) (f : Strand) : (x.setFocus f).portJobs = x.portJobs := rfl
@[simp] theorem State.setFocus_exports (x : State) (f : Strand) : (x.setFocus f).exports = x.exports := rfl
@[simp] theorem State.setFocus_mgmt (x : State) (f : Strand) : (x.setFocus f).mgmt = x.mgmt := rfl
@[simp] theorem State.setFocus_booted (x : State) (f : Strand) : (x.setFocus f).booted = x.booted := rfl
@[simp] theorem State.setFocus_recovery (x : State) (f : Strand) : (x.setFocus f).recovery = x.recovery := rfl
@[simp] theorem State.setFocus_liveDies (x : State) (f : Strand) : (x.setFocus f).liveDies = x.liveDies := rfl
@[simp] theorem State.setFocus_liveStacks (x : State) (f : Strand) : (x.setFocus f).liveStacks = x.liveStacks := rfl
@[simp] theorem State.setFocus_links (x : State) (f : Strand) : (x.setFocus f).links = x.links := rfl
@[simp] theorem State.setFocus_cxl (x : State) (f : Strand) : (x.setFocus f).cxl = x.cxl := rfl
@[simp] theorem State.setFocus_pkgId (x : State) (f : Strand) : (x.setFocus f).pkgId = x.pkgId := rfl
@[simp] theorem State.setFocus_fwVersion (x : State) (f : Strand) : (x.setFocus f).fwVersion = x.fwVersion := rfl
@[simp] theorem State.setFocus_fwImage (x : State) (f : Strand) : (x.setFocus f).fwImage = x.fwImage := rfl
@[simp] theorem State.setFocus_fwBusy (x : State) (f : Strand) : (x.setFocus f).fwBusy = x.fwBusy := rfl
@[simp] theorem State.setFocus_badLinks (x : State) (f : Strand) : (x.setFocus f).badLinks = x.badLinks := rfl
@[simp] theorem State.setFocus_carves (x : State) (f : Strand) : (x.setFocus f).carves = x.carves := rfl
@[simp] theorem State.setFocus_osEpoch (x : State) (f : Strand) : (x.setFocus f).osEpoch = x.osEpoch := rfl
@[simp] theorem State.setFocus_inUse (x : State) (f : Strand) : (x.setFocus f).inUse = x.inUse := rfl
@[simp] theorem State.setFocus_time (x : State) (f : Strand) : (x.setFocus f).time = x.time := rfl
@[simp] theorem State.setFocus_window (x : State) (f : Strand) : (x.setFocus f).window = x.window := rfl
@[simp] theorem State.setFocus_recStarts (x : State) (f : Strand) : (x.setFocus f).recStarts = x.recStarts := rfl
@[simp] theorem State.setFocus_turns (x : State) (f : Strand) : (x.setFocus f).turns = x.turns := rfl
@[simp] theorem State.setFocus_fresh (x : State) (f : Strand) : (x.setFocus f).fresh = x.fresh := rfl
@[simp] theorem State.setFocus_free (x : State) (f : Strand) : (x.setFocus f).free = x.free := rfl
@[simp] theorem State.setCrew_focused (x : State) (c : Crew) : (x.setCrew c).focused = x.focused := rfl
@[simp] theorem State.setCrew_focus (x : State) (c : Crew) : (x.setCrew c).focus = x.focus := rfl
@[simp] theorem State.setCrew_crew (x : State) (c : Crew) : (x.setCrew c).crew = c := rfl
@[simp] theorem State.setCrew_strands (x : State) (c : Crew) : (x.setCrew c).strands = x.strands := rfl
@[simp] theorem State.setCrew_crews (x : State) (c : Crew) : (x.setCrew c).crews = x.crews := rfl
@[simp] theorem State.setCrew_dies (x : State) (c : Crew) : (x.setCrew c).dies = x.dies := rfl
@[simp] theorem State.setCrew_homes (x : State) (c : Crew) : (x.setCrew c).homes = x.homes := rfl
@[simp] theorem State.setCrew_agents (x : State) (c : Crew) : (x.setCrew c).agents = x.agents := rfl
@[simp] theorem State.setCrew_snoops (x : State) (c : Crew) : (x.setCrew c).snoops = x.snoops := rfl
@[simp] theorem State.setCrew_hostAccs (x : State) (c : Crew) : (x.setCrew c).hostAccs = x.hostAccs := rfl
@[simp] theorem State.setCrew_hostReads (x : State) (c : Crew) : (x.setCrew c).hostReads = x.hostReads := rfl
@[simp] theorem State.setCrew_hostOut (x : State) (c : Crew) : (x.setCrew c).hostOut = x.hostOut := rfl
@[simp] theorem State.setCrew_hostLines (x : State) (c : Crew) : (x.setCrew c).hostLines = x.hostLines := rfl
@[simp] theorem State.setCrew_net (x : State) (c : Crew) : (x.setCrew c).net = x.net := rfl
@[simp] theorem State.setCrew_mem (x : State) (c : Crew) : (x.setCrew c).mem = x.mem := rfl
@[simp] theorem State.setCrew_ports (x : State) (c : Crew) : (x.setCrew c).ports = x.ports := rfl
@[simp] theorem State.setCrew_fabwin (x : State) (c : Crew) : (x.setCrew c).fabwin = x.fabwin := rfl
@[simp] theorem State.setCrew_outbox (x : State) (c : Crew) : (x.setCrew c).outbox = x.outbox := rfl
@[simp] theorem State.setCrew_portJobs (x : State) (c : Crew) : (x.setCrew c).portJobs = x.portJobs := rfl
@[simp] theorem State.setCrew_exports (x : State) (c : Crew) : (x.setCrew c).exports = x.exports := rfl
@[simp] theorem State.setCrew_mgmt (x : State) (c : Crew) : (x.setCrew c).mgmt = x.mgmt := rfl
@[simp] theorem State.setCrew_booted (x : State) (c : Crew) : (x.setCrew c).booted = x.booted := rfl
@[simp] theorem State.setCrew_recovery (x : State) (c : Crew) : (x.setCrew c).recovery = x.recovery := rfl
@[simp] theorem State.setCrew_liveDies (x : State) (c : Crew) : (x.setCrew c).liveDies = x.liveDies := rfl
@[simp] theorem State.setCrew_liveStacks (x : State) (c : Crew) : (x.setCrew c).liveStacks = x.liveStacks := rfl
@[simp] theorem State.setCrew_links (x : State) (c : Crew) : (x.setCrew c).links = x.links := rfl
@[simp] theorem State.setCrew_cxl (x : State) (c : Crew) : (x.setCrew c).cxl = x.cxl := rfl
@[simp] theorem State.setCrew_pkgId (x : State) (c : Crew) : (x.setCrew c).pkgId = x.pkgId := rfl
@[simp] theorem State.setCrew_fwVersion (x : State) (c : Crew) : (x.setCrew c).fwVersion = x.fwVersion := rfl
@[simp] theorem State.setCrew_fwImage (x : State) (c : Crew) : (x.setCrew c).fwImage = x.fwImage := rfl
@[simp] theorem State.setCrew_fwBusy (x : State) (c : Crew) : (x.setCrew c).fwBusy = x.fwBusy := rfl
@[simp] theorem State.setCrew_badLinks (x : State) (c : Crew) : (x.setCrew c).badLinks = x.badLinks := rfl
@[simp] theorem State.setCrew_carves (x : State) (c : Crew) : (x.setCrew c).carves = x.carves := rfl
@[simp] theorem State.setCrew_osEpoch (x : State) (c : Crew) : (x.setCrew c).osEpoch = x.osEpoch := rfl
@[simp] theorem State.setCrew_inUse (x : State) (c : Crew) : (x.setCrew c).inUse = x.inUse := rfl
@[simp] theorem State.setCrew_time (x : State) (c : Crew) : (x.setCrew c).time = x.time := rfl
@[simp] theorem State.setCrew_window (x : State) (c : Crew) : (x.setCrew c).window = x.window := rfl
@[simp] theorem State.setCrew_recStarts (x : State) (c : Crew) : (x.setCrew c).recStarts = x.recStarts := rfl
@[simp] theorem State.setCrew_turns (x : State) (c : Crew) : (x.setCrew c).turns = x.turns := rfl
@[simp] theorem State.setCrew_fresh (x : State) (c : Crew) : (x.setCrew c).fresh = x.fresh := rfl
@[simp] theorem State.setCrew_free (x : State) (c : Crew) : (x.setCrew c).free = x.free := rfl
@[simp] theorem State.modDie_focused (x : State) (d : DieId) (g : Die → Die) : (x.modDie d g).focused = x.focused := rfl
@[simp] theorem State.modDie_focus (x : State) (d : DieId) (g : Die → Die) : (x.modDie d g).focus = x.focus := rfl
@[simp] theorem State.modDie_crew (x : State) (d : DieId) (g : Die → Die) : (x.modDie d g).crew = x.crew := rfl
@[simp] theorem State.modDie_strands (x : State) (d : DieId) (g : Die → Die) : (x.modDie d g).strands = x.strands := rfl
@[simp] theorem State.modDie_crews (x : State) (d : DieId) (g : Die → Die) : (x.modDie d g).crews = x.crews := rfl
@[simp] theorem State.modDie_dies (x : State) (d : DieId) (g : Die → Die) : (x.modDie d g).dies = x.dies.set d (g x.dies[d]) := rfl
@[simp] theorem State.modDie_homes (x : State) (d : DieId) (g : Die → Die) : (x.modDie d g).homes = x.homes := rfl
@[simp] theorem State.modDie_agents (x : State) (d : DieId) (g : Die → Die) : (x.modDie d g).agents = x.agents := rfl
@[simp] theorem State.modDie_snoops (x : State) (d : DieId) (g : Die → Die) : (x.modDie d g).snoops = x.snoops := rfl
@[simp] theorem State.modDie_hostAccs (x : State) (d : DieId) (g : Die → Die) : (x.modDie d g).hostAccs = x.hostAccs := rfl
@[simp] theorem State.modDie_hostReads (x : State) (d : DieId) (g : Die → Die) : (x.modDie d g).hostReads = x.hostReads := rfl
@[simp] theorem State.modDie_hostOut (x : State) (d : DieId) (g : Die → Die) : (x.modDie d g).hostOut = x.hostOut := rfl
@[simp] theorem State.modDie_hostLines (x : State) (d : DieId) (g : Die → Die) : (x.modDie d g).hostLines = x.hostLines := rfl
@[simp] theorem State.modDie_net (x : State) (d : DieId) (g : Die → Die) : (x.modDie d g).net = x.net := rfl
@[simp] theorem State.modDie_mem (x : State) (d : DieId) (g : Die → Die) : (x.modDie d g).mem = x.mem := rfl
@[simp] theorem State.modDie_ports (x : State) (d : DieId) (g : Die → Die) : (x.modDie d g).ports = x.ports := rfl
@[simp] theorem State.modDie_fabwin (x : State) (d : DieId) (g : Die → Die) : (x.modDie d g).fabwin = x.fabwin := rfl
@[simp] theorem State.modDie_outbox (x : State) (d : DieId) (g : Die → Die) : (x.modDie d g).outbox = x.outbox := rfl
@[simp] theorem State.modDie_portJobs (x : State) (d : DieId) (g : Die → Die) : (x.modDie d g).portJobs = x.portJobs := rfl
@[simp] theorem State.modDie_exports (x : State) (d : DieId) (g : Die → Die) : (x.modDie d g).exports = x.exports := rfl
@[simp] theorem State.modDie_mgmt (x : State) (d : DieId) (g : Die → Die) : (x.modDie d g).mgmt = x.mgmt := rfl
@[simp] theorem State.modDie_booted (x : State) (d : DieId) (g : Die → Die) : (x.modDie d g).booted = x.booted := rfl
@[simp] theorem State.modDie_recovery (x : State) (d : DieId) (g : Die → Die) : (x.modDie d g).recovery = x.recovery := rfl
@[simp] theorem State.modDie_liveDies (x : State) (d : DieId) (g : Die → Die) : (x.modDie d g).liveDies = x.liveDies := rfl
@[simp] theorem State.modDie_liveStacks (x : State) (d : DieId) (g : Die → Die) : (x.modDie d g).liveStacks = x.liveStacks := rfl
@[simp] theorem State.modDie_links (x : State) (d : DieId) (g : Die → Die) : (x.modDie d g).links = x.links := rfl
@[simp] theorem State.modDie_cxl (x : State) (d : DieId) (g : Die → Die) : (x.modDie d g).cxl = x.cxl := rfl
@[simp] theorem State.modDie_pkgId (x : State) (d : DieId) (g : Die → Die) : (x.modDie d g).pkgId = x.pkgId := rfl
@[simp] theorem State.modDie_fwVersion (x : State) (d : DieId) (g : Die → Die) : (x.modDie d g).fwVersion = x.fwVersion := rfl
@[simp] theorem State.modDie_fwImage (x : State) (d : DieId) (g : Die → Die) : (x.modDie d g).fwImage = x.fwImage := rfl
@[simp] theorem State.modDie_fwBusy (x : State) (d : DieId) (g : Die → Die) : (x.modDie d g).fwBusy = x.fwBusy := rfl
@[simp] theorem State.modDie_badLinks (x : State) (d : DieId) (g : Die → Die) : (x.modDie d g).badLinks = x.badLinks := rfl
@[simp] theorem State.modDie_carves (x : State) (d : DieId) (g : Die → Die) : (x.modDie d g).carves = x.carves := rfl
@[simp] theorem State.modDie_osEpoch (x : State) (d : DieId) (g : Die → Die) : (x.modDie d g).osEpoch = x.osEpoch := rfl
@[simp] theorem State.modDie_inUse (x : State) (d : DieId) (g : Die → Die) : (x.modDie d g).inUse = x.inUse := rfl
@[simp] theorem State.modDie_time (x : State) (d : DieId) (g : Die → Die) : (x.modDie d g).time = x.time := rfl
@[simp] theorem State.modDie_window (x : State) (d : DieId) (g : Die → Die) : (x.modDie d g).window = x.window := rfl
@[simp] theorem State.modDie_recStarts (x : State) (d : DieId) (g : Die → Die) : (x.modDie d g).recStarts = x.recStarts := rfl
@[simp] theorem State.modDie_turns (x : State) (d : DieId) (g : Die → Die) : (x.modDie d g).turns = x.turns := rfl
@[simp] theorem State.modDie_fresh (x : State) (d : DieId) (g : Die → Die) : (x.modDie d g).fresh = x.fresh := rfl
@[simp] theorem State.modDie_free (x : State) (d : DieId) (g : Die → Die) : (x.modDie d g).free = x.free := rfl
@[simp] theorem State.modCtl_focused (x : State) (d : DieId) (g : Ctl → Ctl) : (x.modCtl d g).focused = x.focused := rfl
@[simp] theorem State.modCtl_focus (x : State) (d : DieId) (g : Ctl → Ctl) : (x.modCtl d g).focus = x.focus := rfl
@[simp] theorem State.modCtl_crew (x : State) (d : DieId) (g : Ctl → Ctl) : (x.modCtl d g).crew = x.crew := rfl
@[simp] theorem State.modCtl_strands (x : State) (d : DieId) (g : Ctl → Ctl) : (x.modCtl d g).strands = x.strands := rfl
@[simp] theorem State.modCtl_crews (x : State) (d : DieId) (g : Ctl → Ctl) : (x.modCtl d g).crews = x.crews := rfl
@[simp] theorem State.modCtl_dies (x : State) (d : DieId) (g : Ctl → Ctl) : (x.modCtl d g).dies = x.dies.set d { x.dies[d] with ctl := g x.dies[d].ctl } := rfl
@[simp] theorem State.modCtl_homes (x : State) (d : DieId) (g : Ctl → Ctl) : (x.modCtl d g).homes = x.homes := rfl
@[simp] theorem State.modCtl_agents (x : State) (d : DieId) (g : Ctl → Ctl) : (x.modCtl d g).agents = x.agents := rfl
@[simp] theorem State.modCtl_snoops (x : State) (d : DieId) (g : Ctl → Ctl) : (x.modCtl d g).snoops = x.snoops := rfl
@[simp] theorem State.modCtl_hostAccs (x : State) (d : DieId) (g : Ctl → Ctl) : (x.modCtl d g).hostAccs = x.hostAccs := rfl
@[simp] theorem State.modCtl_hostReads (x : State) (d : DieId) (g : Ctl → Ctl) : (x.modCtl d g).hostReads = x.hostReads := rfl
@[simp] theorem State.modCtl_hostOut (x : State) (d : DieId) (g : Ctl → Ctl) : (x.modCtl d g).hostOut = x.hostOut := rfl
@[simp] theorem State.modCtl_hostLines (x : State) (d : DieId) (g : Ctl → Ctl) : (x.modCtl d g).hostLines = x.hostLines := rfl
@[simp] theorem State.modCtl_net (x : State) (d : DieId) (g : Ctl → Ctl) : (x.modCtl d g).net = x.net := rfl
@[simp] theorem State.modCtl_mem (x : State) (d : DieId) (g : Ctl → Ctl) : (x.modCtl d g).mem = x.mem := rfl
@[simp] theorem State.modCtl_ports (x : State) (d : DieId) (g : Ctl → Ctl) : (x.modCtl d g).ports = x.ports := rfl
@[simp] theorem State.modCtl_fabwin (x : State) (d : DieId) (g : Ctl → Ctl) : (x.modCtl d g).fabwin = x.fabwin := rfl
@[simp] theorem State.modCtl_outbox (x : State) (d : DieId) (g : Ctl → Ctl) : (x.modCtl d g).outbox = x.outbox := rfl
@[simp] theorem State.modCtl_portJobs (x : State) (d : DieId) (g : Ctl → Ctl) : (x.modCtl d g).portJobs = x.portJobs := rfl
@[simp] theorem State.modCtl_exports (x : State) (d : DieId) (g : Ctl → Ctl) : (x.modCtl d g).exports = x.exports := rfl
@[simp] theorem State.modCtl_mgmt (x : State) (d : DieId) (g : Ctl → Ctl) : (x.modCtl d g).mgmt = x.mgmt := rfl
@[simp] theorem State.modCtl_booted (x : State) (d : DieId) (g : Ctl → Ctl) : (x.modCtl d g).booted = x.booted := rfl
@[simp] theorem State.modCtl_recovery (x : State) (d : DieId) (g : Ctl → Ctl) : (x.modCtl d g).recovery = x.recovery := rfl
@[simp] theorem State.modCtl_liveDies (x : State) (d : DieId) (g : Ctl → Ctl) : (x.modCtl d g).liveDies = x.liveDies := rfl
@[simp] theorem State.modCtl_liveStacks (x : State) (d : DieId) (g : Ctl → Ctl) : (x.modCtl d g).liveStacks = x.liveStacks := rfl
@[simp] theorem State.modCtl_links (x : State) (d : DieId) (g : Ctl → Ctl) : (x.modCtl d g).links = x.links := rfl
@[simp] theorem State.modCtl_cxl (x : State) (d : DieId) (g : Ctl → Ctl) : (x.modCtl d g).cxl = x.cxl := rfl
@[simp] theorem State.modCtl_pkgId (x : State) (d : DieId) (g : Ctl → Ctl) : (x.modCtl d g).pkgId = x.pkgId := rfl
@[simp] theorem State.modCtl_fwVersion (x : State) (d : DieId) (g : Ctl → Ctl) : (x.modCtl d g).fwVersion = x.fwVersion := rfl
@[simp] theorem State.modCtl_fwImage (x : State) (d : DieId) (g : Ctl → Ctl) : (x.modCtl d g).fwImage = x.fwImage := rfl
@[simp] theorem State.modCtl_fwBusy (x : State) (d : DieId) (g : Ctl → Ctl) : (x.modCtl d g).fwBusy = x.fwBusy := rfl
@[simp] theorem State.modCtl_badLinks (x : State) (d : DieId) (g : Ctl → Ctl) : (x.modCtl d g).badLinks = x.badLinks := rfl
@[simp] theorem State.modCtl_carves (x : State) (d : DieId) (g : Ctl → Ctl) : (x.modCtl d g).carves = x.carves := rfl
@[simp] theorem State.modCtl_osEpoch (x : State) (d : DieId) (g : Ctl → Ctl) : (x.modCtl d g).osEpoch = x.osEpoch := rfl
@[simp] theorem State.modCtl_inUse (x : State) (d : DieId) (g : Ctl → Ctl) : (x.modCtl d g).inUse = x.inUse := rfl
@[simp] theorem State.modCtl_time (x : State) (d : DieId) (g : Ctl → Ctl) : (x.modCtl d g).time = x.time := rfl
@[simp] theorem State.modCtl_window (x : State) (d : DieId) (g : Ctl → Ctl) : (x.modCtl d g).window = x.window := rfl
@[simp] theorem State.modCtl_recStarts (x : State) (d : DieId) (g : Ctl → Ctl) : (x.modCtl d g).recStarts = x.recStarts := rfl
@[simp] theorem State.modCtl_turns (x : State) (d : DieId) (g : Ctl → Ctl) : (x.modCtl d g).turns = x.turns := rfl
@[simp] theorem State.modCtl_fresh (x : State) (d : DieId) (g : Ctl → Ctl) : (x.modCtl d g).fresh = x.fresh := rfl
@[simp] theorem State.modCtl_free (x : State) (d : DieId) (g : Ctl → Ctl) : (x.modCtl d g).free = x.free := rfl
@[simp] theorem State.wrS_focused (x : State) (r : SReg) (v : Word) : (x.wrS r v).focused = x.focused := rfl
@[simp] theorem State.wrS_focus (x : State) (r : SReg) (v : Word) : (x.wrS r v).focus = x.focus.wrS r v := rfl
@[simp] theorem State.wrS_crew (x : State) (r : SReg) (v : Word) : (x.wrS r v).crew = x.crew := rfl
@[simp] theorem State.wrS_strands (x : State) (r : SReg) (v : Word) : (x.wrS r v).strands = x.strands := rfl
@[simp] theorem State.wrS_crews (x : State) (r : SReg) (v : Word) : (x.wrS r v).crews = x.crews := rfl
@[simp] theorem State.wrS_dies (x : State) (r : SReg) (v : Word) : (x.wrS r v).dies = x.dies := rfl
@[simp] theorem State.wrS_homes (x : State) (r : SReg) (v : Word) : (x.wrS r v).homes = x.homes := rfl
@[simp] theorem State.wrS_agents (x : State) (r : SReg) (v : Word) : (x.wrS r v).agents = x.agents := rfl
@[simp] theorem State.wrS_snoops (x : State) (r : SReg) (v : Word) : (x.wrS r v).snoops = x.snoops := rfl
@[simp] theorem State.wrS_hostAccs (x : State) (r : SReg) (v : Word) : (x.wrS r v).hostAccs = x.hostAccs := rfl
@[simp] theorem State.wrS_hostReads (x : State) (r : SReg) (v : Word) : (x.wrS r v).hostReads = x.hostReads := rfl
@[simp] theorem State.wrS_hostOut (x : State) (r : SReg) (v : Word) : (x.wrS r v).hostOut = x.hostOut := rfl
@[simp] theorem State.wrS_hostLines (x : State) (r : SReg) (v : Word) : (x.wrS r v).hostLines = x.hostLines := rfl
@[simp] theorem State.wrS_net (x : State) (r : SReg) (v : Word) : (x.wrS r v).net = x.net := rfl
@[simp] theorem State.wrS_mem (x : State) (r : SReg) (v : Word) : (x.wrS r v).mem = x.mem := rfl
@[simp] theorem State.wrS_ports (x : State) (r : SReg) (v : Word) : (x.wrS r v).ports = x.ports := rfl
@[simp] theorem State.wrS_fabwin (x : State) (r : SReg) (v : Word) : (x.wrS r v).fabwin = x.fabwin := rfl
@[simp] theorem State.wrS_outbox (x : State) (r : SReg) (v : Word) : (x.wrS r v).outbox = x.outbox := rfl
@[simp] theorem State.wrS_portJobs (x : State) (r : SReg) (v : Word) : (x.wrS r v).portJobs = x.portJobs := rfl
@[simp] theorem State.wrS_exports (x : State) (r : SReg) (v : Word) : (x.wrS r v).exports = x.exports := rfl
@[simp] theorem State.wrS_mgmt (x : State) (r : SReg) (v : Word) : (x.wrS r v).mgmt = x.mgmt := rfl
@[simp] theorem State.wrS_booted (x : State) (r : SReg) (v : Word) : (x.wrS r v).booted = x.booted := rfl
@[simp] theorem State.wrS_recovery (x : State) (r : SReg) (v : Word) : (x.wrS r v).recovery = x.recovery := rfl
@[simp] theorem State.wrS_liveDies (x : State) (r : SReg) (v : Word) : (x.wrS r v).liveDies = x.liveDies := rfl
@[simp] theorem State.wrS_liveStacks (x : State) (r : SReg) (v : Word) : (x.wrS r v).liveStacks = x.liveStacks := rfl
@[simp] theorem State.wrS_links (x : State) (r : SReg) (v : Word) : (x.wrS r v).links = x.links := rfl
@[simp] theorem State.wrS_cxl (x : State) (r : SReg) (v : Word) : (x.wrS r v).cxl = x.cxl := rfl
@[simp] theorem State.wrS_pkgId (x : State) (r : SReg) (v : Word) : (x.wrS r v).pkgId = x.pkgId := rfl
@[simp] theorem State.wrS_fwVersion (x : State) (r : SReg) (v : Word) : (x.wrS r v).fwVersion = x.fwVersion := rfl
@[simp] theorem State.wrS_fwImage (x : State) (r : SReg) (v : Word) : (x.wrS r v).fwImage = x.fwImage := rfl
@[simp] theorem State.wrS_fwBusy (x : State) (r : SReg) (v : Word) : (x.wrS r v).fwBusy = x.fwBusy := rfl
@[simp] theorem State.wrS_badLinks (x : State) (r : SReg) (v : Word) : (x.wrS r v).badLinks = x.badLinks := rfl
@[simp] theorem State.wrS_carves (x : State) (r : SReg) (v : Word) : (x.wrS r v).carves = x.carves := rfl
@[simp] theorem State.wrS_osEpoch (x : State) (r : SReg) (v : Word) : (x.wrS r v).osEpoch = x.osEpoch := rfl
@[simp] theorem State.wrS_inUse (x : State) (r : SReg) (v : Word) : (x.wrS r v).inUse = x.inUse := rfl
@[simp] theorem State.wrS_time (x : State) (r : SReg) (v : Word) : (x.wrS r v).time = x.time := rfl
@[simp] theorem State.wrS_window (x : State) (r : SReg) (v : Word) : (x.wrS r v).window = x.window := rfl
@[simp] theorem State.wrS_recStarts (x : State) (r : SReg) (v : Word) : (x.wrS r v).recStarts = x.recStarts := rfl
@[simp] theorem State.wrS_turns (x : State) (r : SReg) (v : Word) : (x.wrS r v).turns = x.turns := rfl
@[simp] theorem State.wrS_fresh (x : State) (r : SReg) (v : Word) : (x.wrS r v).fresh = x.fresh := rfl
@[simp] theorem State.wrS_free (x : State) (r : SReg) (v : Word) : (x.wrS r v).free = x.free := rfl
@[simp] theorem Strand.clearUnit_uid (x : Strand) : (x.clearUnit).uid = x.uid := rfl
@[simp] theorem Strand.clearUnit_crew (x : Strand) : (x.clearUnit).crew = x.crew := rfl
@[simp] theorem Strand.clearUnit_idx (x : Strand) : (x.clearUnit).idx = x.idx := rfl
@[simp] theorem Strand.clearUnit_root (x : Strand) : (x.clearUnit).root = x.root := rfl
@[simp] theorem Strand.clearUnit_parent (x : Strand) : (x.clearUnit).parent = x.parent := rfl
@[simp] theorem Strand.clearUnit_state (x : Strand) : (x.clearUnit).state = x.state := rfl
@[simp] theorem Strand.clearUnit_park (x : Strand) : (x.clearUnit).park = x.park := rfl
@[simp] theorem Strand.clearUnit_pc (x : Strand) : (x.clearUnit).pc = x.pc := rfl
@[simp] theorem Strand.clearUnit_s (x : Strand) : (x.clearUnit).s = x.s := rfl
@[simp] theorem Strand.clearUnit_p (x : Strand) : (x.clearUnit).p = x.p := rfl
@[simp] theorem Strand.clearUnit_live (x : Strand) : (x.clearUnit).live = x.live := rfl
@[simp] theorem Strand.clearUnit_returned (x : Strand) : (x.clearUnit).returned = x.returned := rfl
@[simp] theorem Strand.clearUnit_joins (x : Strand) : (x.clearUnit).joins = x.joins := rfl
@[simp] theorem Strand.clearUnit_mode (x : Strand) : (x.clearUnit).mode = x.mode := rfl
@[simp] theorem Strand.clearUnit_fflags (x : Strand) : (x.clearUnit).fflags = x.fflags := rfl
@[simp] theorem Strand.clearUnit_lfault (x : Strand) : (x.clearUnit).lfault = x.lfault := rfl
@[simp] theorem Strand.clearUnit_progress (x : Strand) : (x.clearUnit).progress = x.progress := rfl
@[simp] theorem Strand.clearUnit_mcerr (x : Strand) : (x.clearUnit).mcerr = x.mcerr := rfl
@[simp] theorem Strand.clearUnit_stklo (x : Strand) : (x.clearUnit).stklo = x.stklo := rfl
@[simp] theorem Strand.clearUnit_stkKeep (x : Strand) : (x.clearUnit).stkKeep = x.stkKeep := rfl
@[simp] theorem Strand.clearUnit_full (x : Strand) : (x.clearUnit).full = x.full := rfl
@[simp] theorem Strand.clearUnit_run (x : Strand) : (x.clearUnit).run = x.run := rfl
@[simp] theorem Strand.clearUnit_began (x : Strand) : (x.clearUnit).began = x.began := rfl
@[simp] theorem Strand.clearUnit_stalled (x : Strand) : (x.clearUnit).stalled = false := rfl
@[simp] theorem Strand.clearUnit_unitPc (x : Strand) : (x.clearUnit).unitPc = x.unitPc := rfl
@[simp] theorem Strand.clearUnit_unitLane (x : Strand) : (x.clearUnit).unitLane = x.unitLane := rfl
@[simp] theorem Strand.clearUnit_route (x : Strand) : (x.clearUnit).route = none := rfl
@[simp] theorem Strand.clearUnit_qual (x : Strand) : (x.clearUnit).qual = none := rfl
@[simp] theorem Strand.clearUnit_cur (x : Strand) : (x.clearUnit).cur = x.cur := rfl
@[simp] theorem Strand.clearUnit_busy (x : Strand) : (x.clearUnit).busy = x.busy := rfl
@[simp] theorem Strand.clearUnit_remotes (x : Strand) : (x.clearUnit).remotes = x.remotes := rfl
@[simp] theorem Strand.clearUnit_deferred (x : Strand) : (x.clearUnit).deferred = x.deferred := rfl
@[simp] theorem Strand.clearUnit_mcast (x : Strand) : (x.clearUnit).mcast = x.mcast := rfl
@[simp] theorem Strand.clearUnit_fills (x : Strand) : (x.clearUnit).fills = [] := rfl
@[simp] theorem Strand.clearUnit_got (x : Strand) : (x.clearUnit).got = [] := rfl
@[simp] theorem Strand.clearUnit_asked (x : Strand) : (x.clearUnit).asked = [] := rfl
@[simp] theorem Strand.clearUnit_homeReads (x : Strand) : (x.clearUnit).homeReads = [] := rfl
@[simp] theorem Strand.clearUnit_wants (x : Strand) : (x.clearUnit).wants = [] := rfl
@[simp] theorem Strand.clearUnit_near (x : Strand) : (x.clearUnit).near = none := rfl
@[simp] theorem Strand.clearUnit_checked (x : Strand) : (x.clearUnit).checked = [] := rfl
@[simp] theorem Strand.clearUnit_relSeq (x : Strand) : (x.clearUnit).relSeq = none := rfl
@[simp] theorem Strand.clearUnit_hstOut (x : Strand) : (x.clearUnit).hstOut = x.hstOut := rfl
@[simp] theorem Strand.clearUnit_heldSt (x : Strand) : (x.clearUnit).heldSt = x.heldSt := rfl
@[simp] theorem Strand.clearUnit_baseCls (x : Strand) : (x.clearUnit).baseCls = x.baseCls := rfl
@[simp] theorem Strand.clearUnit_cls (x : Strand) : (x.clearUnit).cls = x.cls := rfl
@[simp] theorem Strand.clearUnit_passes (x : Strand) : (x.clearUnit).passes = x.passes := rfl
@[simp] theorem Strand.clearUnit_joinSeq (x : Strand) : (x.clearUnit).joinSeq = x.joinSeq := rfl
@[simp] theorem Strand.clearUnit_quarter (x : Strand) : (x.clearUnit).quarter = x.quarter := rfl
@[simp] theorem Strand.clearUnit_ctx (x : Strand) : (x.clearUnit).ctx = x.ctx := rfl
@[simp] theorem Strand.clearUnit_skipBrk (x : Strand) : (x.clearUnit).skipBrk = false := rfl
@[simp] theorem Strand.clearUnit_stepDue (x : Strand) : (x.clearUnit).stepDue = none  := rfl
@[simp] theorem Strand.clearUnit_faulted (x : Strand) : (x.clearUnit).faulted = x.faulted := rfl
@[simp] theorem Strand.rewind_uid (x : Strand) : (x.rewind).uid = x.uid := rfl
@[simp] theorem Strand.rewind_crew (x : Strand) : (x.rewind).crew = x.crew := rfl
@[simp] theorem Strand.rewind_idx (x : Strand) : (x.rewind).idx = x.idx := rfl
@[simp] theorem Strand.rewind_root (x : Strand) : (x.rewind).root = x.root := rfl
@[simp] theorem Strand.rewind_parent (x : Strand) : (x.rewind).parent = x.parent := rfl
@[simp] theorem Strand.rewind_state (x : Strand) : (x.rewind).state = x.state := rfl
@[simp] theorem Strand.rewind_park (x : Strand) : (x.rewind).park = x.park := rfl
@[simp] theorem Strand.rewind_pc (x : Strand) : (x.rewind).pc = x.unitPc := rfl
@[simp] theorem Strand.rewind_s (x : Strand) : (x.rewind).s = x.s := rfl
@[simp] theorem Strand.rewind_p (x : Strand) : (x.rewind).p = x.p := rfl
@[simp] theorem Strand.rewind_live (x : Strand) : (x.rewind).live = x.live := rfl
@[simp] theorem Strand.rewind_returned (x : Strand) : (x.rewind).returned = x.returned := rfl
@[simp] theorem Strand.rewind_joins (x : Strand) : (x.rewind).joins = x.joins := rfl
@[simp] theorem Strand.rewind_mode (x : Strand) : (x.rewind).mode = x.mode := rfl
@[simp] theorem Strand.rewind_fflags (x : Strand) : (x.rewind).fflags = x.fflags := rfl
@[simp] theorem Strand.rewind_lfault (x : Strand) : (x.rewind).lfault = x.lfault := rfl
@[simp] theorem Strand.rewind_progress (x : Strand) : (x.rewind).progress = x.progress := rfl
@[simp] theorem Strand.rewind_mcerr (x : Strand) : (x.rewind).mcerr = x.mcerr := rfl
@[simp] theorem Strand.rewind_stklo (x : Strand) : (x.rewind).stklo = x.stklo := rfl
@[simp] theorem Strand.rewind_stkKeep (x : Strand) : (x.rewind).stkKeep = x.stkKeep := rfl
@[simp] theorem Strand.rewind_full (x : Strand) : (x.rewind).full = x.full := rfl
@[simp] theorem Strand.rewind_run (x : Strand) : (x.rewind).run = x.run - x.prefixWords := rfl
@[simp] theorem Strand.rewind_began (x : Strand) : (x.rewind).began = x.began := rfl
@[simp] theorem Strand.rewind_stalled (x : Strand) : (x.rewind).stalled = x.stalled := rfl
@[simp] theorem Strand.rewind_unitPc (x : Strand) : (x.rewind).unitPc = x.unitPc := rfl
@[simp] theorem Strand.rewind_unitLane (x : Strand) : (x.rewind).unitLane = x.unitLane := rfl
@[simp] theorem Strand.rewind_route (x : Strand) : (x.rewind).route = none := rfl
@[simp] theorem Strand.rewind_qual (x : Strand) : (x.rewind).qual = none := rfl
@[simp] theorem Strand.rewind_cur (x : Strand) : (x.rewind).cur = x.cur := rfl
@[simp] theorem Strand.rewind_busy (x : Strand) : (x.rewind).busy = x.busy := rfl
@[simp] theorem Strand.rewind_remotes (x : Strand) : (x.rewind).remotes = x.remotes := rfl
@[simp] theorem Strand.rewind_deferred (x : Strand) : (x.rewind).deferred = x.deferred := rfl
@[simp] theorem Strand.rewind_mcast (x : Strand) : (x.rewind).mcast = x.mcast := rfl
@[simp] theorem Strand.rewind_fills (x : Strand) : (x.rewind).fills = x.fills := rfl
@[simp] theorem Strand.rewind_got (x : Strand) : (x.rewind).got = x.got := rfl
@[simp] theorem Strand.rewind_asked (x : Strand) : (x.rewind).asked = x.asked := rfl
@[simp] theorem Strand.rewind_homeReads (x : Strand) : (x.rewind).homeReads = x.homeReads := rfl
@[simp] theorem Strand.rewind_wants (x : Strand) : (x.rewind).wants = x.wants := rfl
@[simp] theorem Strand.rewind_near (x : Strand) : (x.rewind).near = x.near := rfl
@[simp] theorem Strand.rewind_checked (x : Strand) : (x.rewind).checked = x.checked := rfl
@[simp] theorem Strand.rewind_relSeq (x : Strand) : (x.rewind).relSeq = x.relSeq := rfl
@[simp] theorem Strand.rewind_hstOut (x : Strand) : (x.rewind).hstOut = x.hstOut := rfl
@[simp] theorem Strand.rewind_heldSt (x : Strand) : (x.rewind).heldSt = x.heldSt := rfl
@[simp] theorem Strand.rewind_baseCls (x : Strand) : (x.rewind).baseCls = x.baseCls := rfl
@[simp] theorem Strand.rewind_cls (x : Strand) : (x.rewind).cls = x.cls := rfl
@[simp] theorem Strand.rewind_passes (x : Strand) : (x.rewind).passes = x.passes := rfl
@[simp] theorem Strand.rewind_joinSeq (x : Strand) : (x.rewind).joinSeq = x.joinSeq := rfl
@[simp] theorem Strand.rewind_quarter (x : Strand) : (x.rewind).quarter = x.quarter := rfl
@[simp] theorem Strand.rewind_ctx (x : Strand) : (x.rewind).ctx = x.ctx := rfl
@[simp] theorem Strand.rewind_skipBrk (x : Strand) : (x.rewind).skipBrk = x.skipBrk := rfl
@[simp] theorem Strand.rewind_stepDue (x : Strand) : (x.rewind).stepDue = x.stepDue := rfl
@[simp] theorem Strand.rewind_faulted (x : Strand) : (x.rewind).faulted = x.faulted := rfl
@[simp] theorem Strand.wrS_uid (x : Strand) (r : SReg) (v : Word) : (x.wrS r v).uid = x.uid := by unfold Strand.wrS; split <;> rfl
@[simp] theorem Strand.wrS_crew (x : Strand) (r : SReg) (v : Word) : (x.wrS r v).crew = x.crew := by unfold Strand.wrS; split <;> rfl
@[simp] theorem Strand.wrS_idx (x : Strand) (r : SReg) (v : Word) : (x.wrS r v).idx = x.idx := by unfold Strand.wrS; split <;> rfl
@[simp] theorem Strand.wrS_root (x : Strand) (r : SReg) (v : Word) : (x.wrS r v).root = x.root := by unfold Strand.wrS; split <;> rfl
@[simp] theorem Strand.wrS_parent (x : Strand) (r : SReg) (v : Word) : (x.wrS r v).parent = x.parent := by unfold Strand.wrS; split <;> rfl
@[simp] theorem Strand.wrS_state (x : Strand) (r : SReg) (v : Word) : (x.wrS r v).state = x.state := by unfold Strand.wrS; split <;> rfl
@[simp] theorem Strand.wrS_park (x : Strand) (r : SReg) (v : Word) : (x.wrS r v).park = x.park := by unfold Strand.wrS; split <;> rfl
@[simp] theorem Strand.wrS_pc (x : Strand) (r : SReg) (v : Word) : (x.wrS r v).pc = x.pc := by unfold Strand.wrS; split <;> rfl
@[simp] theorem Strand.wrS_p (x : Strand) (r : SReg) (v : Word) : (x.wrS r v).p = x.p := by unfold Strand.wrS; split <;> rfl
@[simp] theorem Strand.wrS_live (x : Strand) (r : SReg) (v : Word) : (x.wrS r v).live = x.live := by unfold Strand.wrS; split <;> rfl
@[simp] theorem Strand.wrS_returned (x : Strand) (r : SReg) (v : Word) : (x.wrS r v).returned = x.returned := by unfold Strand.wrS; split <;> rfl
@[simp] theorem Strand.wrS_joins (x : Strand) (r : SReg) (v : Word) : (x.wrS r v).joins = x.joins := by unfold Strand.wrS; split <;> rfl
@[simp] theorem Strand.wrS_mode (x : Strand) (r : SReg) (v : Word) : (x.wrS r v).mode = x.mode := by unfold Strand.wrS; split <;> rfl
@[simp] theorem Strand.wrS_fflags (x : Strand) (r : SReg) (v : Word) : (x.wrS r v).fflags = x.fflags := by unfold Strand.wrS; split <;> rfl
@[simp] theorem Strand.wrS_lfault (x : Strand) (r : SReg) (v : Word) : (x.wrS r v).lfault = x.lfault := by unfold Strand.wrS; split <;> rfl
@[simp] theorem Strand.wrS_progress (x : Strand) (r : SReg) (v : Word) : (x.wrS r v).progress = x.progress := by unfold Strand.wrS; split <;> rfl
@[simp] theorem Strand.wrS_mcerr (x : Strand) (r : SReg) (v : Word) : (x.wrS r v).mcerr = x.mcerr := by unfold Strand.wrS; split <;> rfl
@[simp] theorem Strand.wrS_stklo (x : Strand) (r : SReg) (v : Word) : (x.wrS r v).stklo = x.stklo := by unfold Strand.wrS; split <;> rfl
@[simp] theorem Strand.wrS_stkKeep (x : Strand) (r : SReg) (v : Word) : (x.wrS r v).stkKeep = x.stkKeep := by unfold Strand.wrS; split <;> rfl
@[simp] theorem Strand.wrS_full (x : Strand) (r : SReg) (v : Word) : (x.wrS r v).full = x.full := by unfold Strand.wrS; split <;> rfl
@[simp] theorem Strand.wrS_run (x : Strand) (r : SReg) (v : Word) : (x.wrS r v).run = x.run := by unfold Strand.wrS; split <;> rfl
@[simp] theorem Strand.wrS_began (x : Strand) (r : SReg) (v : Word) : (x.wrS r v).began = x.began := by unfold Strand.wrS; split <;> rfl
@[simp] theorem Strand.wrS_stalled (x : Strand) (r : SReg) (v : Word) : (x.wrS r v).stalled = x.stalled := by unfold Strand.wrS; split <;> rfl
@[simp] theorem Strand.wrS_unitPc (x : Strand) (r : SReg) (v : Word) : (x.wrS r v).unitPc = x.unitPc := by unfold Strand.wrS; split <;> rfl
@[simp] theorem Strand.wrS_unitLane (x : Strand) (r : SReg) (v : Word) : (x.wrS r v).unitLane = x.unitLane := by unfold Strand.wrS; split <;> rfl
@[simp] theorem Strand.wrS_route (x : Strand) (r : SReg) (v : Word) : (x.wrS r v).route = x.route := by unfold Strand.wrS; split <;> rfl
@[simp] theorem Strand.wrS_qual (x : Strand) (r : SReg) (v : Word) : (x.wrS r v).qual = x.qual := by unfold Strand.wrS; split <;> rfl
@[simp] theorem Strand.wrS_cur (x : Strand) (r : SReg) (v : Word) : (x.wrS r v).cur = x.cur := by unfold Strand.wrS; split <;> rfl
@[simp] theorem Strand.wrS_busy (x : Strand) (r : SReg) (v : Word) : (x.wrS r v).busy = x.busy := by unfold Strand.wrS; split <;> rfl
@[simp] theorem Strand.wrS_remotes (x : Strand) (r : SReg) (v : Word) : (x.wrS r v).remotes = x.remotes := by unfold Strand.wrS; split <;> rfl
@[simp] theorem Strand.wrS_deferred (x : Strand) (r : SReg) (v : Word) : (x.wrS r v).deferred = x.deferred := by unfold Strand.wrS; split <;> rfl
@[simp] theorem Strand.wrS_mcast (x : Strand) (r : SReg) (v : Word) : (x.wrS r v).mcast = x.mcast := by unfold Strand.wrS; split <;> rfl
@[simp] theorem Strand.wrS_fills (x : Strand) (r : SReg) (v : Word) : (x.wrS r v).fills = x.fills := by unfold Strand.wrS; split <;> rfl
@[simp] theorem Strand.wrS_got (x : Strand) (r : SReg) (v : Word) : (x.wrS r v).got = x.got := by unfold Strand.wrS; split <;> rfl
@[simp] theorem Strand.wrS_asked (x : Strand) (r : SReg) (v : Word) : (x.wrS r v).asked = x.asked := by unfold Strand.wrS; split <;> rfl
@[simp] theorem Strand.wrS_homeReads (x : Strand) (r : SReg) (v : Word) : (x.wrS r v).homeReads = x.homeReads := by unfold Strand.wrS; split <;> rfl
@[simp] theorem Strand.wrS_wants (x : Strand) (r : SReg) (v : Word) : (x.wrS r v).wants = x.wants := by unfold Strand.wrS; split <;> rfl
@[simp] theorem Strand.wrS_near (x : Strand) (r : SReg) (v : Word) : (x.wrS r v).near = x.near := by unfold Strand.wrS; split <;> rfl
@[simp] theorem Strand.wrS_checked (x : Strand) (r : SReg) (v : Word) : (x.wrS r v).checked = x.checked := by unfold Strand.wrS; split <;> rfl
@[simp] theorem Strand.wrS_relSeq (x : Strand) (r : SReg) (v : Word) : (x.wrS r v).relSeq = x.relSeq := by unfold Strand.wrS; split <;> rfl
@[simp] theorem Strand.wrS_hstOut (x : Strand) (r : SReg) (v : Word) : (x.wrS r v).hstOut = x.hstOut := by unfold Strand.wrS; split <;> rfl
@[simp] theorem Strand.wrS_heldSt (x : Strand) (r : SReg) (v : Word) : (x.wrS r v).heldSt = x.heldSt := by unfold Strand.wrS; split <;> rfl
@[simp] theorem Strand.wrS_baseCls (x : Strand) (r : SReg) (v : Word) : (x.wrS r v).baseCls = x.baseCls := by unfold Strand.wrS; split <;> rfl
@[simp] theorem Strand.wrS_cls (x : Strand) (r : SReg) (v : Word) : (x.wrS r v).cls = x.cls := by unfold Strand.wrS; split <;> rfl
@[simp] theorem Strand.wrS_passes (x : Strand) (r : SReg) (v : Word) : (x.wrS r v).passes = x.passes := by unfold Strand.wrS; split <;> rfl
@[simp] theorem Strand.wrS_joinSeq (x : Strand) (r : SReg) (v : Word) : (x.wrS r v).joinSeq = x.joinSeq := by unfold Strand.wrS; split <;> rfl
@[simp] theorem Strand.wrS_quarter (x : Strand) (r : SReg) (v : Word) : (x.wrS r v).quarter = x.quarter := by unfold Strand.wrS; split <;> rfl
@[simp] theorem Strand.wrS_ctx (x : Strand) (r : SReg) (v : Word) : (x.wrS r v).ctx = x.ctx := by unfold Strand.wrS; split <;> rfl
@[simp] theorem Strand.wrS_skipBrk (x : Strand) (r : SReg) (v : Word) : (x.wrS r v).skipBrk = x.skipBrk := by unfold Strand.wrS; split <;> rfl
@[simp] theorem Strand.wrS_stepDue (x : Strand) (r : SReg) (v : Word) : (x.wrS r v).stepDue = x.stepDue := by unfold Strand.wrS; split <;> rfl
@[simp] theorem Strand.wrS_faulted (x : Strand) (r : SReg) (v : Word) : (x.wrS r v).faulted = x.faulted := by unfold Strand.wrS; split <;> rfl
@[simp] theorem Strand.wrP_uid (x : Strand) (r : PReg) (v : Word) : (x.wrP r v).uid = x.uid := by unfold Strand.wrP; split <;> rfl
@[simp] theorem Strand.wrP_crew (x : Strand) (r : PReg) (v : Word) : (x.wrP r v).crew = x.crew := by unfold Strand.wrP; split <;> rfl
@[simp] theorem Strand.wrP_idx (x : Strand) (r : PReg) (v : Word) : (x.wrP r v).idx = x.idx := by unfold Strand.wrP; split <;> rfl
@[simp] theorem Strand.wrP_root (x : Strand) (r : PReg) (v : Word) : (x.wrP r v).root = x.root := by unfold Strand.wrP; split <;> rfl
@[simp] theorem Strand.wrP_parent (x : Strand) (r : PReg) (v : Word) : (x.wrP r v).parent = x.parent := by unfold Strand.wrP; split <;> rfl
@[simp] theorem Strand.wrP_state (x : Strand) (r : PReg) (v : Word) : (x.wrP r v).state = x.state := by unfold Strand.wrP; split <;> rfl
@[simp] theorem Strand.wrP_park (x : Strand) (r : PReg) (v : Word) : (x.wrP r v).park = x.park := by unfold Strand.wrP; split <;> rfl
@[simp] theorem Strand.wrP_pc (x : Strand) (r : PReg) (v : Word) : (x.wrP r v).pc = x.pc := by unfold Strand.wrP; split <;> rfl
@[simp] theorem Strand.wrP_s (x : Strand) (r : PReg) (v : Word) : (x.wrP r v).s = x.s := by unfold Strand.wrP; split <;> rfl
@[simp] theorem Strand.wrP_live (x : Strand) (r : PReg) (v : Word) : (x.wrP r v).live = x.live := by unfold Strand.wrP; split <;> rfl
@[simp] theorem Strand.wrP_returned (x : Strand) (r : PReg) (v : Word) : (x.wrP r v).returned = x.returned := by unfold Strand.wrP; split <;> rfl
@[simp] theorem Strand.wrP_joins (x : Strand) (r : PReg) (v : Word) : (x.wrP r v).joins = x.joins := by unfold Strand.wrP; split <;> rfl
@[simp] theorem Strand.wrP_mode (x : Strand) (r : PReg) (v : Word) : (x.wrP r v).mode = x.mode := by unfold Strand.wrP; split <;> rfl
@[simp] theorem Strand.wrP_fflags (x : Strand) (r : PReg) (v : Word) : (x.wrP r v).fflags = x.fflags := by unfold Strand.wrP; split <;> rfl
@[simp] theorem Strand.wrP_lfault (x : Strand) (r : PReg) (v : Word) : (x.wrP r v).lfault = x.lfault := by unfold Strand.wrP; split <;> rfl
@[simp] theorem Strand.wrP_progress (x : Strand) (r : PReg) (v : Word) : (x.wrP r v).progress = x.progress := by unfold Strand.wrP; split <;> rfl
@[simp] theorem Strand.wrP_mcerr (x : Strand) (r : PReg) (v : Word) : (x.wrP r v).mcerr = x.mcerr := by unfold Strand.wrP; split <;> rfl
@[simp] theorem Strand.wrP_stklo (x : Strand) (r : PReg) (v : Word) : (x.wrP r v).stklo = x.stklo := by unfold Strand.wrP; split <;> rfl
@[simp] theorem Strand.wrP_stkKeep (x : Strand) (r : PReg) (v : Word) : (x.wrP r v).stkKeep = x.stkKeep := by unfold Strand.wrP; split <;> rfl
@[simp] theorem Strand.wrP_full (x : Strand) (r : PReg) (v : Word) : (x.wrP r v).full = x.full := by unfold Strand.wrP; split <;> rfl
@[simp] theorem Strand.wrP_run (x : Strand) (r : PReg) (v : Word) : (x.wrP r v).run = x.run := by unfold Strand.wrP; split <;> rfl
@[simp] theorem Strand.wrP_began (x : Strand) (r : PReg) (v : Word) : (x.wrP r v).began = x.began := by unfold Strand.wrP; split <;> rfl
@[simp] theorem Strand.wrP_stalled (x : Strand) (r : PReg) (v : Word) : (x.wrP r v).stalled = x.stalled := by unfold Strand.wrP; split <;> rfl
@[simp] theorem Strand.wrP_unitPc (x : Strand) (r : PReg) (v : Word) : (x.wrP r v).unitPc = x.unitPc := by unfold Strand.wrP; split <;> rfl
@[simp] theorem Strand.wrP_unitLane (x : Strand) (r : PReg) (v : Word) : (x.wrP r v).unitLane = x.unitLane := by unfold Strand.wrP; split <;> rfl
@[simp] theorem Strand.wrP_route (x : Strand) (r : PReg) (v : Word) : (x.wrP r v).route = x.route := by unfold Strand.wrP; split <;> rfl
@[simp] theorem Strand.wrP_qual (x : Strand) (r : PReg) (v : Word) : (x.wrP r v).qual = x.qual := by unfold Strand.wrP; split <;> rfl
@[simp] theorem Strand.wrP_cur (x : Strand) (r : PReg) (v : Word) : (x.wrP r v).cur = x.cur := by unfold Strand.wrP; split <;> rfl
@[simp] theorem Strand.wrP_busy (x : Strand) (r : PReg) (v : Word) : (x.wrP r v).busy = x.busy := by unfold Strand.wrP; split <;> rfl
@[simp] theorem Strand.wrP_remotes (x : Strand) (r : PReg) (v : Word) : (x.wrP r v).remotes = x.remotes := by unfold Strand.wrP; split <;> rfl
@[simp] theorem Strand.wrP_deferred (x : Strand) (r : PReg) (v : Word) : (x.wrP r v).deferred = x.deferred := by unfold Strand.wrP; split <;> rfl
@[simp] theorem Strand.wrP_mcast (x : Strand) (r : PReg) (v : Word) : (x.wrP r v).mcast = x.mcast := by unfold Strand.wrP; split <;> rfl
@[simp] theorem Strand.wrP_fills (x : Strand) (r : PReg) (v : Word) : (x.wrP r v).fills = x.fills := by unfold Strand.wrP; split <;> rfl
@[simp] theorem Strand.wrP_got (x : Strand) (r : PReg) (v : Word) : (x.wrP r v).got = x.got := by unfold Strand.wrP; split <;> rfl
@[simp] theorem Strand.wrP_asked (x : Strand) (r : PReg) (v : Word) : (x.wrP r v).asked = x.asked := by unfold Strand.wrP; split <;> rfl
@[simp] theorem Strand.wrP_homeReads (x : Strand) (r : PReg) (v : Word) : (x.wrP r v).homeReads = x.homeReads := by unfold Strand.wrP; split <;> rfl
@[simp] theorem Strand.wrP_wants (x : Strand) (r : PReg) (v : Word) : (x.wrP r v).wants = x.wants := by unfold Strand.wrP; split <;> rfl
@[simp] theorem Strand.wrP_near (x : Strand) (r : PReg) (v : Word) : (x.wrP r v).near = x.near := by unfold Strand.wrP; split <;> rfl
@[simp] theorem Strand.wrP_checked (x : Strand) (r : PReg) (v : Word) : (x.wrP r v).checked = x.checked := by unfold Strand.wrP; split <;> rfl
@[simp] theorem Strand.wrP_relSeq (x : Strand) (r : PReg) (v : Word) : (x.wrP r v).relSeq = x.relSeq := by unfold Strand.wrP; split <;> rfl
@[simp] theorem Strand.wrP_hstOut (x : Strand) (r : PReg) (v : Word) : (x.wrP r v).hstOut = x.hstOut := by unfold Strand.wrP; split <;> rfl
@[simp] theorem Strand.wrP_heldSt (x : Strand) (r : PReg) (v : Word) : (x.wrP r v).heldSt = x.heldSt := by unfold Strand.wrP; split <;> rfl
@[simp] theorem Strand.wrP_baseCls (x : Strand) (r : PReg) (v : Word) : (x.wrP r v).baseCls = x.baseCls := by unfold Strand.wrP; split <;> rfl
@[simp] theorem Strand.wrP_cls (x : Strand) (r : PReg) (v : Word) : (x.wrP r v).cls = x.cls := by unfold Strand.wrP; split <;> rfl
@[simp] theorem Strand.wrP_passes (x : Strand) (r : PReg) (v : Word) : (x.wrP r v).passes = x.passes := by unfold Strand.wrP; split <;> rfl
@[simp] theorem Strand.wrP_joinSeq (x : Strand) (r : PReg) (v : Word) : (x.wrP r v).joinSeq = x.joinSeq := by unfold Strand.wrP; split <;> rfl
@[simp] theorem Strand.wrP_quarter (x : Strand) (r : PReg) (v : Word) : (x.wrP r v).quarter = x.quarter := by unfold Strand.wrP; split <;> rfl
@[simp] theorem Strand.wrP_ctx (x : Strand) (r : PReg) (v : Word) : (x.wrP r v).ctx = x.ctx := by unfold Strand.wrP; split <;> rfl
@[simp] theorem Strand.wrP_skipBrk (x : Strand) (r : PReg) (v : Word) : (x.wrP r v).skipBrk = x.skipBrk := by unfold Strand.wrP; split <;> rfl
@[simp] theorem Strand.wrP_stepDue (x : Strand) (r : PReg) (v : Word) : (x.wrP r v).stepDue = x.stepDue := by unfold Strand.wrP; split <;> rfl
@[simp] theorem Strand.wrP_faulted (x : Strand) (r : PReg) (v : Word) : (x.wrP r v).faulted = x.faulted := by unfold Strand.wrP; split <;> rfl

end Sys2Proof.Machine
end

