-- ==== Sys2Proof/Laws/Strand.lean ====
section
/-! SUPPORT. What the shared operations of a strand do: registers, waiting, completing a unit, and taking a fault. -/

namespace Sys2Proof.Machine

open Sys2Proof

/-! ### Registers -/

@[simp] theorem Strand.rdS_zero (f : Strand) : f.rdS 0 = 0 := rfl

/-- A write is read back, except through s0 (R17). -/
theorem Strand.rdS_wrS (f : Strand) (r q : SReg) (v : Word) :
    (f.wrS r v).rdS q = if q = r then (if r = 0 then 0 else v) else f.rdS q := by
  unfold Strand.rdS Strand.wrS
  by_cases h0 : r = 0
  · rw [if_pos h0]
    by_cases h : q = 0
    · rw [if_pos h, if_pos (h.trans h0.symm), if_pos h0]
    · rw [if_neg h, if_neg (fun e => h (e.trans h0))]
  · rw [if_neg h0]
    by_cases h : q = r
    · subst h; rw [if_neg h0, if_pos rfl, if_neg h0]; exact Vector.getElem_set_self _
    · rw [if_neg h]
      split
      · rfl
      · exact Vector.getElem_set_ne r.isLt q.isLt (fun e => h (BitVec.eq_of_toNat_eq e.symm))

@[simp] theorem State.rdS_wrS (s : State) (r q : SReg) (v : Word) :
    (s.wrS r v).rdS q = if q = r then (if r = 0 then 0 else v) else s.rdS q := Strand.rdS_wrS s.focus r q v

@[simp] theorem State.rdS_setFocus (s : State) (f : Strand) (r : SReg) : (s.setFocus f).rdS r = f.rdS r := rfl

/-! ### Waiting -/

/-- A unit that waits for nothing goes on. -/
theorem State.gate_next {s : State} {rs ws : List SReg} {vs : List (Nat × Bool)} (h : s.waits rs ws vs = none) (k : State → State) :
    s.gate rs ws vs k = k (s.overwrite ws) := by simp [State.gate, h]

/-- Overwriting a register changes only what is owed to it. -/
theorem State.overwrite_eq (s : State) (ws : List SReg) : ∃ m d, s.overwrite ws = s.setFocus { s.focus with remotes := m, deferred := d } := by
  unfold State.overwrite
  split
  · exact ⟨s.focus.remotes, s.focus.deferred, rfl⟩
  · exact ⟨_, _, rfl⟩

@[simp] theorem State.overwrite_rdS (s : State) (ws : List SReg) (r : SReg) : (s.overwrite ws).rdS r = s.rdS r := by
  obtain ⟨m, d, h⟩ := s.overwrite_eq ws; rw [h]; rfl
@[simp] theorem State.overwrite_pc (s : State) (ws : List SReg) : (s.overwrite ws).focus.pc = s.focus.pc := by
  obtain ⟨m, d, h⟩ := s.overwrite_eq ws; rw [h]; rfl
@[simp] theorem State.overwrite_crew (s : State) (ws : List SReg) : (s.overwrite ws).crew = s.crew := by
  obtain ⟨m, d, h⟩ := s.overwrite_eq ws; rw [h]; rfl
@[simp] theorem State.overwrite_nil (s : State) : s.overwrite [] = s := rfl

/-! ### The fault ring -/

/-- Reporting a fault changes the die (the ring's tail, the records that wait) and what a write at a home changes, and nothing else. -/
theorem State.reportFault_eq (s : State) (d : DieId) (r : FaultRec) :
    ∃ m x h n q, s.reportFault d r = { s with mem := m, dies := x, homes := h, net := n, hostReads := q } := by
  unfold State.reportFault
  split
  · exact ⟨s.mem, _, s.homes, s.net, s.hostReads, rfl⟩
  · obtain ⟨⟨m, h, n, q, e⟩, _⟩ := s.devWrite_step d ((s.die d).ctl.flt.at_ 32 (s.die d).ctl.flt.tail) r.bytes
    unfold State.putFault
    dsimp only
    rw [e]
    exact ⟨_, _, _, _, _, rfl⟩

@[simp] theorem State.reportFault_focus (s : State) (d : DieId) (r : FaultRec) : (s.reportFault d r).focus = s.focus := by
  obtain ⟨m, x, h, n, q, e⟩ := s.reportFault_eq d r; rw [e]
@[simp] theorem State.reportFault_crew (s : State) (d : DieId) (r : FaultRec) : (s.reportFault d r).crew = s.crew := by
  obtain ⟨m, x, h, n, q, e⟩ := s.reportFault_eq d r; rw [e]

/-- Taking a fault parks the strand at its unit and keeps every register (R299). -/
@[simp] theorem State.takeFault_focus (s : State) (r : FaultRec) :
    (s.takeFault r).focus = { s.focus.rewind.clearUnit with state := .parked, park := some .fault, faulted := some (r, true) } := by
  simp [State.takeFault]
@[simp] theorem State.takeFault_crew (s : State) (r : FaultRec) : (s.takeFault r).crew = s.crew := by simp [State.takeFault]

theorem State.takeFault_faulted (s : State) (r : FaultRec) : s.Faulted (s.takeFault r) r := by
  simp [State.Faulted, Strand.clearUnit, Strand.rewind]

/-! ### Completing a unit -/

@[simp] theorem State.goto_pc (s : State) (e : Bool) (t : Word) : (s.goto e t).focus.pc = t := by unfold State.goto; dsimp only; split <;> rfl
@[simp] theorem State.goto_unitPc (s : State) (e : Bool) (t : Word) : (s.goto e t).focus.unitPc = t := by unfold State.goto; dsimp only; split <;> rfl
@[simp] theorem State.goto_crew (s : State) (e : Bool) (t : Word) : (s.goto e t).crew = s.crew := by unfold State.goto; dsimp only; split <;> rfl
@[simp] theorem State.goto_rdS (s : State) (e : Bool) (t : Word) (r : SReg) : (s.goto e t).rdS r = s.rdS r := by
  unfold State.goto; dsimp only; split <;> rfl

/-- What a unit that completes leaves of its strand. -/
theorem State.goto_eq (s : State) (e : Bool) (t : Word) : s.SameButStrand (s.goto e t) ∧ (s.goto e t).focus.seen = s.focus.seen := by
  unfold State.goto; dsimp only; split <;> exact ⟨rfl, rfl⟩

/-- With no debugger watching, a unit that completes only moves the strand on. -/
theorem State.complete_eq {s : State} (h : s.watchedSteps = false) (e : Bool) (t : Word) : s.complete e t = s.goto e t := by
  unfold State.complete
  simp only [State.watchedSteps] at h
  simp [h]

theorem State.finish_eq {s : State} (h : s.watchedSteps = false) (e : Bool) : s.finish e = s.goto e (s.focus.pc + 4) :=
  State.complete_eq h e _

@[simp] theorem State.complete_pc (s : State) (e : Bool) (t : Word) : (s.complete e t).focus.pc = t := by
  unfold State.complete
  dsimp only
  split <;> simp
@[simp] theorem State.complete_rdS (s : State) (e : Bool) (t : Word) (r : SReg) : (s.complete e t).rdS r = s.rdS r := by
  unfold State.complete
  dsimp only
  split
  · unfold State.rdS; rw [State.takeFault_focus]; exact s.goto_rdS e t r
  · simp
@[simp] theorem State.finish_pc (s : State) (e : Bool) : (s.finish e).focus.pc = s.focus.pc + 4 := s.complete_pc e _
@[simp] theorem State.finish_rdS (s : State) (e : Bool) (r : SReg) : (s.finish e).rdS r = s.rdS r := s.complete_rdS e _ r

/-! ### The scalar unit -/

/-- Reading fewer registers waits for no more. -/
theorem State.waits_mono {s : State} {rs rs' ws : List SReg} (h : s.waits rs' ws [] = none) (hs : ∀ r ∈ rs, r ∈ rs') : s.waits rs ws [] = none := by
  unfold State.waits at h ⊢
  split at h
  · cases h
  · rename_i hf
    split at h
    · cases h
    · rename_i hr
      split at h
      · cases h
      · rename_i hd
        have h1 : (rs ++ ws).find? (fun r => s.focus.busy.any (fun b => b.1 == r.toNat)) = none := by
          rw [List.find?_eq_none] at hf ⊢
          intro x hx
          rcases List.mem_append.1 hx with hx | hx
          · exact hf x (List.mem_append_left _ (hs x hx))
          · exact hf x (List.mem_append_right _ hx)
        have hh : ∀ d : Dest, d.hits rs [] = true → d.hits rs' [] = true := by
          intro d hd
          cases d <;> simp_all [Dest.hits]
        have h2 : ¬ (s.focus.remotes.any (fun m => m.dest.hits rs [])) = true := by
          simp only [List.any_eq_true, not_exists, not_and] at hr ⊢
          intro x hx hc
          exact hr x hx (hh _ hc)
        have h3 : s.focus.deferred.find? (fun x => x.dest.hits rs []) = none := by
          rw [List.find?_eq_none] at hd ⊢
          exact fun x hx hc => hd x hx (hh _ hc)
        simp [h1, h2, h3]

/-- All that a scalar operation of two registers does that its reader can see. -/
theorem State.alu2_spec {s : State} {e rd ra rb f} (h : s.waits [ra, rb] [rd] [] = none) :
    let t := s.alu2 e rd ra rb f
    t.rdS rd = (if rd = 0 then (0 : Word) else f (s.rdS ra) (s.rdS rb)) ∧ (∀ r, r ≠ rd → t.rdS r = s.rdS r) ∧ t.focus.pc = s.focus.pc + 4 := by
  simp only [State.alu2, State.gate_next h]
  refine ⟨by simp, fun r hr => by simp [hr], by simp⟩

/-- All that a scalar operation of one register does that its reader can see. -/
theorem State.alu1_spec {s : State} {e rd ra f} (h : s.waits [ra] [rd] [] = none) :
    let t := s.alu1 e rd ra f
    t.rdS rd = (if rd = 0 then (0 : Word) else f (s.rdS ra)) ∧ (∀ r, r ≠ rd → t.rdS r = s.rdS r) ∧ t.focus.pc = s.focus.pc + 4 := by
  simp only [State.alu1, State.gate_next h]
  refine ⟨by simp, fun r hr => by simp [hr], by simp⟩

end Sys2Proof.Machine
end

