-- ==== Sys2Proof/Tests/Slice0.lean ====
section
/-! SUPPORT. The model's own tests: ill-formed terms that the checks refuse, the manual's sample words decoded, single steps with
results from the manual's examples, and for each statement concrete states that meet its hypotheses. -/

namespace Sys2Proof.Tests

set_option Elab.async false

open Sys2Proof Sys2Proof.Machine

/-! ### Well-formed terms: an ill-formed term for each check -/

/-- Numbers of special registers (R36, R81), shift immediates (R70), a source type (R102), p0 as a destination (R105, R107). -/
theorem test_wf_scalar_and_vector : ∀ i ∈ [Instr.getsr false 1 22, .setsr false 1 0, .shli false 1 2 64, .shri false 1 2 64,
    .srai false 1 2 64, .vcvt false .l32 4 5, .vcmp false .lt 0 4 5, .vfcmp false .un 0 4 5, .pand false 0 1 2, .por false 0 1 2,
    .pxor false 0 1 2, .pandn false 0 1 2, .pnot false 0 1, .pmov false 0 1, .pfirst false 0 1, .pfroms false 0 1],
    i.wf = false := by decide +kernel

/-- Scopes and orders (R51, R234), sign-extending 64-bit loads (R55), atomics (R230, R233), tile operands (R176 to R181). -/
theorem test_wf_memory_and_tiles : ∀ i ∈ [Instr.qual 6 .rlx 0, .qual 7 .acq 0, .sld false 3 true false 1 2 0,
    .satom false .fadd false true 1 2 3, .satom false .cas true false 63 2 3, .fence false 6 .ar, .fence false 5 .rlx,
    .mdeq 9 0 0 false, .mdeq 8 0 193 false, .mhad 3 0 0 false, .mhad 2 1 0 false, .mhad 0 0 5 false, .mqnt 20 17 false false,
    .mqnt 20 18 true false, .mmla 0 0 8 0 2 false, .mmla 1 0 8 7 7 false, .msto 1 0 3 false 0 false, .msto 1 0 0 false 5 false,
    .msto 1 1 2 false 0 false], i.wf = false := by decide +kernel

/-! ### Decoding: the manual's sample words -/

/-- Scalar words (R48, R53, R54, and the samples of R68 to R86). -/
theorem test_decode_scalar : ∀ x ∈ [(0x08145187, Instr.div false 5 6 7), (0x08603100, .popc false 3 4), (0x0A514040, .addi false 10 10 64),
    (0x0C28A007, .andi false 5 5 7), (0x0A411FFF, .addi false 8 8 0x1FFF), (0x9C40000A, .li true 8 10), (0x1E3807C0, .lui false 7 0x7C0),
    (0x20248D15, .lsi false 4 0x48D15), (0x001C9013, .getsr false 9 19), (0x002000CF, .setsr false 3 15), (0x00242000, .getm false 2),
    (0x00280080, .setmr false 2), (0x04000008, .setm false 8), (0x08046147, .sub false 6 5 7)],
    (decodeWord x.1).toOption = some x.2 := by decide +kernel

/-- Control transfer, strand control and system calls. -/
theorem test_decode_control : ∀ x ∈ [(0xA248FFF5, Instr.bnz 8 0xFFF5), (0xA2C60004, .bgez 6 4), (0xA4000005, .jmp 5), (0xA5FFFFFA, .jmp 0x1FFFFFA),
    (0xA6000003, .call 3), (0xA8000140, .jr 5), (0xA8040240, .calli 9), (0xA8080000, .ret), (0xAA210006, .eject 4 1 6), (0x80040000, .exit),
    (0x802C0000, .join), (0, .nop false), (0x80080000, .yield), (0x000C0000, .ebreak false), (0x801000C0, .pause 3), (0x80140000, .acquire),
    (0x80184146, .waitc 4 5 6), (0x82000001, .trap 1)], (decodeWord x.1).toOption = some x.2 := by decide +kernel

/-- Vector arithmetic. -/
theorem test_decode_vector : ∀ x ∈ [(0x30010286, Instr.vadd false 4 5 6), (0x32010286, .vaddS false 4 5 6), (0x30810286, .vmulhu false 4 5 6),
    (0x34010280, .vneg false 4 5), (0x35010286, .vsel false 4 5 6), (0x35210286, .vmad false 4 5 6), (0x36102FFD, .vaddi false 4 5 0x7FD),
    (0x38200000, .vli false 8 0), (0x3A01C381, .vfadd false 7 7 1), (0x3AC08180, .vfsqrt false 2 3), (0x3C418387, .vfmulS false 6 7 7),
    (0x3E020103, .vfma false 8 2 3), (0x3E620103, .vfnms false 8 2 3), (0x41010280, .vcvt false .f32 4 5), (0x42410286, .vlmul false 4 5 6),
    (0x42010280, .vtolog false 4 5), (0x44442050, .vcmp false .lt 1 4 5), (0x46C82040, .vfcmp false .un 2 4 4)],
    (decodeWord x.1).toOption = some x.2 := by decide +kernel

/-- Predicates, the cross-lane group, relative moves and prefixes. -/
theorem test_decode_lanes : ∀ x ∈ [(0x48053000, Instr.pand false 1 2 3), (0x48E40240, .pfroms false 1 9), (0x4C062808, .vrdx false 3 5 8),
    (0x4D022808, .vwrx false 1 5 8), (0x4A083080, .vred false .max 6 8), (0x4A202030, .vscan false .add 4 3), (0x4A40A010, .vballot false 20 1),
    (0x4A60A810, .vpcnt false 21 1), (0x4A803820, .vany false 7 2), (0x4AA03820, .vall false 7 2), (0x4AC02054, .vcompress false 4 5 2),
    (0x4AE02054, .vexpand false 4 5 2), (0x4B002800, .vlaneid false 5), (0x4B202030, .vfill false 4 3), (0x4B402034, .vins false 4 3 2),
    (0x4B601844, .vext false 3 4 2), (0x4E040000, .route 2 0 0 false), (0x4E920000, .route 0x49 0 0 false), (0x51100000, .qual 4 .acq 0)],
    (decodeWord x.1).toOption = some x.2 := by decide +kernel

/-- Memory, atomics, fences and barriers. -/
theorem test_decode_memory : ∀ x ∈ [(0x52009400, Instr.vld false 1 10 0), (0x52411200, .vldUni false 2 9 0), (0x54031400, .vst false 6 10 0),
    (0x5400B850, .vst false 1 28 80), (0x56011416, .vldx false 2 10 5 2), (0x58031416, .vstx false 6 10 5 2), (0x5A00B800, .vstc false 1 28 0),
    (0x5C420C00, .vlds false 1 4 6 0), (0x5E420C00, .vsts false 1 4 6 0), (0x60030012, .vldsx false 0 6 0 4 2), (0x62028012, .vstsx false 0 5 0 4 2),
    (0x65851200, .sld false 3 false false 10 9 0), (0x65817BFE, .sld false 3 false false 2 61 0x1FE), (0x679EFE02, .sst false 3 false 61 63 2),
    (0x68108505, .vatom false .add true 4 10 5), (0x69510505, .vatom false .cas true 8 10 5), (0x6B608005, .vatoms false .inc false 4 0 5),
    (0x6C184146, .satom false .add true true 4 5 6), (0x6D504146, .satom false .cas true false 4 5 6)],
    (decodeWord x.1).toOption = some x.2 := by decide +kernel

/-- Ordering, Latches, Hinges, copies, streams and slots. -/
theorem test_decode_engines : ∀ x ∈ [(0x6EA00000, Instr.fence false 2 .rel), (0x6F700000, .fence false 5 .ar), (0xF0180000, .bar 3),
    (0x70980000, .barArrive false 3), (0xF1180000, .barWait 3), (0xF1800000, .gbar), (0x72001870, .ltinit false 6 7), (0x72401880, .ltarm false 6 8),
    (0x72891800, .ltarrive false 9 6), (0xF2C01890, .ltwait 6 9), (0x730A1890, .lttest false 10 6 9), (0x74000000, .hgarrive false 0),
    (0xF5100000, .hgwait 1), (0x76050600, .cpy false 20 6), (0x76154600, .cpyw false 21 6), (0x76258700, .cpyo false 22 7),
    (0x76354600, .cpyg false 21 6), (0x7600061D, .cpyLt false 6 7), (0x76414000, .cpyq false 5)],
    (decodeWord x.1).toOption = some x.2 := by decide +kernel

/-- Slots, the sequencer's start, launches, the Keyway and binning. -/
theorem test_decode_dispatch : ∀ x ∈ [(0x76514600, Instr.sdesc false 5 6), (0x76600500, .sgo false 5), (0x76700500, .sstop false 5),
    (0x7680C200, .mclaim false 3 2), (0x76900200, .mrel false 2), (0x76A00800, .mgo false 0 8), (0x76B14600, .mstat false 5 6),
    (0x76C10518, .dlaunch false 4 5 6), (0x76D0051C, .qnotify false 5 7), (0x7800C200, .kctx false 3 2), (0x78154600, .kpost false 21 6),
    (0x78100015, .kpostLt false 0 5), (0x78250600, .ksend false 20 6), (0x7820061D, .ksendLt false 6 7), (0x78310518, .kcancel false 4 5 6),
    (0x78410600, .kprobe false 4 6), (0x78554600, .kpull false 21 6), (0x7A0E3000, .binit false 7 6), (0x7A900010, .bcount false 8 0 1),
    (0x7B2EB000, .bpatch false 23 22), (0x7BB00000, .brel false 24)], (decodeWord x.1).toOption = some x.2 := by decide +kernel

/-- The sequencer stream (R57, R173 to R181). -/
theorem test_decode_sequencer : ∀ x ∈ [(0, Instr.mnop), (0x08000000, .mend), (0x1200FFFD, .mloop 2 0xFFFD), (0x62001000, .mqadd 2 4096),
    (0x69002400, .mset 1 9216), (0x18800000, .mharr 1), (0x20000000, .mhwait 0), (0x50000000, .mzero 0), (0x286A0020, .mldo 3 2 true 1),
    (0x31C30000, .mdeq 14 0 192 false), (0x3A080000, .mhad 1 1 0 false), (0x42884000, .mqnt 20 16 true false), (0x48024800, .mmla 0 1 9 0 0 false),
    (0x59000000, .msto 1 0 0 false 0 false)], (decodeSeq x.1).toOption = some x.2 := by decide +kernel

/-- Encodings that are no instruction, with their subcode (R55): reserved majors, unlisted functions, nonzero zero fields, and
the end of a run left out (R44). -/
theorem test_decode_refuses : ∀ x ∈ [(0x06000000, DecErr.illegal 1), (0x7C000000, .illegal 1), (0x7E000000, .illegal 1), (0x08740000, .illegal 2),
    (0xA3800000, .illegal 2), (0x00001000, .illegal 3), (0x04080008, .illegal 3),
    (0x00040000, .runEnd), (0x24000005, .runEnd)],
    (match decodeWord x.1 with | .error e => some e | .ok _ => none) = some x.2 := by decide +kernel

/-- Encoding gives the sample words back (R48, R57). -/
theorem test_encode : encodeWord (.div false 5 6 7) = some 0x08145187 ∧ encodeWord (.vext false 3 4 2) = some 0x4B601844 ∧
    encodeWord (.ksendLt false 6 7) = some 0x7820061D ∧ encodeWord (.mldo 3 2 true 1) = some 0x286A0020 ∧
    decodeTableWord 32 0x08145187 = some (.div false 5 6 7) := by decide +kernel

/-! ### A strand in hand

One strand of a crew on die 0, core 0, with 16 lanes, 128 vector registers, 64 KiB of scratchpad, its code at 0x100000 and a page that
maps every address of the first blocks to itself. -/

/-- The strand in hand. -/
def st : State := ((State.reset.placeWord 0).take 1).getD State.reset
/-- With scalar registers set. -/
def regs (l : List (SReg × Word)) (s : State) : State := l.foldl (fun s x => s.wrS x.1 x.2) s
/-- With the strand changed. -/
def foc (f : Strand → Strand) (s : State) : State := s.setFocus (f s.focus)
/-- With the crew changed. -/
def crw (f : Crew → Crew) (s : State) : State := s.setCrew (f s.crew)
/-- With MODE set. -/
def mode (m : BitVec 32) (s : State) : State := foc (fun f => { f with mode := m }) s
/-- With a vector register's lanes all set. -/
def vreg (r : VReg) (v : Nat → W32) (s : State) : State := s.putElems false r.toNat ((below 16).map (fun i => (i, (v i).toNat)))
/-- With die 0's cache holding a sector whole. -/
def owns (sec : Nat) (data : SectorData) (s : State) : State := s.modCache (.die 0) (fun c => c.setHold ⟨sec, 16, true, false, true, false, data⟩)
/-- The answer of a step or meaning is a next state with a property. -/
def after (o : Host.Outcome State Fault Refusal) (p : State → Bool) : Bool := match o with
  | .next t => p t
  | _ => false
/-- The next state of an answer, or the strand in hand where it is none. -/
def nextOf (o : Host.Outcome State Fault Refusal) : State := match o with
  | .next t => t
  | _ => st
/-- An access's elements pass their checks. -/
def passes (s : State) (k : Acc) (n : Nat) (xs : List (Nat × Nat)) : Bool :=
  let p := s.checkElems k n xs
  p.2.2.isNone && (p.1.dataBrk k p.2.1).isNone && p.2.1.all (fun e => !e.held)
/-- The strand parked for a reason. -/
def parkedFor (t : State) (w : Park) : Bool := t.focus.state == .parked && t.focus.park == some w
/-- The strand took a fault with a code, subcode and address. -/
def faulted (t : State) (code sub : Byte) (addr : Word) : Bool := t.focus.park == some .fault && match t.focus.faulted with
  | some (r, _) => r.code == code && r.sub == sub && r.addr == addr
  | none => false

theorem test_placed : st.focused = true ∧ st.focus.state = .issuing ∧ st.focus.pc = 0x100000 ∧ st.lanes = 16 ∧ st.focus.uid = 1 := by
  decide +kernel

/-! ### Steps of the scalar unit -/

/-- R69's table. -/
theorem test_division : wdiv 7 (-2) = -3 ∧ wrem 7 (-2) = 1 ∧ wdiv (-7) 2 = -3 ∧ wrem (-7) 2 = -1 ∧ wdiv 9 0 = -1 ∧ wrem 9 0 = 9 ∧
    wdiv 0x8000000000000000 (-1) = 0x8000000000000000 ∧ wrem 0x8000000000000000 (-1) = 0 := by decide +kernel
/-- R69's table, through the machine. -/
theorem test_bfx : after (exec (.bfx false 3 1 2) (regs [(1, 0xABCD00), (2, 0x208)] st)) (fun t => t.rdS 3 == 0xCD) ∧
    after (exec (.bfx false 3 1 2) (regs [(1, 0xF000000000000000), (2, 0x23C)] st)) (fun t => t.rdS 3 == 0xF) := by decide +kernel
/-- Four words make 0x0123456789ABCDEF (R71). -/
theorem test_lsi : after (exec (.lsi false 4 0x3CDEF) (regs [(4, 0x2468ACF135)] st)) (fun t => t.rdS 4 == 0x0123456789ABCDEF) := by
  decide +kernel
/-- A source that is the destination is read first (R58); s0 discards (R17). -/
theorem test_add_self : after (exec (.add false 1 1 1) (regs [(1, -1)] st)) (fun t => t.rdS 1 == -2 && t.focus.pc == 0x100004) ∧
    after (exec (.add false 0 1 1) (regs [(1, 5)] st)) (fun t => t.rdS 0 == 0) := by decide +kernel
theorem test_unsigned : after (exec (.mulhu false 3 1 2) (regs [(1, -1), (2, -1)] st)) (fun t => t.rdS 3 == -2) ∧
    after (exec (.mulh false 3 1 2) (regs [(1, -1), (2, -1)] st)) (fun t => t.rdS 3 == 0) ∧
    after (exec (.sltu false 3 1 2) (regs [(1, 1), (2, -1)] st)) (fun t => t.rdS 3 == 1) ∧
    after (exec (.slt false 3 1 2) (regs [(1, 1), (2, -1)] st)) (fun t => t.rdS 3 == 0) := by decide +kernel
theorem test_shift_amounts : after (exec (.shl false 3 1 2) (regs [(1, 1), (2, 65)] st)) (fun t => t.rdS 3 == 2) ∧
    after (exec (.sra false 3 1 2) (regs [(1, 0x8000000000000000), (2, 63)] st)) (fun t => t.rdS 3 == -1) ∧
    after (exec (.srai false 3 1 63) (regs [(1, 0x8000000000000000)] st)) (fun t => t.rdS 3 == -1) ∧
    after (exec (.shri false 3 1 64) st) (fun t => faulted t 1 4 0) := by decide +kernel
/-- The loop's branch of R72's sample goes back eleven words. -/
theorem test_bnz : after (exec (.bnz 8 0xFFF5) (regs [(8, 1)] st)) (fun t => t.focus.pc == 0xFFFD4 && t.focus.state == .ready) ∧
    after (exec (.bnz 8 0xFFF5) st) (fun t => t.focus.pc == 0x100004) := by decide +kernel
/-- `calli s62` reads its target before it links (R74). -/
theorem test_calli : after (exec (.calli 62) (regs [(62, 0x2000)] st)) (fun t => t.focus.pc == 0x2000 && t.rdS 62 == 0x100004) ∧
    after (exec (.jr 5) (regs [(5, 0x2002)] st)) (fun t => faulted t 3 2 0x2002) := by decide +kernel
theorem test_setm : after (exec (.setm false 0x108) st) (fun t => t.focus.ty == .f32 && t.focus.guardP == 1) ∧
    after (exec (.setmr false 2) (regs [(2, 0x2000)] st)) (fun t => faulted t 1 4 0) := by decide +kernel
theorem test_getsr : after (exec (.getsr false 9 8) st) (fun t => t.rdS 9 == 16) ∧ after (exec (.getsr false 9 22) st) (fun t => faulted t 1 4 0) ∧
    after (exec (.setsr false 3 15) (regs [(3, 0xFF)] st)) (fun t => t.focus.fflags == 0x1F) := by decide +kernel

/-- The scalar statements can be met: registers free, s0 as destination, shift amounts 63 and 64, aligned and misaligned targets. -/
theorem witness_Scalar : st.waits [1, 2] [3] [] = none ∧ st.waits [1, 2] [0] [] = none ∧ st.waits [63, 62] [62] [] = none ∧
    (63 : BitVec 13).toNat < 64 ∧ 64 ≤ (64 : BitVec 13).toNat ∧ st.watchedSteps = false ∧ st.waits [5] [62] [] = none ∧
    st.waits [62] [] [] = none ∧ ((regs [(5, 0x2000)] st).rdS 5).toNat % 4 = 0 ∧ ((regs [(5, 0x2003)] st).rdS 5).toNat % 4 ≠ 0 ∧
    ((regs [(62, 0x2001)] st).rdS 62).toNat % 4 ≠ 0 := by decide +kernel
theorem witness_BusyRegisterParks : ((3 : SReg).toNat, 7) ∈ (foc (fun f => { f with busy := [(3, 7)] }) st).focus.busy ∧
    after (exec (.add false 3 1 2) (foc (fun f => { f with busy := [(3, 7)] }) st)) (fun t => parkedFor t (.wait (.token 3))) := by
  decide +kernel
theorem witness_BitCounts : (1 : Word) ≠ 0 ∧ 63 - leadZeros 64 (1 : Word).toNat < 1 ∧ 0 < trailZeros 64 0 (2 : Word).toNat := by decide +kernel
theorem witness_ControlResults : bit st.crew.debug 0 = false ∧ st.waits [3] [] [] = none ∧ st.rdS 3 = 0 ∧ (regs [(3, 1900)] st).rdS 3 ≠ 0 ∧
    (let s := (foc (fun f => { f with state := .parked, park := some (.wait (.pause 10)) }) st).putBack
     let p := fun (n : Nat) => s.modDie 0 (fun d => { d with clock := n })
     s.focused = false ∧ (s.strandOf 1).isSome ∧ ((s.strandOf 1).bind (fun x => s.crewOf x.crew)).isSome ∧
     after (exec (.pauseExpiry 1) (p 10)) (fun t => t.strands.any (fun x => x.uid == 1 && x.state == .ready && x.pc == 0x100004)) ∧
     after (exec (.pauseExpiry 1) (p 9)) (fun t => t == p 9)) := by decide +kernel
theorem witness_SpecialRegisters : st.waits [] [9] [] = none ∧ 21 < (22 : BitVec 6).toNat ∧ 2 ^ 13 ≤ ((regs [(2, 0x2000)] st).rdS 2).toNat ∧
    ((regs [(2, 0x1FFF)] st).rdS 2).toNat < 2 ^ 13 ∧ st.waits [2] [] [] = none ∧
    (∀ n ∈ ([0, 13, 18, 21] : List (BitVec 6)), n ≠ 14 ∧ n ≠ 15 ∧ n ≠ 16 ∧ n ≠ 17) := by decide +kernel
/-- A prologue strand on a quarter with room, on one without, and a remnant. -/
theorem witness_AcquireResults : let s := crw (fun c => { c with hdr := { c.hdr with vprologue := 16 } }) (foc (fun f => { f with full := false }) st)
    let x : Strand := { s.focus with uid := 9, root := 9, full := true, crew := 2 }
    let y : State := { s with strands := (below 32).map (fun n => { x with uid := 10 + n, root := 10 + n }) }
    s.focus.isRemnant = false ∧ s.canGrant = true ∧ s.focused = true ∧ s.focus.full = false ∧
    (s.crew.hdr.vprologue + 7) / 8 ≠ (s.crew.hdr.vregs + 7) / 8 ∧ (121 + 7) / 8 = (s.crew.hdr.vregs + 7) / 8 ∧
    after (exec .acquire (crw (fun c => { c with hdr := { c.hdr with vprologue := 121 } }) y)) (fun t => t.focus.full && t.focus.state == .ready) ∧
    y.focus.isRemnant = false ∧ y.focus.full = false ∧ y.canGrant = false ∧ after (exec .acquire y) (fun t => parkedFor t .acquire) ∧ (foc (fun f => { f with parent := some 3 }) st).focus.isRemnant = true := by decide +kernel
theorem witness_TrapResults : let s := regs [(1, 0x5000)] st
    s.waits [1, 2, 3, 4, 5, 6] [1, 2, 3, 4] [] = none ∧ (s.die 0).ctl.trap.full = false ∧ (s.die 0).ctl.trapWait = [] ∧
    after (exec (.trap 1) s) (fun t => parkedFor t (.trap (some 0)) &&
      let u := t.putBack
      (u.die 0).ctl.trapOut == [(0, 1)] && (u.strandOf 1).isSome && !((u.strandOf 1).any u.away) &&
        after (exec (.trapresp 0 0 0 ⟨11, 12, 13, 14⟩) u) (fun v => v.strands.any (fun x => x.rdS 4 == 14 && x.pc == 0x100004 && x.state == .ready))) ∧
    (st.die 0).ctl.trapOut.find? (fun y => y.1 == 3) = none ∧
    (let w := s.modCtl 0 (fun c => { c with trap := { c.trap with tail := 16 } })
     (w.die 0).ctl.trap.full = true ∧ after (exec (.trap 1) w) (fun t => parkedFor t (.trap none) && (t.die 0).ctl.trapWait == [1])) := by decide +kernel
/-- A call that waits for its response, which comes with status 0 or with another. -/
theorem witness_TrapResponses : let v := (nextOf (exec (.trap 1) (regs [(1, 0x5000)] st))).putBack
    v.focused = false ∧ (v.die 0).ctl.trapOut.find? (fun y => y.1 == 0) = some (0, 1) ∧ (v.strandOf 1).any (fun x => x.state == .parked &&
      x.park == some (.trap (some 0)) && !v.away x && (v.crewOf x.crew).any (fun k => !k.preempted && k.die == 0 && k.ended == none)) ∧
    (7 : BitVec 32) ≠ 0 ∧ (v.die 0).ctl.flt.full = false ∧ (v.die 0).ctl.fltWait = [] ∧
    (v.die 0).ctl.trapOut.find? (fun y => y.1 == 9) = none ∧ after (exec (.trapresp 0 9 0 ⟨1, 2, 3, 4⟩) v) (fun t => (t.die 0).ctl.ignored == 1) ∧
    after (exec (.trapresp 0 0 7 ⟨1, 2, 3, 4⟩) v) (fun t => t.crews.any (fun y => y.ended.any (fun r => r.code == 0x11 && r.sub == 7)) &&
      (t.die 0).ctl.flt.tail == 1 && t.strands.all (fun z => z.state == .done)) := by decide +kernel

/-! ### The vector unit -/

/-- Nothing keeps a vector unit back (the predicate `State.VecReady`, evaluated). -/
def vready (s : State) (vs : List (Nat × Bool)) (rs ws : List SReg) : Bool :=
  vs.all (fun v => !v.2 || v.1 % 2 == 0) &&
    (vs ++ s.routeRegs).all (fun v => v.1 + (if v.2 then 1 else 0) < s.crew.hdr.vregs &&
      (s.holdsFull || v.1 + (if v.2 then 1 else 0) < s.crew.hdr.vprologue)) &&
    (s.waits rs ws (vs ++ s.routeRegs)).isNone && s.routeBad.isNone

theorem vready_spec {s : State} {vs : List (Nat × Bool)} {rs ws : List SReg} (h : vready s vs rs ws = true) : s.VecReady vs rs ws := by
  simp only [vready, Bool.and_eq_true, List.all_eq_true, Option.isNone_iff_eq_none] at h
  obtain ⟨⟨⟨h1, h2⟩, h3⟩, h4⟩ := h
  refine ⟨fun v hv hp => ?_, fun v hv => ?_, h3, h4⟩
  · have := h1 v hv; simp_all
  · have := h2 v hv; simpa using this

/-- A lane whose sum wraps, and the same sum under SAT (R95). -/
theorem test_vadd : after (exec (.vadd false 3 1 2) (vreg 1 (fun _ => 0x7FFFFFFF) (vreg 2 (fun _ => 1) st))) (fun t => t.rdV 3 15 == 0x80000000 && t.rdV 3 16 == 0) ∧
    after (exec (.vadd false 3 1 2) (mode 0x40 (vreg 1 (fun _ => 0x7FFFFFFF) (vreg 2 (fun _ => 1) st)))) (fun t => t.rdV 3 0 == 0x7FFFFFFF) := by
  decide +kernel
/-- Only the guard's lanes are written (R16). -/
theorem test_guard : after (exec (.vaddi false 3 1 0x7FD) (mode 0x100 (foc (fun f => { f with p := f.p.set 1 0x5 }) (vreg 3 (fun _ => 9) st))))
    (fun t => t.rdV 3 0 == 0xFFFFFFFD && t.rdV 3 1 == 9 && t.rdV 3 2 == 0xFFFFFFFD) := by decide +kernel
/-- 1.5 + 2.25 = 3.75, and 1 / 0 raises divide-by-zero (R99, R92). -/
theorem test_vfadd : after (exec (.vfadd false 3 1 2) (mode 8 (vreg 1 (fun _ => 0x3FC00000) (vreg 2 (fun _ => 0x40100000) st)))) (fun t => t.rdV 3 0 == 0x40700000 && t.focus.fflags == 0) ∧
    after (exec (.vfdiv false 3 1 2) (mode 8 (vreg 1 (fun _ => 0x3F800000) st))) (fun t => t.rdV 3 0 == 0x7F800000 && t.focus.fflags != 0) := by
  decide +kernel
/-- The samples of R103 and R104: `vtolog` of 8.0, `vlmul` of 8.0 and 0.25, `vlsqrt` of 0.25. -/
theorem test_log : (vToLog false 0x41000000).1 = 0x00C00000 ∧ (vToLog false 0xC1000000).1 = 0x80C00000 ∧
    (vlMulDiv false 0x00C00000 0x7F800000).1 = 0x00400000 ∧ (vlSqrt 0x7F800000).1 = 0x7FC00000 ∧
    (vlMulDiv true 0x80C00000 0x00C00000).1 = 0x80000000 ∧ (vlPow 0x00C00000 0x0180).1 = 0x01200000 := by decide +kernel
/-- An integer compare sets the guard's bits alone, and votes count live bits (R105, R122). -/
theorem test_vcmp : after (exec (.vcmp false .lt 1 4 5) (vreg 4 (fun i => BitVec.ofNat 32 i) (vreg 5 (fun _ => 3) st))) (fun t => t.focus.rdP 1 == 7) ∧
    after (exec (.vpcnt false 21 1) (foc (fun f => { f with p := f.p.set 1 0xF0, live := 0x3F }) st)) (fun t => t.rdS 21 == 2) ∧
    after (exec (.vcmp false .lt 0 4 5) st) (fun t => faulted t 1 4 0) := by decide +kernel
/-- Packing, spreading, reduction and scan over lanes 0 to 15 (R120, R121, R123). -/
theorem test_lanes : after (exec (.vcompress false 3 4 1) (foc (fun f => { f with p := f.p.set 1 0xA }) (vreg 4 (fun i => BitVec.ofNat 32 (i + 5)) st)))
      (fun t => t.rdV 3 0 == 6 && t.rdV 3 1 == 8 && t.rdV 3 2 == 0) ∧
    after (exec (.vred false .add 6 4) (vreg 4 (fun i => BitVec.ofNat 32 i) st)) (fun t => t.rdS 6 == 120) ∧
    after (exec (.vscan false .add 3 4) (vreg 4 (fun _ => 2) st)) (fun t => t.rdV 3 15 == 32) := by decide +kernel
/-- A rotated source, as the worked unit of R52 has it (R115). -/
theorem test_route : after (exec (.route 1 0 0 false) st) (fun s => after (exec (.vmov false 3 4) (vreg 4 (fun i => BitVec.ofNat 32 (i + 100)) s))
    (fun t => t.rdV 3 0 == 101 && t.rdV 3 14 == 115)) := by decide +kernel
theorem test_relative : after (exec (.vrdx false 3 5 8) (regs [(5, 120)] st)) (fun t => faulted t 2 0 128) ∧
    after (exec (.vwrx false 1 5 8) (regs [(5, 119)] (vreg 1 (fun _ => 7) st))) (fun t => t.rdV 127 3 == 7) := by decide +kernel

/-- Nothing keeps a unit back that reads or writes memory (`State.MemOpen`, `State.WriteOpen` of the state itself). -/
def openFor (s : State) : Bool :=
  !s.acqOutstanding && s.focus.heldSt.isEmpty && (s.heldOn s.crew.die s.crew.core).isEmpty && !s.readOwed && !s.order.hasRel && !s.focus.remotes.any (fun m => m.reads)

theorem openFor_spec {s : State} (h : openFor s = true) : s.WriteOpen s ∧ s.MemOpen s := by
  simp only [openFor, Bool.and_eq_true, Bool.not_eq_true', List.isEmpty_iff] at h
  obtain ⟨⟨⟨⟨⟨h1, h2⟩, h3⟩, h4⟩, h5⟩, h6⟩ := h
  exact ⟨⟨h6, h1, h2, h3, h4, .inl ⟨h5, rfl⟩⟩, h1, h2, h3, h4, .inl ⟨h5, rfl⟩⟩

/-- Rounding: numbers that are not 0, of each kind that the statements name (R142, R144). -/
theorem witness_Rounding : fmtF4 ∈ allFormats ∧ (0 : Nat) < 4 ∧ (5 : Nat) ≠ 0 ∧ (FVal.num false 3 0).rat = some 3 ∧ (FVal.num true 1 0).rat = some (-1) ∧
    (3 : ℚ) + (-1) ≠ 0 ∧ (3 : ℚ) * (-1) ≠ 0 ∧ (3 : ℚ) * (-1) + 2 ≠ 0 := by
  refine ⟨by simp [allFormats], by norm_num, by norm_num, ?_, ?_, ?_, ?_, ?_⟩ <;> norm_num [FVal.rat]
/-- Quotients, roots and integral values that are exact or not, zeros, infinities and NaNs of each kind; minima and maxima; classes. -/
theorem witness_FloatCases : let c : Rnd := ⟨0, false⟩
    let one : FVal := .num false 1 0
    let zero (n : Bool) : FVal := .num n 0 0
    c.rnd < 4 ∧ fmtF32.divV c one (.num true 3 0) = (0xBEAAAAAB, { Flags.none with nx := true }) ∧ fmtF32.divV c one (zero true) = (0xFF800000, { Flags.none with dz := true }) ∧
    fmtF32.divV c (zero true) one = (0x80000000, Flags.none) ∧ fmtF32.divV c (zero true) (zero false) = (0x7FC00000, Flags.invalid) ∧
    fmtF32.addV c one (.num true 1 0) = (0, Flags.none) ∧ fmtF32.addV ⟨2, false⟩ one (.num true 1 0) = (0x80000000, Flags.none) ∧ fmtF32.mulV c (zero true) one = (0x80000000, Flags.none) ∧
    fmtF32.fmaV c one (.num true 1 0) one = (0, Flags.none) ∧ fmtF32.fmaV c (.inf true) (zero false) (.nan false) = (0x7FC00000, Flags.invalid) ∧
    fmtF32.addV c (.nan true) one = (0x7FC00000, Flags.invalid) ∧ fmtF32.divV c one (.nan false) = (0x7FC00000, Flags.none) ∧ fmtF32.divV c (.inf true) (.inf true) = (0x7FC00000, Flags.invalid) ∧
    fmtF32.divV c (.inf true) (zero false) = (0xFF800000, Flags.none) ∧ fmtF32.addV c (.inf true) (.inf false) = (0x7FC00000, Flags.invalid) ∧
    fmtF32.sqrtV c (.num false 2 0) = (0x3FB504F3, { Flags.none with nx := true }) ∧ fmtF32.sqrtV c (.num false 1 2) = (0x40000000, Flags.none) ∧ fmtF32.sqrtV c (zero true) = (0x80000000, Flags.none) ∧
    fmtF32.sqrtV c (.num true 1 0) = (0x7FC00000, Flags.invalid) ∧ fmtF32.rintV c (.num false 5 (-1)) = (0x40000000, Flags.none) ∧ fmtF32.rintV c (.num true 3 (-3)) = (0x80000000, Flags.none) ∧
    fmtF32.minmax false false 0x80000000 0 = (0x80000000, Flags.none) ∧ fmtF32.minmax false true 0x80000000 0 = (0, Flags.none) ∧ fmtF32.minmax false false 0x7F800001 5 = (5, Flags.invalid) ∧
    fmtF32.minmax true false 5 0x3F800000 = (0, Flags.none) ∧ fmtF32.minmax false true 0x7FC00000 0xFFC00001 = (0x7FC00000, Flags.none) ∧
    (∀ x ∈ [(0x7F800001, 256), (0x7FC00000, 512), (0xFF800000, 1), (0x7F800000, 128), (0x80000000, 8), (0, 16), (0x80000001, 4), (1, 32), (0xBF800000, 2), (0x00800000, 64)], fmtF32.classOf x.1 = x.2) := by
  decide +kernel
/-- What conditions say of numbers of either sign, equal ones, infinities and NaNs (R105, R106). -/
theorem witness_Conditions : (0 : Nat) < 8 ∧ (0xFF : Nat) < 2 ^ 8 ∧ cmpHolds .lt 8 0xFF 1 = true ∧ cmpHolds .ltu 8 0xFF 1 = false ∧ cmpHolds .geu 8 1 1 = true ∧
    (fcompare .eq (.num true 0 0) (.num false 0 3)) = (true, Flags.none) ∧ fcompare .lt (.inf true) (.num true 1 100) = (true, Flags.none) ∧ fcompare .ge (.inf false) (.inf false) = (true, Flags.none) ∧
    fcompare .le (.nan false) (.num false 1 0) = (false, Flags.invalid) ∧ fcompare .ne (.nan false) (.nan false) = (true, Flags.none) ∧ fcompare .ord (.nan true) (.inf true) = (false, Flags.invalid) := by
  decide +kernel
/-- Conversions of each kind: from an integer, a NaN, an infinity, a number in range and out of it. -/
theorem witness_Conversions : Ty.i8.isInt = true ∧ Ty.i8.fmt = none ∧ Ty.f32.fmt = some fmtF32 ∧ Ty.f16.fmt = some fmtF16 ∧ fmtF16.ieee = true ∧
    (match fmtF32.read false 0x7FC00000 with | .nan _ => true | _ => false) = true ∧ fmtF32.read false 0xFF800000 = .inf true ∧
    convert .f32 .i8 0 false false 0x43960000 = (127, Flags.invalid) ∧ convert .f32 .i8 0 false false 0x40200000 = (2, { Flags.none with nx := true }) ∧
    convert .i8 .f32 0 false false 0xFE = (0xC0000000, Flags.none) ∧ convert .f32 .f16 0 false false 0xFF800000 = (0xFC00, Flags.none) ∧
    convert .i16 .i8 0 true false 300 = (127, Flags.none) ∧ convert .i16 .i8 0 false false 300 = (44, Flags.none) := by decide +kernel

/-- Every vector statement can be met: 32-bit and 64-bit types, the highest registers, an odd pair, a type not accepted, a register
out of bounds. -/
theorem witness_Vector : st.focus.ty.isInt = true ∧ vready st [(127, false), (1, false), (2, false)] [] [] ∧
    (mode 2 st).focus.ty.pair = true ∧ vready (mode 2 st) [(126, true), (2, true), (4, true)] [] [] ∧ vready st [(3, false), (1, false)] [6] [] ∧
    (mode 8 st).focus.ty.isFp = true ∧ vready (mode 8 st) [(3, false), (1, false), (2, false)] [] [] ∧ (mode 9 st).focus.ty.isFp = true ∧
    vready (mode 9 st) [(4, true), (2, true)] [6] [] ∧ (mode 15 st).focus.ty = .l32 ∧ vready (mode 15 st) [(3, false), (1, false), (2, false)] [] [] ∧
    (mode 8 st).focus.ty ≠ .l32 ∧ vready (mode 8 st) [(3, false), (2, true)] [] [] := by decide +kernel
theorem witness_Lanes : st.focus.ty.isInt = true ∧ (mode 8 st).focus.ty.isFp = true ∧ (redTable st.focus).map (fun o => (o.1, o.2.1)) =
      [(.add, 0), (.min, 0x7FFFFFFF), (.max, 0x80000000), (.and, 0xFFFFFFFF), (.or, 0), (.xor, 0)] ∧
    (redTable (mode 8 st).focus).map (fun o => (o.1, o.2.1)) = [(.add, 0), (.min, 0x7F800000), (.max, 0xFF800000)] ∧
    after (exec (.vred false .max 6 4) (foc (fun f => { f with live := 0 }) st)) (fun t => t.rdS 6 == 0xFFFFFFFF80000000) ∧
    vready st [(4, false)] [] [6] ∧ st.waits [] [20] [] = none ∧
    st.waits [9] [] [] = none ∧ st.waits [] [] [] = none ∧ (1 : PReg) ≠ 0 := by decide +kernel
/-- The log domain: finite words of either sign, a NaN, an infinity, a zero; a power of two; under another TYPE a trap. -/
theorem witness_LogDomain : (∀ x ∈ [0x00C00000, 0x80C00000, 0, 0x3FFFFFFE], x % 2 ^ 31 ≠ 0x40000000 ∧ x % 2 ^ 31 ≠ 0x3FFFFFFF ∧ x % 2 ^ 31 ≠ 0x40000001) ∧
    (0x80C00000 : Nat).testBit 31 = true ∧ lNum 0x00C00000 = 3 * 2 ^ 22 ∧ lNum 0 = 0 ∧ (0xC0000000 : Nat) % 2 ^ 31 = 0x40000000 ∧ sInt 16 0x80 % 256 ≠ 0 ∧ sInt 16 0x300 / 256 % 2 = 1 ∧
    fmtF32.read false 0x41000000 = .num false 0x800000 (-20) ∧ fmtF32.read false 0xC1000000 = .num true 0x800000 (-20) ∧
    vlMulDiv false 0x00C00000 0x80C00000 = (0x81800000, Flags.none) ∧ vlMulDiv true 0x00C00000 0x40000000 = (0x3FFFFFFF, { Flags.none with dz := true }) ∧
    vlMulDiv false 0x40000000 0x3FFFFFFF = (0x40000001, Flags.invalid) ∧ vlMulDiv true 0x40000001 0 = (0x40000001, Flags.none) ∧
    vlSqrt 0x00C00000 = (0x00600000, Flags.none) ∧ (vlSqrt 0x80C00000).2 = Flags.invalid ∧ vlPow 0x80C00000 0x300 = (0x82400000, Flags.none) ∧ (vlPow 0x80C00000 0x80).2 = Flags.invalid ∧
    (vLog2 0).1 = 0 ∧ (vLog2 0x80C00000).2 = Flags.invalid ∧ (vFromLog false 0x80C00000).1 = 0xC1000000 ∧ vExp2 false 0x40400000 = (0x00C00000, Flags.none) ∧
    (∀ i ∈ [Instr.vlmul false 3 1 2, .vexp2 false 3 1], after (exec i st) (fun t => faulted t 1 5 0)) := by decide +kernel
theorem witness_RelativeMoves : st.crew.hdr.vregs ≤ 128 ∧ vready st [(3, false)] [5] [] ∧
    (let x := (regs [(5, 119)] st).rdS 5 + (8 : BitVec 11).signExtend 64
     x.toNat < st.crew.hdr.vregs ∧ st.focus.full = true ∧ st.waits [] [] [(x.toNat, false)] = none) ∧
    st.crew.hdr.vregs ≤ ((regs [(5, 120)] st).rdS 5 + (8 : BitVec 11).signExtend 64).toNat ∧
    (let s := mode 2 (regs [(5, 3)] st)
     vready s [(4, true)] [5] [] ∧ s.focus.ty.pair = true ∧ (s.rdS 5 + (0 : BitVec 11).signExtend 64).toNat % 2 = 1) ∧
    (let h := crw (fun c => { c with hdr := { c.hdr with vregs := 127 } }) (mode 2 (regs [(5, 126)] st))
     vready h [(4, true)] [5] [] ∧ 126 < h.crew.hdr.vregs ∧ h.crew.hdr.vregs ≤ 126 + 1 ∧ h.focus.isRemnant = false ∧
     after (exec (.vrdx false 4 5 0) h) (fun t => faulted t 1 4 0)) ∧
    (let h := crw (fun c => { c with hdr := { c.hdr with vprologue := 16 } }) (foc (fun f => { f with full := false }) (regs [(5, 16)] st))
     let r := foc (fun f => { f with parent := some 3 }) h
     let n := { h with strands := (below 32).map (fun n => { h.focus with uid := 10 + n, root := 10 + n, full := true, crew := 2 }) }
     vready h [(3, false)] [5] [] ∧ h.holdsFull = false ∧ h.focused = true ∧ h.canGrant = true ∧ h.waits [] [] [(16, false)] = none ∧
     after (exec (.vrdx false 3 5 0) h) (fun t => t.focus.full && t.focus.pc == 0x100004) ∧
     vready r [(3, false)] [5] [] ∧ r.focus.isRemnant = true ∧ after (exec (.vwrx false 3 5 0) r) (fun t => faulted t 0x0B 2 0) ∧
     vready n [(3, false)] [5] [] ∧ n.canGrant = false ∧ n.focus.isRemnant = false ∧ after (exec (.vwrx false 3 5 0) n) (fun t => parkedFor t .acquire)) := by
  decide +kernel
theorem witness_VectorTraps : (mode 2 st).focus.ty.pair = true ∧ ((3 : VReg).toNat % 2 = 1) ∧ (mode 8 st).focus.ty.isInt = false ∧
    (mode 8 st).focus.ty.pair = false ∧ (let s := crw (fun c => { c with hdr := { c.hdr with vregs := 64 } }) st
     s.focus.ty.isInt = true ∧ s.crew.hdr.vregs ≤ (64 : VReg).toNat ∧
     s.qualOk .load = true ∧ s.qualOk .store = true ∧ (mode 14 s).focus.ty = .f4 ∧
     after (exec (.vadd false 64 1 2) s) (fun t => faulted t 2 1 64) ∧ after (exec (.vadd false 3 65 64) s) (fun t => faulted t 2 1 65) ∧
     after (exec (.vli false 62 0) (mode 2 (crw (fun c => { c with hdr := { c.hdr with vregs := 63 } }) s))) (fun t => faulted t 2 1 62) ∧
     after (exec (.vst false 64 0 0) s) (fun t => faulted t 2 1 64) ∧ after (exec (.vldx false 3 0 64 0) s) (fun t => faulted t 2 1 64) ∧
     after (exec (.vld false 3 0 0) (mode 14 s)) (fun t => faulted t 1 5 0) ∧ after (exec (.vfadd false 64 1 2) s) (fun t => faulted t 1 5 0)) ∧
    after (exec (.vadd false 3 2 4) (mode 2 st)) (fun t => faulted t 1 4 0) ∧
    (let g := st
     Ty.f64 ≠ .l32 ∧ Ty.f64.pair = true ∧ after (exec (.vcvt false .f64 3 1) g) (fun t => faulted t 1 4 0) ∧ after (exec (.vcvt false .l32 3 1) g) (fun t => faulted t 1 4 0) ∧
     after (exec (.vcvt false .f64 3 2) (mode 15 g)) (fun t => faulted t 1 5 0) ∧ (1 : PReg) ≠ 0 ∧ after (exec (.vfcmp false .un 1 4 5) g) (fun t => faulted t 1 5 0) ∧
     (∀ i ∈ predWriters false .lt .un 0 1 2 4 5 6, after (exec i g) (fun t => faulted t 1 4 0)) ∧
     after (exec (.vcmp false .lt 1 4 127) (crw (fun c => { c with hdr := { c.hdr with vregs := 127 } }) g)) (fun t => faulted t 2 1 127) ∧
     after (exec (.vrdx false 3 5 0) (mode 2 g)) (fun t => faulted t 1 4 0)) := by decide +kernel
theorem witness_PrefixResults : (5 : BitVec 3).toNat ≤ 5 ∧ 6 ≤ (6 : BitVec 3).toNat ∧
    after (exec (.qual 6 .rlx 0) st) (fun t => faulted t 1 4 0) := by decide +kernel

/-! ### Ejection, faults, memory -/

/-- Half the lanes leave as a remnant that copies the registers and takes the lower half of the stack (R21, R22). -/
theorem test_eject : after (exec (.eject 4 1 6) (regs [(63, 0x600100), (7, 42)] (foc (fun f => { f with p := f.p.set 1 0xF, stklo := 0x600000 }) st)))
    (fun t => t.rdS 4 == 1 && t.focus.live == 0xFFF0 && t.focus.joins == 1 && t.strands.any (fun x => x.live == 0xF && x.pc == 0x100018 && x.rdS 7 == 42 &&
      x.rdS 63 == 0x600080 && x.parent == some 1)) := by decide +kernel
/-- A strand with nothing outstanding retires (R25). -/
theorem test_exit : after (exec .exit st) (fun t => t.focus.state == .done) := by decide +kernel

theorem witness_EjectResults : st.waits [] [4] [] = none ∧ (let m := st.focus.rdP 1 &&& st.focus.live; m = 0) ∧
    (let s := foc (fun f => { f with p := f.p.set 1 0xFFFF }) st
     let m := s.focus.rdP 1 &&& s.focus.live
     m ≠ 0 ∧ m = s.focus.live) ∧
    (let s := foc (fun f => { f with p := f.p.set 1 0xF }) st
     let m := s.focus.rdP 1 &&& s.focus.live
     m ≠ 0 ∧ m ≠ s.focus.live ∧ s.focus.joins ≠ 4 ∧ s.remnantCtx = some .reserved ∧ s.waits [63] [4] [] = none ∧ s.completeTo 1 = true ∧ s.heldOn 0 0 = []) ∧
    (foc (fun f => { f with joins := 4 }) st).focus.joins = 4 := by decide +kernel
/-- A remnant joins a parent that waits: the parent's FFLAGS, LFAULT and lanes. -/
theorem witness_JoinAndExit : (foc (fun f => { f with joins := 1 }) st).focus.joins ≠ 0 ∧ st.focus.isRemnant = false ∧ st.focus.joins = 0 ∧
    (let s : State := { (foc (fun f => { f with parent := some 9, fflags := 3, live := 0xF0 }) st) with
       strands := [{ st.focus with uid := 9, joins := 1, state := .parked, park := some .join, fflags := 4, live := 0xF }] }
     s.focused = true ∧ s.focus.uid ≠ 0 ∧ s.focus.parent = some 9 ∧ (9 ≠ s.focus.uid) ∧ (s.strandOf 9).any (fun y => y.state != .ejectWait) = true ∧
     s.focus.mcast = none ∧ s.completeTo 1 = true ∧ after (exec .join s) (fun t => t.focus.state == .done &&
       t.strands.any (fun z => z.uid == 9 && z.fflags == 7 && z.returned == 0xF0 && z.joins == 0))) ∧
    (let r := foc (fun f => { f with remotes := [⟨true, false, true, false, 0, .none, 0, []⟩] }) st
     r.focus.remotes.any (fun m => m.load) = true ∧ r.focus.joins = 0 ∧ after (exec .exit r) (fun t => t.focus.state != .done && t.focus.remotes == r.focus.remotes) ∧
     after (exec .exit (foc (fun f => { f with joins := 1 }) r)) (fun t => t.focus.state == .ejectWait && t.focus.joins == 1)) ∧
    st.focus.remotes.any (fun m => m.load) = false ∧ st.focused = true ∧ st.focus.uid ≠ 0 ∧ after (exec .exit st) (fun t => t.focus.state == .done) := by decide +kernel
/-- A fault while the ring has room, and while it is full. -/
theorem witness_TakingAFault : (st.die 0).ctl.flt.full = false ∧ (st.die 0).ctl.fltWait = [] ∧
    ((st.modCtl 0 (fun c => { c with flt := { c.flt with tail := 16 } })).die 0).ctl.flt.full = true := by decide +kernel
theorem test_fault_record : (st.takeFault (st.recordOf 0x03 2 0x2002)).memByte 0 = 3 ∧ (st.takeFault (st.recordOf 0x03 2 0x2002)).memByte 16 = 2 ∧
    (st.takeFault (st.recordOf 0x03 2 0x2002)).memByte 17 = 0x20 ∧ (st.takeFault (st.recordOf 0x03 2 0x2002)).memByte 10 = 0x10 := by decide +kernel
/-- A strand parked with a page fault may resume, one with an illegal instruction not. -/
theorem witness_ResumeResults : let p := fun (code : Byte) => (st.takeFault (st.recordOf code.toNat 0 0x7000)).putBack
    (p 5).focused = false ∧ ((p 5).strandOf 1).any (fun x => x.state == .parked && x.park == some .fault && x.faulted.isSome) = true ∧
    ((p 5).crewOf 2).any (fun k => !k.preempted) = true ∧ ((p 5).die 0).ctl.fltWait.contains (st.recordOf 5 0 0x7000) = false ∧
    after (exec (.strandResume 1) (p 5)) (fun t => t.strands.any (fun x => x.state == .ready && x.faulted.isNone && !x.skipBrk)) ∧
    after (exec (.strandResume 1) (p 0x0D)) (fun t => t.strands.any (fun x => x.state == .ready)) ∧
    after (exec (.strandResume 1) (p 1)) (fun t => t == p 1) := by decide +kernel
theorem witness_DebugEvents : let s := crw (fun c => { c with debug := 1, hdr := { c.hdr with step := true } }) st
    bit s.crew.debug 0 = true ∧ s.watchedSteps = true ∧ s.waits [1, 2] [3] [] = none ∧
    after (exec (.nop false) s) (fun t => faulted t 0x0D 2 s.focus.unitPc && t.focus.pc == 0x100004) ∧
    after (exec (.ebreak false) s) (fun t => faulted t 0x0D 1 0 && t.focus.pc == 0x100004) := by decide +kernel
/-- Each scope and order of a fence, a release with and without something outstanding. -/
theorem witness_FenceResults : st.heldOn 0 0 = [] ∧ st.startRelease.completeTo 5 = true ∧ st.deferredStore = none ∧ st.focus.mcast = none ∧
    st.focus.remotes.any (fun m => m.load) = false ∧ (Order.ar).hasRel = true ∧ (Order.acq).hasRel = false ∧
    (foc (fun f => { f with hstOut := [(1, 2)] }) st).startRelease.completeTo 1 = false ∧ 5 < (6 : BitVec 3).toNat ∧
    after (exec (.fence false 6 .ar) st) (fun t => faulted t 1 4 0) ∧
    after (exec (.fence false 2 .rel) (foc (fun f => { f with hstOut := [(1, 2)] }) st)) (fun t => parkedFor t (.wait .fence)) := by decide +kernel

/-- Sign extension, and a little-endian value from the die cache (R4, R86). -/
theorem test_sld : let s := regs [(9, 0x100010)] (owns 0x10001 0x8877665544332211FFEEDDCCBBAA9988 st)
    after (exec (.sld false 3 false false 10 9 0) s) (fun t => t.rdS 10 == 0xFFEEDDCCBBAA9988) ∧
    after (exec (.sld false 1 true false 10 9 3) s) (fun t => t.rdS 10 == 0xFFFFFFFFFFFFFFEE) ∧
    after (exec (.sld false 2 false false 10 9 1) s) (fun t => t.rdS 10 == 0xFFEEDDCC) := by decide +kernel
/-- A store into a sector that the die cache holds whole makes it dirty and leaves memory (R203, R222). -/
theorem test_sst : let s := regs [(9, 0x100010), (8, 0xAB)] (owns 0x10001 0 st)
    after (exec (.sst false 0 false 8 9 5) s) (fun t => (t.holdOf (.die 0) 0x10001).data == 0xAB0000000000 && (t.holdOf (.die 0) 0x10001).dirty &&
      t.memByte 0x100015 == 0) := by decide +kernel
/-- Scratchpad accesses, the last address, one past it, and a misaligned one (R129). -/
theorem test_scratchpad : let s := regs [(9, 65528), (8, 0x1122334455667788)] st
    after (exec (.sst false 3 true 8 9 0) s) (fun t => t.crew.spByte 65535 == 0x11 && t.crew.spByte 65528 == 0x88 &&
      after (exec (.sld false 2 true true 10 9 1) t) (fun u => u.rdS 10 == 0x11223344)) ∧
    after (exec (.sld false 3 false true 10 9 1) s) (fun t => faulted t 4 1 65536) ∧
    after (exec (.sld false 3 false true 10 9 0) (regs [(9, 65521)] st)) (fun t => faulted t 3 1 65521) := by decide +kernel

/-- With the pending buffer full of other stores, and a store that the core holds for it. -/
def holding (s : State) : State :=
  foc (fun f => { f with heldSt := [{ sec := 0x50000, mask := 1, data := 9, st := false, pin := false, seq := 500, since := 500 }] })
    (s.modDie 0 (fun d => { d with pend := (below 128).map (fun n => { sec := 0x90000 + n, mask := 1, data := 0, seq := n, since := n, by_ := [7], grid := [0], st := false, pin := false, seen := false }) }))

theorem witness_ScalarMemory : let s := regs [(9, 0x100010), (8, 0xAB)] (owns 0x10001 0 st)
    let p := (s.overwrite [10]).checkElems .load 8 [(0, 0x100010)]
    s.qualOk .load = true ∧ s.qualOk .store = true ∧ s.waits [9] [10] [] = none ∧ s.acqOutstanding = false ∧
    passes (s.overwrite [10]) .load 8 [(0, 0x100010)] ∧ p.2.1.length = 1 ∧ p.2.1.all (fun e => !pteFab e.leaf.pte && (p.1.loadLocal true 8 e).2 == some 0) ∧
    openFor s = true ∧ s.focus.got = [] ∧ passes s .store 1 [(0, 0x100015)] ∧ s.waits [9, 8] [] [] = none ∧
    (s.checkElems .store 1 [(0, 0x100015)]).1.storeStalls (s.checkElems .store 1 [(0, 0x100015)]).2.1 = false ∧
    (let r := foc (fun f => { f with remotes := [⟨true, false, true, false, 0, .sreg 4 8 false, 0, []⟩] }) s
     r.qualOk .store = true ∧ r.waits [9, 8] [] [] = none ∧ r.focus.remotes.any (fun m => m.reads) = true ∧
     after (exec (.sst false 0 false 8 9 5) r) (fun t => parkedFor t .remoteLoad)) ∧
    (let h := holding s
     h.acqOutstanding = false ∧ h.drainMine.focus.heldSt ≠ [] ∧ h.waits [9] [10] [] = none ∧ h.waits [9, 8] [] [] = none ∧
     after (exec (.sld false 3 false false 10 9 0) h) (fun t => parkedFor t (.wait .pending)) ∧
     after (exec (.sst false 0 false 8 9 5) h) (fun t => parkedFor t (.wait .pending))) := by decide +kernel
/-- What a load reads: the die cache's bytes, a pending store's over them, the L1's; and a sector that is not there is asked for. -/
theorem witness_LoadValues : let l : TlbEntry := { level := 1, vpn := 0, pte := 0x3F, at_ := 0 }
    let e : Elem := { lane := 0, va := 0x100010, leaf := l, pa := 0x100010, held := false }
    let s := owns 0x10001 0x1122334455667788 st
    let p (s : State) : State := s.modDie 0 (fun d => { d with pend := [{ sec := 0x10001, mask := 1, data := 0x99, seq := 1, since := 1, by_ := [1], grid := [0], st := false, pin := false, seen := false }] })
    let c := s.modCore 0 0 (fun k => { k with l1 := [⟨0x10001, 0xFF, 7, 0, 0⟩] })
    look 0 s.focus.got = none ∧ s.hstPending 0x10001 = false ∧ ptePlace l.pte ≠ 3 ∧ look 0x10001 s.focus.fills = none ∧ s.l1Serves 0 = true ∧ s.l1Copy 0 0 0x10001 (sectorMask 0 8) = none ∧ s.scope < 4 ∧
    s.l1Copy 0 0 0x10001 0 = none ∧ s.hintSt = false ∧ (s.pendings 0).any (fun y => y.sec == 0x10001) = false ∧ s.heldOn 0 0 = [] ∧
    (s.loadLocal true 8 e).2 = some 0x1122334455667788 ∧ ((p s).loadLocal true 8 e).2 = some 0x1122334455667799 ∧ ((p st).loadLocal true 1 e).2 = some 0x99 ∧
    (st.loadLocal true 8 e).2 = none ∧ ((st.loadLocal true 8 e).1.cache (.die 0)).reqs.any (fun r => r.sec == 0x10001) = true ∧
    (look 0x10001 (st.loadLocal true 8 e).1.focus.wants).any (fun w => w.mask == 0xFF) = true ∧
    (c.l1Copy 0 0 0x10001 (sectorMask 0 8)).isSome = true ∧ (c.loadLocal true 8 e).2 = some 7 ∧
    after (exec (.sld false 3 false false 10 9 0) (regs [(9, 0x100010)] st)) (fun t => t.focus.state == .issuing && t.focus.stalled && t.focus.pc == 0x100000 && t.rdS 10 == 0) := by
  decide +kernel
/-- With a page at 0x70000000 under a leaf with these bits, to frame 0x10, and its address in s9; the page after it is not there. -/
def page (bits : Word) : State := regs [(9, 0x70000000)] (st.modCore 0 0 (fun k => { k with tlb := [{ level := 2, vpn := 0x7000, pte := 0x100000 ||| bits, at_ := 0 }] }))
/-- Each fault of R126 of a scalar load and store, at lane 0, and the order of the first three. -/
theorem witness_AccessTraps : let ld (s : State) (code sub : Byte) (a : Word) : Bool := after (exec (.sld false 3 false false 10 9 0) s) (fun t => faulted t code sub a)
    let sx (s : State) (code sub : Byte) (a : Word) : Bool := after (exec (.sst false 3 false 8 9 0) s) (fun t => faulted t code sub a)
    let at_ (a : Word) : State := regs [(9, a)] (page 0x3F)
    look 0 st.focus.checked = none ∧ ld (at_ 0x80000000000001) 4 0 0x80000000000001 ∧ ld (at_ 0x70000001) 3 1 0x70000001 ∧ ld (at_ 0x70010000) 5 1 0x70010000 ∧ sx (at_ 0x70010000) 5 2 0x70010000 ∧
    ((page 0x3F).leafOf 0 0 0x70010000).2 = none ∧ (((page 0x3F).leafOf 0 0 0x70000000).2).isSome = true ∧
    ld (page 0x3D) 6 1 0x70000000 ∧ sx (page 0x3B) 6 2 0x70000000 ∧ sx (page 0x23F) 6 4 0x70000000 ∧
    ld ((page 0x583F).modDie 5 (fun d => { d with present := false })) 7 1 0x70000000 ∧ ld ((page 0x583F).modDie 5 (fun d => { d with enabled := false })) 7 2 0x70000000 ∧
    sx ((page 0x583F).modCtl 0 (fun c => { c with partition := 1 })) 7 3 0x70000000 ∧ ptePeer 0x583F = 5 ∧ bit 0x583F 11 = true ∧
    ld (page 0x803F) 8 1 0x70000000 ∧ pteFab 0x803F = true ∧ pteGroup 0x803F = none ∧ sx (page 0x803F) 8 1 0x70000000 := by decide +kernel
/-- The lane that fails first: misaligned, or past the page; `vstc` performs what comes before it and counts it (R111). -/
theorem witness_LaneTraps : let s := vreg 5 (fun i => if i = 3 then 1 else BitVec.ofNat 32 (4 * i)) (page 0x3F)
    let lane (t : State) (n : Byte) : Bool := t.focus.faulted.any (fun r => r.1.lane == n)
    let near := regs [(9, 0x7000FFF8)] (page 0x3F)
    let p := near.checkElems .store 4 (packedFrom 0x7000FFF8 4 0 near.guardLanes)
    after (exec (.vldx false 2 9 5 0) s) (fun t => faulted t 3 1 0x70000001 && lane t 3) ∧ after (exec (.vstx false 2 9 5 0) (vreg 5 (fun _ => 1) s)) (fun t => faulted t 3 1 0x70000001 && lane t 0) ∧
    after (exec (.vld false 2 9 0) near) (fun t => faulted t 5 1 0x70010000 && lane t 2) ∧ after (exec (.vst false 2 9 0) near) (fun t => faulted t 5 2 0x70010000 && lane t 2 && t.focus.progress == 0) ∧
    after (exec (.vatom false .add true 2 9 5) s) (fun t => faulted t 3 1 0x70000001 && lane t 3) ∧
    after (exec (.satom false .add true true 4 9 0) near) (fun t => faulted t 5 3 0x70010000 || t.focus.state != .parked) ∧
    after (exec (.satom false .add true true 4 9 0) (regs [(9, 0x70010000)] near)) (fun t => faulted t 5 3 0x70010000) ∧
    p.2.1.length = 2 ∧ p.2.2.isSome = true ∧ (p.1.dataBrk .store p.2.1).isNone = true ∧ p.2.1.all (fun e => !e.held && !pteFab e.leaf.pte) = true ∧ p.1.storeStalls p.2.1 = false ∧
    (p.1.markAll 0 (p.2.1.map (fun e => e.leaf))).2 = true ∧
    after (exec (.vstc false 2 9 0) near) (fun t => faulted t 5 2 0x70010000 && lane t 2 && t.focus.progress == 2 && (t.die 0).pend.any (fun x => x.mask == 0xFF00)) ∧
    after (exec (.vstc false 2 9 0) (regs [(9, 0x70000001)] near)) (fun t => faulted t 3 1 0x70000001 && lane t 0 && t.focus.progress == 0) := by decide +kernel
/-- A leaf whose dirty bit is not set: set at once where its home is free, else asked for (R294). -/
theorem witness_MarkAll : let l : TlbEntry := { level := 1, vpn := 0, pte := 0x1F, at_ := 0x500000 }
    let s := st.setMemSector 0x50000 0xFF 0x1F
    let away := s.modHome (st.homeOf 0x500000) (fun q => q.setHold 0x50000 (3, false))
    (s.markAll 0 [l]).2 = true ∧ (away.markAll 0 [l]).2 = false ∧ ((away.markAll 0 [l]).1.home (st.homeOf 0x500000)).queue.length = 1 := by decide +kernel
theorem witness_StoreGoesWhere : let l : TlbEntry := { level := 1, vpn := 0, pte := 0x3F, at_ := 0 }
    let s := owns 0x10001 0 st
    let p2 : TlbEntry := { l with pte := 0x3F + 2 * 2 ^ 6 }
    let el (l : TlbEntry) : Elem := { lane := 0, va := 0x100010, leaf := l, pa := 0x100010, held := false }
    let e : PendEntry := { sec := 0x10001, mask := 1, data := 0, seq := 1, since := 1, by_ := [1], grid := [0], st := false, pin := false, seen := false }
    bit l.pte 5 = true ∧ s.hintSt = false ∧ ptePlace l.pte < 2 ∧ ptePlace (0x3F + 3 * 2 ^ 6) = 3 ∧ s.pendOf 0 0x10001 = none ∧ s.pendOf (partner 0) 0x10001 = none ∧
    s.ownsAll 0 0x10001 = true ∧ st.ownsAll 0 0x10001 = false ∧ (st.modDie 0 (fun d => { d with pend := [e] })).pendOf 0 0x10001 = some e ∧
    s.heldOn 0 0 = [] ∧ st.heldOn 0 0 = [] ∧ s.crew.die = 0 ∧ s.crew.core = 0 ∧ bit p2.pte 5 = true ∧ ptePlace p2.pte = 2 ∧ (s.holdOf (.die 0) 0x10001).own = true ∧
    (s.die 0).cache.reqs = [] ∧ (s.die 0).cache.activeFor 0x10001 = none ∧ (st.die 0).pend.length < 128 ∧
    ((s.storeLocal 1 (el p2) 7).holdOf (.die 0) 0x10001).count = 0 ∧ ((s.storeLocal 1 (el p2) 7).net.length = 1) ∧
    (holding s).heldOn 0 0 ≠ [] ∧ ((holding s).storeLocal 1 (el l) 7).focus.heldSt.length = 2 ∧
    (let x : L1Copy := ⟨0x10001, 0xFF, 5, 0, 0⟩
     let c := s.modCore 0 0 (fun k => { k with l1 := [x] })
     x ∈ (c.core 0 0).l1 ∧ ((c.storeLocal 1 (el l) 7).core 0 0).l1.any (fun y => y.sec == 0x10001 && y.have_ == 0xFF && y.data == 7) = true) := by
  decide +kernel
theorem witness_ScalarScratchpad : let s := regs [(9, 65520), (8, 3)] st
    s.qualOk .spLoad = true ∧ s.qualOk .spStore = true ∧ s.waits [9] [10] [] = none ∧ s.waits [9, 8] [] [] = none ∧ openFor s = true ∧ s.focus.state = .issuing ∧ (s.rdS 9 + (1 : BitVec 9).signExtend 64 * 8).toNat + 8 ≤ s.crew.hdr.scratch ∧
    s.crew.hdr.scratch < (s.rdS 9 + (2 : BitVec 9).signExtend 64 * 8).toNat + 8 ∧ 65521 % 8 ≠ 0 ∧
    after (exec (.sst false 3 true 8 9 2) s) (fun t => faulted t 4 1 65536) ∧ after (exec (.sst false 3 true 8 9 0) (regs [(9, 65513)] s)) (fun t => faulted t 3 1 65513) := by
  decide +kernel

/-- Unit-stride lanes, and lanes that share an address (R109, R110). -/
theorem test_vld : let s := regs [(10, 0x100000)] (owns 0x10000 0x00000004000000030000000200000001 (owns 0x10001 0x00000008000000070000000600000005 st))
    let t := foc (fun f => { f with live := 0xFF }) s
    after (exec (.vld false 1 10 0) t) (fun u => u.rdV 1 0 == 1 && u.rdV 1 7 == 8 && u.rdV 1 8 == 0) ∧
    after (exec (.vldUni false 2 10 1) t) (fun u => u.rdV 2 0 == 2 && u.rdV 2 7 == 2) ∧
    after (exec (.vldx false 3 10 5 2) (vreg 5 (fun i => BitVec.ofNat 32 (i % 2)) t)) (fun u => u.rdV 3 6 == 1 && u.rdV 3 7 == 2) := by decide +kernel
/-- Of lanes that name one address the highest wins (R111). -/
theorem test_vstx : after (exec (.vstx false 6 10 5 2) (vreg 6 (fun i => BitVec.ofNat 32 (i + 1)) (regs [(10, 0x100000)] (owns 0x10000 0 st))))
    (fun u => (u.holdOf (.die 0) 0x10000).data == 16) := by decide +kernel
/-- Scratchpad lanes out of range are killed and set LFAULT; the others are performed (R130, R131). -/
theorem test_kill : after (exec (.vsts false 0 4 6 0) (vreg 4 (fun i => BitVec.ofNat 32 (i + 1)) (regs [(6, 65528)] st)))
    (fun t => t.crew.spByte 65528 == 1 && t.crew.spByte 65532 == 2 && t.focus.live == 3 && t.focus.lfault == 0xFFFC) := by decide +kernel
/-- Lane after lane on one scratchpad word (R231), and the old value returned. -/
theorem test_vatoms : after (exec (.vatoms false .add true 4 0 5) (vreg 4 (fun _ => 1) st)) (fun t => t.crew.spRead 0 4 == 16 && t.rdV 4 3 == 3) := by decide +kernel
theorem test_satom : let s := regs [(5, 0x100000), (6, 8), (4, 10)] (owns 0x10000 0x00000000000000070000000000000000 st)
    after (exec (.satom false .add true true 4 5 6) s) (fun t => t.rdS 4 == 7 && (t.holdOf (.die 0) 0x10000).data == 0x00000000000000110000000000000000) ∧
    after (exec (.satom false .inc true true 4 5 6) (regs [(4, 7)] s)) (fun t => t.rdS 4 == 7 && (t.holdOf (.die 0) 0x10000).data == 0) := by decide +kernel

theorem witness_VectorMemory : let s := regs [(10, 0x100000)] ((below 4).foldl (fun s n => owns (0x10000 + n) 0 s) st)
    let xs := s.guardLanes.map (fun i => (i, (s.unitEa 10 0 i).toNat))
    let p := s.checkElems .load 4 (distinct xs [])
    let q := s.checkElems .store 4 xs
    s.focus.ty ≠ .f4 ∧ s.qualOk .load = true ∧ s.qualOk .store = true ∧ openFor s = true ∧ vready s [(1, false)] [10] [] ∧
    vready s [(1, false), (5, false)] [10] [] ∧ passes s .load 4 (distinct xs []) ∧ fabElems p.2.1 = [] ∧ (p.1.loadAll true 4 p.2.1).2.2 = true ∧
    passes s .store 4 xs ∧ q.2.1.all (fun e => !pteFab e.leaf.pte) = true ∧ q.1.storeStalls q.2.1 = false ∧ s.focus.got = [] ∧
    s.guardLanes.length = 16 ∧ (foc (fun f => { f with progress := 16 }) s).focus.progress.toNat = 16 := by decide +kernel
/-- A killed lane writes the crew's kill record: the first of them all stands in it (R131). -/
theorem test_kill_record : let s := vreg 4 (fun i => BitVec.ofNat 32 (i + 1)) (regs [(6, 65528)] st)
    s.crew.kills = 0 ∧ after (exec (.vsts false 0 4 6 0) s) (fun t => t.crew.kills == 0xFFFC && t.crew.firstOff == 65536 && t.crew.firstPc == 0x100000 &&
      after (exec (.vlds false 0 5 6 1) (regs [(6, 65600)] (foc (fun f => { f with live := 3 }) t))) (fun u => u.crew.kills == 0xFFFF && u.crew.firstOff == 65536)) := by decide +kernel
theorem witness_ScratchpadVectors : st.focus.state = .issuing ∧ st.focus.ty ≠ .f4 ∧ st.qualOk .spLoad = true ∧ st.qualOk .spStore = true ∧
    openFor st = true ∧ vready st [(4, false)] [6] [] ∧ vready st [(4, false), (5, false)] [6] [] := by decide +kernel
theorem witness_AtomicResults : let s := regs [(5, 0x100000), (6, 8), (4, 10)] (owns 0x10000 0 st)
    let p := s.checkElems .atomic 8 [(0, 0x100008)]
    s.qualOk .spAtomic = true ∧ s.qualOk .atomic = true ∧ atomTypeOk .add s.focus.ty = true ∧ 127 + atomRegs .add false ≤ s.crew.hdr.vregs ∧
    s.waits [6] [] [(127, false), (5, false)] = none ∧ s.focus.full = true ∧ openFor s = true ∧ openFor (s.overwrite [4]) = true ∧ s.waits [5, 6, 4] [4] [] = none ∧
    s.waits [5, 6, 4, 5] [4] [] = none ∧ passes s .atomic 8 [(0, 0x100008)] ∧ fabElems p.2.1 = [] ∧
    (p.1.atomAll 8 true (.sreg 4 8 false) (fun _ => { op := .add, w64 := true, x := 10, y := 0, ret := true }) p.2.1).2 = ([(0, 0)], true) := by decide +kernel
theorem witness_AtomicVector : let s := vreg 5 (fun i => BitVec.ofNat 32 (4 * i)) (regs [(10, 0x100000)] ((below 4).foldl (fun s n => owns (0x10000 + n) 0 s) st))
    let p := s.checkElems .atomic 4 (s.guardLanes.map (fun i => (i, (s.atomEa 10 5 i).toNat)))
    passes s .atomic 4 (s.guardLanes.map (fun i => (i, (s.atomEa 10 5 i).toNat))) ∧ fabElems p.2.1 = [] ∧ p.2.1.length = 16 ∧
    (p.1.atomAll 4 true (.vreg 4 4) (p.1.laneArgs .add true 4) p.2.1).2.2 = true := by decide +kernel
theorem witness_AtomicTable : (5 : Nat) < 2 ^ 32 ∧ (2 ^ 32 - 1 : Nat) < 2 ^ 32 ∧ atomNew .inc 32 5 5 0 = 0 ∧ atomNew .inc 32 4 5 0 = 5 ∧ atomNew .dec 32 0 5 0 = 5 ∧
    atomNew .dec 32 6 5 0 = 5 ∧ atomNew .dec 32 5 5 0 = 4 ∧ 8 + 8 ≤ 16 ∧ 12 + 4 ≤ 16 ∧
    atomNew .fadd 32 0x3F800000 0x3F800000 0 = 0x40000000 ∧ fmtF32.read false 0x3F800000 = .num false 8388608 (-23) := by decide +kernel
theorem witness_WaitcResults : let s := regs [(5, 0x100000), (6, 7)] (owns 0x10000 8 st)
    let p := (s.overwrite [4]).checkElems .load 8 [(0, 0x100000)]
    s.qualOk .wait = true ∧ s.waits [5, 6] [4] [] = none ∧ s.acqOutstanding = false ∧ s.focus.heldSt = [] ∧ p.2.1.all (fun e => !pteFab e.leaf.pte) = true ∧ passes (s.overwrite [4]) .load 8 [(0, 0x100000)] ∧
    p.2.1.all (fun e => ((p.1.keepChecked [e]).waitcRead e).2 == some 8) ∧ (8 : Word) ≠ s.rdS 6 ∧ (regs [(6, 8)] s).rdS 6 = 8 ∧
    after (exec (.waitc 4 5 6) s) (fun t => t.rdS 4 == 1) ∧ after (exec (.waitc 4 5 6) (regs [(6, 8)] s)) (fun t => t.focus.state == .parked) := by decide +kernel

/-! ### Barriers, Latches, Hinges, slots -/

/-- Two root strands: the one in hand and a sister. -/
def two (f : Strand → Strand) : State := { st with strands := [f { st.focus with uid := 9, root := 9, idx := 1, state := .ready }] }

theorem witness_BarrierResults : let s := two id
    let w := (two (fun x => { x with state := .parked, park := some (.barrier (some 3)), cur := .bar 3 })).setCrew
      { st.crew with bars := st.crew.bars.set 3 { phase := 0, arrived := 2, last := (Vector.replicate 16 none).set 1 (some 0) } }
    s.focused = true ∧ s.focus.uid ≠ 0 ∧ s.focus.crew = s.crew.uid ∧ s.focus.idx < 16 ∧ s.focus.state = .issuing ∧ s.focus.isRemnant = false ∧
    s.completeTo 1 = true ∧ s.arrived 3 = false ∧ ((s.participants s.crew.uid).all (fun x => (s.crew.bar 3).arrived.getLsbD x.idx || x.idx == s.focus.idx)) = false ∧
    ((w.participants w.crew.uid).all (fun x => (w.crew.bar 3).arrived.getLsbD x.idx || x.idx == w.focus.idx)) = true ∧
    after (exec (.bar 3) s) (fun t => parkedFor t (.barrier (some 3))) ∧
    after (exec (.bar 3) w) (fun t => t.focus.state == .ready && (t.crew.bar 3).phase == 1 && t.strands.all (fun x => x.state == .ready && x.pc == 0x100004)) ∧
    after (exec (.barArrive false 3) s) (fun t => t.arrived 3 && at16 (t.crew.bar 3).last t.focus.idx == some (t.crew.bar 3).phase &&
      (t.focus.isRemnant == false && t.completeTo 1 && after (exec (.barArrive false 3) t) (fun u => parkedFor u (.barrier (some 3))) &&
       after (exec (.barWait 3) t) (fun u => parkedFor u (.barrier (some 3))))) ∧
    at16 (s.crew.bar 3).last s.focus.idx ≠ some (s.crew.bar 3).phase ∧ after (exec (.barWait 3) s) (fun t => t.focus.pc == 0x100004) ∧
    (foc (fun f => { f with parent := some 3 }) s).focus.isRemnant = true := by decide +kernel
theorem witness_GridBarrierResults : let c : Crew := { st.crew with hdr := { st.crew.hdr with coop := true } }
    let s := (two id).setCrew c
    let w : State := { s with crews := [{ c with uid := 7 }], strands := [{ st.focus with uid := 9, crew := 7, state := .ready }] }
    s.focused = true ∧ s.focus.isRemnant = false ∧ (∀ c ∈ w.crews, c.uid ≠ w.crew.uid) ∧ st.crew.hdr.coop = false ∧
    after (exec .gbar st) (fun t => faulted t 0x0E 1 0) ∧ after (exec .gbar w) (fun t => parkedFor t (.barrier none)) ∧
    (let l : State := { s with strands := [] }
     (l.gridAt 0 0).any (fun g => g.next == crewCount g.hdr g.rec_) = true ∧
     after (exec .gbar l) (fun t => t.focus.state == .ready && t.crew.garrived == 0 && (t.gridAt 0 0).any (fun g => g.gphase == 1))) := by decide +kernel
/-- `ltinit` of two, `ltarrive` twice: the phase turns (R184); counts 0 and 2^30 trap. -/
theorem witness_LatchResults : let s := regs [(6, 64), (7, 2)] st
    let w := (two (fun x => { x with state := .parked, park := some (.wait (.latch 64 false)), cur := .ltwait 6 7 })).setFocus s.focus
    s.focused = true ∧ s.focus.state = .issuing ∧ (s.rdS 6).toNat % 8 = 0 ∧ s.waits [6, 7] [] [] = none ∧ s.waits [6] [9] [] = none ∧ s.waits [6, 7] [9] [] = none ∧
    s.completeTo 1 = true ∧ openFor s = true ∧ (s.rdS 6).toNat + 8 ≤ s.crew.hdr.scratch ∧
    after (exec (.ltarm false 6 7) s) (fun t => t.crew.latch 64 == 0x200000000) ∧ after (exec (.lttest false 9 6 0) s) (fun t => t.rdS 9 == 0) ∧
    after (exec (.ltwait 6 7) (regs [(7, 1)] s)) (fun t => t.focus.pc == 0x100004) ∧
    after (exec (.ltinit false 6 7) w) (fun t => after (exec (.ltarrive false 9 6) t) (fun t => t.rdS 9 == 0 && t.strands.all (fun x => x.state == .parked) &&
      after (exec (.ltarrive false 9 6) t) (fun u => bit (u.crew.latch 64) 63 && u.strands.all (fun x => x.state == .ready && x.pc == 0x100004)))) ∧
    after (exec (.ltinit false 6 7) (regs [(7, 0)] s)) (fun t => faulted t 1 4 0) ∧ after (exec (.ltinit false 6 7) (regs [(7, 0x40000000)] s)) (fun t => faulted t 1 4 0) ∧
    after (exec (.lttest false 9 6 7) (regs [(6, 65536)] s)) (fun t => faulted t 4 1 65536) ∧ after (exec (.ltwait 6 7) (regs [(6, 4)] s)) (fun t => faulted t 3 1 4) ∧
    after (exec (.ltwait 6 0) s) (fun t => parkedFor t (.wait (.latch 64 false))) := by decide +kernel
theorem witness_HingeResults : let full := crw (fun c => { c with hinges := c.hinges.set 0 { Hinge.zero with ac := Vector.replicate 16 255 } }) st
    let rel := crw (fun c => { c with hinges := c.hinges.set 0 { Hinge.zero with rc := 1 } }) st
    st.focused = true ∧ st.focus.isRemnant = false ∧ st.completeTo 1 = true ∧ after (exec (.hgarrive false 0) st) (fun t => at16 (t.crew.hinge 0).ac 0 == 1) ∧
    after (exec (.hgarrive false 0) full) (fun t => parkedFor t (.hinge 0)) ∧ after (exec (.hgwait 0) st) (fun t => parkedFor t (.hinge 0)) ∧
    after (exec (.hgwait 0) rel) (fun t => at16 (t.crew.hinge 0).wc 0 == 1) ∧ after (exec (.mhwait 0) st) (fun t => t.crew.seq.state == .waiting) ∧
    after (exec (.mhwait 0) full) (fun t => (t.crew.hinge 0).mc == 1) ∧ after (exec (.mharr 0) st) (fun t => (t.crew.hinge 0).rc == 1) ∧
    after (exec (.mharr 0) (crw (fun c => { c with hinges := c.hinges.set 0 { Hinge.zero with rc := 255 } }) st)) (fun t => t.crew.seq.state == .holding) ∧
    (let r := foc (fun f => { f with parent := some 3 }) st
     r.focused = true ∧ r.focus.isRemnant = true ∧ after (exec (.hgarrive false 0) r) (fun t => faulted t 0x0B 1 0) ∧
     after (exec (.hgwait 0) r) (fun t => faulted t 0x0B 1 0)) := by
  decide +kernel
/-- Claims of 64, 65 and beyond the header's count; a core without room; releases. -/
theorem witness_SlotResults : let s := regs [(2, 64)] st
    let none_ := crw (fun c => { c with slots := List.replicate 60 Slot.fresh }) (regs [(2, 4)] st)
    let busy : State := { regs [(2, 4)] st with crews := [{ st.crew with uid := 7, slots := List.replicate 62 Slot.fresh }] }
    let behind (s : State) : State := s.modCore 0 0 (fun k => { k with claims := [9] })
    (behind s).focus.uid ∉ ((behind s).core 0 0).claims ∧ after (exec (.mclaim false 3 2) (behind s)) (fun t => parkedFor t (.wait .slots) && (t.core 0 0).claims == [9, 1]) ∧
    after (exec (.mclaim false 3 2) (behind (regs [(2, 4)] (crw (fun c => { c with slots := [Slot.fresh] }) st)))) (fun t => t.rdS 3 == 0 && t.focus.pc == 0x100004) ∧
    s.waits [2] [3] [] = none ∧ s.waits [2] [] [] = none ∧ s.freeSlots 0 0 = 64 ∧ (s.core 0 0).claims = [] ∧ busy.freeSlots 0 0 = 2 ∧
    after (exec (.mclaim false 3 2) s) (fun t => t.rdS 3 == 1 && t.crew.slots.length == 64) ∧ after (exec (.mclaim false 3 2) (regs [(2, 65)] st)) (fun t => faulted t 0x0C 1 0) ∧
    after (exec (.mclaim false 3 2) none_) (fun t => t.rdS 3 == 61) ∧ after (exec (.mclaim false 3 2) (regs [(2, 5)] none_)) (fun t => faulted t 0x0C 2 0) ∧
    after (exec (.mclaim false 3 2) busy) (fun t => parkedFor t (.wait .slots)) ∧
    after (exec (.mclaim false 3 2) (crw (fun c => { c with slots := [Slot.fresh] }) busy)) (fun t => t.rdS 3 == 0 && t.focus.pc == 0x100004) ∧
    after (exec (.mrel false 2) none_) (fun t => t.crew.slots.length == 56) ∧ after (exec (.mrel false 0) none_) (fun t => t.crew.slots == []) ∧
    after (exec (.mrel false 2) st) (fun t => t.crew.slots == []) ∧ after (exec (.mrel false 2) (regs [(2, 1)] st)) (fun t => faulted t 0x0C 3 0) := by decide +kernel

/-! ### Engines -/

/-- A 64-byte descriptor from fields: offset, bytes, value. -/
def desc (fs : List (Nat × Nat × Nat)) : List Byte :=
  (below 64).map (fun i => fs.foldl (fun b f => if f.1 ≤ i ∧ i < f.1 + f.2.1 then BitVec.ofNat 8 (f.2.2 / 256 ^ (i - f.1)) else b) 0)
/-- With bytes in scratchpad. -/
def spad (off : Nat) (b : List Byte) (s : State) : State := crw (fun c => c.spWrite off b) s

/-- A copy is accepted with its descriptor, 32 on the core keep it out, and bad offsets trap (R187 to R190). -/
theorem witness_CopyIssueResults : let s := regs [(6, 64), (7, 128)] (spad 64 (desc [(48, 1, 4), (16, 4, 8)]) st)
    let o : CopyOp := { cursor 5 0 with done := .token 5, begun := false }
    let busy := crw (fun c => { c with copies := List.replicate 32 o }) s
    s.completeTo 1 = true ∧ s.waits [6] [20] [] = none ∧ s.waits [6, 7] [] [] = none ∧ s.waits [] [5] [] = none ∧ s.coreCopies < 32 ∧ 32 ≤ busy.coreCopies ∧
    s.allStrands.any (s.waitsCopy s.crew.die s.crew.core) = false ∧
    after (exec (.cpy false 20 6) s) (fun t => t.crew.copies.length == 1 && t.focus.busy.any (fun b => b.1 == 20)) ∧
    after (exec (.cpyLt false 6 7) s) (fun t => t.crew.copies.any (fun o => o.done == .latch 128)) ∧
    after (exec (.cpy false 20 6) busy) (fun t => parkedFor t (.wait .copySlot)) ∧ after (exec (.cpyq false 5) busy) (fun t => t.rdS 5 == 32) ∧
    after (exec (.cpyw false 20 6) (regs [(6, 65)] s)) (fun t => faulted t 3 1 65) ∧ after (exec (.cpyg false 20 6) (regs [(6, 65536)] s)) (fun t => faulted t 4 1 65536) := by
  decide +kernel
/-- A good and a bad stream descriptor, a core with all 64 handles in use; counts 0, 1, 64 and 65 of bins. -/
theorem witness_StreamAndBinningResults : let s := regs [(6, 64), (7, 3)] (spad 64 (desc [(40, 1, 4), (42, 2, 1)]) st)
    let x : Stream := ⟨1, [], false, 0, 0⟩
    let full := crw (fun c => { c with streams := (below 64).map (fun n => { x with handle := n + 1 }) }) s
    s.waits [6] [5] [] = none ∧ streamBad (s.crew.spBytes 64 64) = false ∧ streamBad (st.crew.spBytes 64 64) = true ∧
    (∀ h ∈ (below 64).map (· + 1), h ∈ full.handlesUsed) ∧ after (exec (.sdesc false 5 6) s) (fun t => t.rdS 5 == 1 && t.crew.streams.length == 1) ∧
    after (exec (.sdesc false 5 6) (regs [(6, 128)] s)) (fun t => t.rdS 5 == -1) ∧ after (exec (.sdesc false 5 6) full) (fun t => t.rdS 5 == 0) ∧
    after (exec (.sgo false 7) full) (fun t => t.crew.streams.all (fun x => x.running == (x.handle == 3))) ∧
    after (exec (.sstop false 7) full) (fun t => t.crew.streams.length == 63) ∧
    after (exec (.binit false 7 6) s) (fun t => t.crew.bin.queue.length == 1) ∧ after (exec (.binit false 7 0) s) (fun t => faulted t 1 4 0) ∧
    after (exec (.binit false 7 6) (regs [(6, 65)] s)) (fun t => faulted t 1 4 0) ∧ s.waits [] [7] [] = none ∧ vready s [(1, false)] [0] [8] ∧
    after (exec (.bcount false 8 0 1) s) (fun t => t.crew.bin.queue.length == 1) := by decide +kernel
/-- A kernel without a stream, one whose context is stopped, one whose context runs; the loop at counts 1 and 2 (R173). -/
theorem witness_SequencerResults : let s := regs [(8, 512)] (spad 512 [7] st)
    let run := crw (fun c => { c with seq := { c.seq with state := .running } }) s
    let none_ := crw (fun c => { c with hdr := { c.hdr with stream := 0 } }) s
    s.crew.hdr.stream ≠ 0 ∧ s.waits [8] [5] [] = none ∧ s.completeTo 1 = true ∧ (s.rdS 8).toNat % 8 = 0 ∧ (s.rdS 8).toNat + 64 ≤ s.crew.hdr.scratch ∧ s.crew.seq.state = .stopped ∧ run.crew.seq.state ≠ .stopped ∧ none_.crew.hdr.stream = 0 ∧
    after (exec (.mgo false 5 8) s) (fun t => t.rdS 5 == 1 && t.qReg 0 == 7 && t.crew.seq.pc == 0x100000) ∧
    (let q := crw (fun c => { c with seq := { c.seq with state := .faulted, pc := 0x100008, start := 0x100000, fcode := 0x10, fsub := 3, q := c.seq.q.set 7 9 } }) s
     let gives (n v : Word) (s : State) : Bool := after (exec (.mstat false 5 8) (regs [(8, n)] s)) (fun t => t.rdS 5 == v)
     gives 0 0x0000000200031004 q ∧ gives 8 9 q ∧ gives 9 0 q ∧ gives 0 0 none_ ∧ gives 8 0 none_) ∧
    after (exec (.mgo false 5 8) run) (fun t => t.rdS 5 == 0) ∧ after (exec (.mgo false 5 8) none_) (fun t => faulted t 1 4 0) ∧
    after (exec (.mset 2 1) run) (fun t => t.qReg 2 == 1 && after (exec (.mloop 2 0xFFFD) t) (fun u => u.qReg 2 == 0 && u.crew.seq.pc == t.crew.seq.pc + 4)) ∧
    after (exec (.mset 2 2) run) (fun t => after (exec (.mloop 2 0xFFFD) t) (fun u => u.crew.seq.pc == t.crew.seq.pc - 12)) := by decide +kernel
/-- The operands of a tile operation are good. -/
def good (r : TileRes) : Bool := match r with
  | .ok _ _ => true
  | .bad _ _ _ => false
/-- Each form of the tile operations with good operands, and each stop that has a clause of its own. -/
theorem witness_TileForms : let s := crw (fun c => { c with slots := List.replicate 8 Slot.fresh, tiles := c.tiles.take 4, seq := { c.seq with state := .running } }) (spad 0 [1, 2, 3] st)
    let far (n : Word) : State := crw (fun c => { c with seq := { c.seq with q := c.seq.q.set 1 n } }) s
    s.arrayFree = true ∧ s.crew.tiles.length = 4 ∧ s.crew.slots.length = 8 ∧ (0 + 64 * (2 : BitVec 10).toNat) % 2 ^ 64 + 4096 + 2048 ≤ s.crew.hdr.scratch ∧
    (s.qReg 1).toNat + 8452 ≤ s.crew.hdr.scratch ∧ 8 * 4096 ≤ s.crew.hdr.scratch ∧
    good (mzeroEffect s.crew 3) ∧
    good (mldoEffect s.crew 1 1 true 0) ∧
    good (mdeqEffect s.crew 2 1 192 false) ∧ good (mhadEffect s.crew 0 1 0 false) ∧
    good (mhadEffect s.crew 2 2 0 true) ∧ good (mqntEffect s.crew 1 2 false false) ∧
    good (mqntEffect s.crew 1 4 true false) ∧ good (mmlaEffect s.crew 1 0 1 2 3 false) ∧
    good (mmlaEffect s.crew 2 0 1 7 7 false) ∧ good (mstoEffect s.crew 1 1 1 true 3 false) ∧
    good (mstoEffect s.crew 1 2 2 false 0 true) ∧
    (∀ i ∈ [Instr.mzero 4, .mdeq 1 1 0 false, .mdeq 0 1 193 false, .mhad 3 0 0 false, .mqnt 0 1 false false, .mqnt 0 2 true false, .mmla 0 0 1 0 2 false, .msto 1 0 3 false 0 false],
      after (exec i s) (fun t => t.crew.seq.state == .faulted && t.crew.seq.fcode == 0x10 && t.crew.seq.fsub == 3 && t.crew.seq.pc == s.crew.seq.pc)) ∧
    after (exec (.msto 1 0 0 false 5 false) s) (fun t => t.crew.seq.fsub == 2) ∧ after (exec (.mldo 8 1 false 0) s) (fun t => t.crew.seq.fcode == 0x0C && t.crew.seq.fsub == 4) ∧
    after (exec (.mldo 1 1 false 0) (far 8)) (fun t => t.crew.seq.fsub == 4) ∧ after (exec (.mldo 1 1 false 0) (far 61504)) (fun t => t.crew.seq.fsub == 4) ∧
    after (exec (.mdeq 2 1 0 false) (far 57152)) (fun t => t.crew.seq.fcode == 0x10 && t.crew.seq.fsub == 4) := by decide +kernel
/-- A slot that the crew holds, and one that it does not (R176). -/
theorem witness_TileResults : let s := crw (fun c => { c with slots := [Slot.fresh, Slot.fresh], seq := { c.seq with state := .running } }) (spad 0 [1, 2, 3] st)
    (match mldoEffect s.crew 1 0 false 0 with | .ok _ _ => true | .bad _ _ _ => false) = true ∧ s.arrayFree = true ∧
    (match mldoEffect s.crew 2 0 false 0 with | .ok _ _ => false | .bad _ _ _ => true) = true ∧
    (match mzeroEffect s.crew 15 with | .ok _ _ => true | .bad _ _ _ => false) = true ∧
    after (exec (.mldo 2 0 false 0) s) (fun t => t.crew.seq.state == .faulted && t.crew.seq.pc == s.crew.seq.pc) ∧
    (let b := s.modCore 0 0 (fun k => { k with array := some ⟨7, [], [], 0⟩ })
     b.arrayFree = false ∧ after (exec (.mzero 15) b) (fun t => t == b)) := by decide +kernel
/-- The four answers of `dlaunch`: written, not free yet, filled already, disabled (R242). -/
theorem witness_DeviceLaunchResults : let q : DevQueue := ⟨0x200000, 1, 0x201000, 4, 0, [5]⟩
    let s := spad 64 [9] (st.modCtl 0 (fun c => { c with dq := c.dq.set 3 q }))
    let j := fun (n : Word) => regs [(5, n * 64 + 3), (6, 64), (7, 9)] s
    let away := (j 4).modHome ((j 4).homeOf 0x200000) (fun q => q.setHold 0x20000 (3, false))
    let all := (below 4).foldl (fun s n => s.modHome (s.homeOf (0x200000 + 16 * n)) (fun q => q.setHold (0x20000 + n) (3, false))) (j 4)
    s.startRelease.completeTo 2 = true ∧ s.heldOn 0 0 = [] ∧ s.waits [5, 6] [4] [] = none ∧ s.waits [5, 7] [] [] = none ∧ (s.die 0).port.asks = [] ∧
    (∀ i ∈ below 64, (all.home (all.homeOf (16 * ((0x200000 + i) / 16)))).hold ((0x200000 + i) / 16) = (3, false)) ∧
    after (exec (.dlaunch false 4 5 6) away) (fun t => (t.die 0).port.asks.map (fun x => (x.q, x.j)) == [(3, 4)] && t.focus.busy.map (fun y => y.1) == [4] &&
      (t.die 0).ctl.dq[3] == q && t.focus.pc == 0x100004) ∧
    after (exec (.dlaunch false 4 5 6) all) (fun t => (t.die 0).port.asks.length == 1 && t.memByte 0x200000 == 0 &&
      after (exec (.dlaunch false 7 5 6) t) (fun u => u.rdS 7 == 4)) ∧
    after (exec (.dlaunch false 4 5 6) (j 4)) (fun t => t.rdS 4 == 0 && (t.die 0).ctl.dq[3].filled == [5, 4] && t.memByte 0x200000 == 9) ∧
    after (exec (.dlaunch false 4 5 6) (j 5)) (fun t => t.rdS 4 == 4) ∧ after (exec (.dlaunch false 4 5 6) (j 3)) (fun t => t.rdS 4 == 4) ∧
    after (exec (.dlaunch false 4 5 6) (j 6)) (fun t => t.rdS 4 == 3) ∧ after (exec (.dlaunch false 4 5 6) (regs [(5, 4), (6, 64)] s)) (fun t => t.rdS 4 == 5) ∧
    after (exec (.qnotify false 5 7) (regs [(5, 3), (7, 9)] s)) (fun t => (t.die 0).ctl.dq[3].tail == 9) := by decide +kernel
/-- A configured context 0, bound to the crew or to nobody; descriptors of a receive and of a HOLD send. -/
theorem witness_KeywayIssue : let free := st.modKctx 0 0 (fun k => { k with w0 := 0x8000000000000001 })
    let s := regs [(6, 64), (7, 128)] (free.modKctx 0 0 (fun k => { k with bound := some 2 }))
    let rcv := desc [(8, 4, 16), (12, 4, 1), (16, 4, 1), (20, 4, 1), (40, 1, 4), (41, 1, 8), (44, 4, 256)]
    let snd := desc [(0, 8, 4096), (8, 4, 16), (12, 4, 1), (16, 4, 1), (20, 4, 1), (40, 1, 4), (41, 1, 8), (44, 1, 1)]
    let r := spad 64 rcv s
    let h := spad 64 snd s
    s.focused = true ∧ s.focus.uid ≠ 0 ∧ s.crew.uid ≠ 0 ∧ s.waits [6] [20] [] = none ∧ s.waits [6, 7] [] [] = none ∧ s.completeTo 1 = true ∧ s.heldOn 0 0 = [] ∧
    s.startRelease.completeTo 5 = true ∧ s.deferredStore = none ∧ r.kBad r.crew false true (r.crew.spBytes 64 64) = none ∧
    r.kBad r.crew false false (r.crew.spBytes 64 64) = none ∧ (r.kctx 0 0).find (kValue rcv) (kMask rcv) = none ∧ h.kBad h.crew true false (h.crew.spBytes 64 64) = none ∧
    kHold (h.crew.spBytes 64 64) = true ∧ after (exec (.kctx false 3 0) free) (fun t => t.rdS 3 == 1 && (t.kctx 0 0).bound == some 2) ∧
    after (exec (.kctx false 3 2) (regs [(2, 1)] free)) (fun t => t.rdS 3 == 0) ∧ after (exec (.kctx false 3 2) (regs [(2, 64)] free)) (fun t => faulted t 1 4 0) ∧
    after (exec (.kpost false 20 6) r) (fun t => (t.kctx 0 0).posted.length == 1 && (t.strandOf 1).any (fun x => x.pc == 0x100004)) ∧
    after (exec (.kpull false 20 6) r) (fun t => (t.kctx 0 0).posted.length == 0 && (t.strandOf 1).any (fun x => x.pc == 0x100004)) ∧
    after (exec (.kprobe false 20 6) r) (fun t => (t.die 0).key.asks == [⟨(t.focus.busy.map (fun y => y.2)).getD 0 0, 2, 0, 256, some (kValue rcv, kMask rcv)⟩] &&
      t.focus.pc == 0x100004 && (t.focus.busy.map (fun y => y.1)) == [20]) ∧
    after (exec (.ksend false 20 6) h) (fun t => (t.crewOf 2).any (fun k => k.bin.queue.length == 1)) ∧
    after (exec (.kcancel false 20 6 7) (regs [(6, 64)] s)) (fun t => (t.die 0).key.asks.map (fun y => (y.crew, y.ctx, y.off, y.probe)) == [(2, 64, 128, none)] &&
      (t.focus.busy.map (fun y => y.1)) == [20]) ∧
    after (exec (.kpost false 20 6) (r.handAsk 0 ⟨99, 2, 0, 64, none⟩)) (fun t => (t.die 0).key.asks == []) := by decide +kernel
/-- A message that waits in context 0, whole or of its header only; receives that take it, fail or are cancelled; sends, also on a
broken channel. -/
theorem witness_KeywayMatches :
    let s := regs [(6, 64), (7, 128)] (st.modKctx 0 0 (fun k => { k with w0 := 0x8000000000000001, bound := some 2, ring := 0x300000 }))
    let rcv := desc [(8, 4, 2), (12, 4, 1), (16, 4, 1), (20, 4, 1), (40, 1, 4), (41, 1, 8), (44, 4, 256), (56, 8, 2 ^ 59 - 1)]
    let snd := desc [(8, 4, 2), (12, 4, 1), (16, 4, 1), (20, 4, 1), (40, 1, 4), (41, 1, 8)]
    let m (pull : Bool) : KStored := ⟨⟨0, none, ⟨1, 0, 1, 0, 0, 0, pull, 0, 8, 0⟩, 4, if pull then [] else [1, 2, 3, 4, 5, 6, 7, 8]⟩, 3⟩
    let holdsMsg (pull : Bool) : State := (spad 64 rcv s).modKctx 0 0 (fun k => { k with unexp := [m pull] })
    let x := spad 64 snd s
    let broken := x.modKctx 0 0 (fun k => { k with broken := [((kPkg snd, kDie snd), 3)] })
    let on (o : Host.Outcome State Fault Refusal) (p : State → Strand → Bool) : Bool := after o (fun t => (t.strandOf 1).any (fun z => z.pc == 0x100004 && p t z))
    (s.die 0).key.recvs = [] ∧ (s.die 0).key.sends = [] ∧ s.crew.preempted = false ∧ kSpad rcv = true ∧ kSpad snd = true ∧ kHold snd = false ∧
    (∀ p : Bool, (holdsMsg p).kBad (holdsMsg p).crew false false rcv = none ∧ ((holdsMsg p).kctx 0 0).find (kValue rcv) (kMask rcv) = some (m p)) ∧
    (m false).msg.payload.length = (m false).msg.hdr.length.toNat ∧ x.kBad x.crew true false snd = none ∧ assoc (kPkg snd, kDie snd) (x.kctx 0 0).broken = none ∧
    (∀ i ∈ [Instr.kpost false 20 6, .kpull false 20 6],
      on (exec i (holdsMsg false)) (fun t z => z.rdS 20 == 0 && (t.kctx 0 0).unexp == [] && (t.crewOf 2).any (fun k => k.spBytes 0 8 == [1, 2, 3, 4, 5, 6, 7, 8])) ∧
      on (exec i (holdsMsg true)) (fun t _ => t.net.any (fun f => f.dst == .die 1))) ∧
    on (exec (.kpull false 20 6) (spad 64 rcv s)) (fun t z => z.rdS 20 == 8 && (t.crewOf 2).any (fun k => k.spBytes 256 16 == List.replicate 12 0 ++ [8, 0, 0, 0])) ∧
    on (exec (.ksend false 20 6) x) (fun t _ => (t.die 0).key.sends.any (fun y => y.stage == 1 && y.send.length == 8 && y.hdr.any (fun h => h.seq == 0 && h.jobkey == 1))) ∧
    on (exec (.ksend false 20 6) broken) (fun t z => (t.die 0).key.sends == [] && z.rdS 20 == statusWord 0 3 0x08 1) ∧
    on (exec (.kpostLt false 6 7) (spad 64 rcv s)) (fun t _ => (t.kctx 0 0).posted.length == 1) ∧
    on (exec (.kpullLt false 6 7) (spad 64 rcv s)) (fun t _ => (t.kctx 0 0).posted.length == 0) := by decide +kernel

/-- The matching events of a `kprobe` and of a `kcancel`: what they look for is there or is not (R274). -/
theorem witness_KeywayAsks : let rcv := desc [(8, 4, 2), (12, 4, 1), (16, 4, 1), (20, 4, 1), (40, 1, 4), (41, 1, 8), (44, 4, 256), (56, 8, 2 ^ 59 - 1)]
    let m : KStored := ⟨⟨0, none, ⟨1, 0, 1, 0, 0, 0, false, 0, 8, 0⟩, 4, [1, 2, 3, 4, 5, 6, 7, 8]⟩, 3⟩
    let b := foc (fun f => { f with busy := [(20, 40)], s := f.s.set 20 5 }) (st.modKctx 0 0 (fun k => { k with w0 := 0x8000000000000001, bound := some 2 }))
    let r : Recv := ⟨6, 2, 0, 0, false, rcv, 0, .token 77, 0, cursor 6 0, none, [], [], none, none, none, false⟩
    let s := b.putBack
    let full := (s.modKctx 0 0 (fun k => { k with unexp := [m], posted := [6] })).modKey 0 (fun y => { y with recvs := [r] })
    let probe : KAsk := ⟨40, 2, 0, 128, some (kValue rcv, kMask rcv)⟩
    let cancel : KAsk := ⟨40, 2, 0, 256, none⟩
    let told (o : Host.Outcome State Fault Refusal) (v : Word) (p : State → Bool) : Bool := after o (fun t => p t && (t.die 0).key.asks == [] && (t.strandOf 1).any (fun z => z.rdS 20 == v && z.busy == []))
    s.focused = false ∧ (s.crewOf 2).any (fun k => !k.preempted) ∧ (s.strandOf 1).any (fun z => z.state != .done && z.busy == [(20, 40)]) ∧ (full.kctx 0 0).bound = some 2 ∧
    (s.kctx 0 0).find (kValue rcv) (kMask rcv) = none ∧ (full.kctx 0 0).find (kValue rcv) (kMask rcv) = some m ∧ s.postedAt 0 0 256 = none ∧ full.postedAt 0 0 256 = some r ∧
    told ((s.handAsk 0 probe).runTurn (.keyway 0)) 0 (fun _ => true) ∧ told ((s.handAsk 0 cancel).runTurn (.keyway 0)) 0 (fun _ => true) ∧
    told ((full.handAsk 0 probe).runTurn (.keyway 0)) 1 (fun t => (t.kctx 0 0).unexp == [m] && (t.crewOf 2).any (fun k => k.spBytes 136 8 == [8, 0, 0, 0, 0, 0, 0, 0])) ∧
    told ((full.handAsk 0 cancel).runTurn (.keyway 0)) 1 (fun t => (t.kctx 0 0).posted == [] && (t.die 0).key.recvs == []) := by decide +kernel

/-! ### Events: the host, the service OS, the device -/

/-- Nobody in hand, and die 0 takes requests. -/
def ev : State := st.putBack.modDie 0 (fun d => { d with ready := true })
/-- With a word in memory. -/
def word (a v : Nat) (s : State) : State := s.setMemSector (a / 16) (sectorMask (a % 16) 8) (placeBytes a (leBytes 8 v))
/-- With tables at 0x200000 to 0x22FFFF for the first pages. -/
def tables (s : State) : State := (word 0x210000 0x220001 (word 0x200000 0x210001 s)).modCtl 0 (fun c => { c with root := 0x200000 })
/-- The responses of die 0, tag and status. -/
def said (t : State) : List (BitVec 32 × Nat) := (t.die 0).face.responses.map (fun r => (r.tag, r.status))

theorem witness_HostRequests : let s := tables ev
    let c : HostCopy := ⟨5, 0x300000, 0x400000, 16, 0, false, none, none, none, 9, 0, none⟩
    s.focused = false ∧ (s.die 0).present = true ∧ (s.die 0).ready = true ∧ (s.die 0).face.takes = true ∧ (s.die 0).key.sends = [] ∧ (s.die 0).key.recvs = [] ∧
    s.subBusy 0 3 = false ∧ s.ownRange 0 0x300000 16 = true ∧ mapOk 0x10000 1 0 = true ∧ mapOk 0x20000000 1 1 = true ∧
    s.entryNow 0 2 0x10000 = some 0x220008 ∧ s.entryNow 0 1 0x20000000 = some 0x210008 ∧ (0x50000 : Word).toNat % 65536 = 0 ∧
    (s.exports.find? (fun y => y.handle == 7)) = none ∧ inHost 0x400000000000 = true ∧
    after (exec (.copyRequestComplete 0 5) (word 0x300000 77 (s.modDie 0 (fun d => { d with copies := [c] })))) (fun t => said t == [(9, 0)] && t.memByte 0x400000 == 77) ∧
    after (exec (.copyRequestComplete 0 5) (s.modDie 0 (fun d => { d with copies := [c] }))) (fun t => (t.die 0).copies == []) := by decide +kernel
/-- A COPY of 24 bytes: its first event moves a sector, its second the rest and answers; bytes of a sector in a cache wait for their home. -/
theorem test_copy_steps : let c : HostCopy := ⟨5, 0x300000, 0x400000, 24, 0, false, none, none, none, 9, 0, none⟩
    let with_ (c : HostCopy) (s : State) : State := s.modDie 0 (fun d => { d with copies := [c] })
    let s := word 0x300010 88 (word 0x300000 77 ev)
    let away := s.modHome (s.homeOf 0x300000) (fun q => q.setHold 0x30000 (3, false))
    s.homeOpen 0x30000 = true ∧ away.homeOpen 0x30000 = false ∧ c.chunk = 16 ∧
    after (exec (.copyRequestComplete 0 5) (with_ c s)) (fun t => said t == [] && t.memByte 0x400000 == 77 && t.memByte 0x400010 == 0 && (t.die 0).copies == [{ c with pos := 16 }]) ∧
    after (exec (.copyRequestComplete 0 5) (with_ { c with pos := 16 } s)) (fun t => said t == [(9, 0)] && t.memByte 0x400010 == 88) ∧
    after (exec (.copyRequestComplete 0 5) (with_ { c with pos := 24 } s)) (fun t => said t == [(9, 0)]) ∧
    after (exec (.copyRequestComplete 0 5) (with_ c away)) (fun t => said t == [] && (t.die 0).copies.length == 1 && t.memByte 0x400000 == 0) := by decide +kernel
theorem test_requests : let s := tables ev
    after (exec (.launch 0 3 1 [] [(8, 5), (0, 0)]) s) (fun t => said t == [(1, 0)] && (t.queue 0 3).length == 1) ∧
    after (exec (.launch 0 3 1 [] [(9, 5)]) s) (fun t => said t == [(1, 1)] && t.queue 0 3 == []) ∧
    after (exec (.map 0 1 0x10000 0x50000 0xF 1 0) s) (fun t => t.readWord 0 0x220008 8 == 0x5000F) ∧
    after (exec (.map 0 1 0x10001 0x50000 0xF 1 0) s) (fun t => said t == [(1, 1)]) ∧
    after (exec (.unmap 0 1 0x10000 1 0) (word 0x220008 0x5000F s)) (fun t => t.readWord 0 0x220008 8 == 0x5000E) := by decide +kernel
theorem test_requests2 : let s := ev
    after (exec (.reset 0 1 64) s) (fun t => said t == [(1, 1)]) ∧ after (exec (.reset 0 1 63) s) (fun t => said t == [(1, 0)]) ∧
    after (exec (.filegrant 0 1 4 3 0x400000000000 4096) s) (fun t => said t == [(1, 0)] && (t.extent 0 4).isSome) ∧
    after (exec (.importReq 0 1 7 0x10000) s) (fun t => said t == [(1, 1)]) ∧ after (exec (.signal 0 3 1 4 1 0) s) (fun t => said t == [(1, 1)]) ∧
    after (exec (.query (.die 0) 1) s) (fun t => said t == [(1, 0)] && (t.die 0).face.queries.any (fun q => q.2.length == 512)) ∧
    after (exec (.query (.die 1) 1) s) (fun t => t == s) := by decide +kernel
/-- EXPORT of one page and IMPORT of a known handle; SIGNAL of a counter whose leaf is known. -/
theorem witness_HostRequests2 : let s := word 0x220008 0x5000F (tables ev)
    let x : Export := ⟨7, 1, [0x5000F], false⟩
    (match s.pageLeaves 0 0x10000 1 with | .ok ws => ws == [0x5000F] && ws.all (fun w => !pteFab w && !bit w 11) | .error _ => false) = true ∧
    ({ s with exports := [x] } : State).exports.find? (fun y => y.handle == 7) = some x ∧ s.entryNow 0 2 0x30000 = some 0x220018 ∧
    (s.die 0).ctl.partition.getLsbD 1 = true ∧
    (∀ n ∈ below 32, n ≠ 3 → ((s.entryNow 0 2 (65536 * n)).all (fun e => !(bit (s.tableWord e) 8))) = true) ∧
    after (exec (.importReq 0 1 7 0x30000) { s with exports := [x] }) (fun t => t.readWord 0 0x220018 8 == peerLeaf 1 0x5000F) ∧
    after (exec (.importReq 0 1 7 0x30000) (({ s with exports := [x] } : State).modCtl 0 (fun c => { c with partition := 1 }))) (fun t => said t == [(1, 2)]) ∧
    after (exec (.signal 0 3 1 0x10008 5 1) (word 0x220008 0x5040F s)) (fun t => said t == [] && t.readSeen 0 0x50008 8 == 0 &&
      (t.die 0).copies.any (fun c => c.sig == some (.add, 5) && c.dst == 0x10008) && t.subBusy 0 3) ∧
    (s.dieCheck 0 .atomic 0x10008).2 = (s.dieCheck 0 .load 0x10008).2 ∧
    after (exec (.signal 0 3 1 0x10008 5 1) (owns 0x5000 0 s)) (fun t => said t == [(1, 0)] && (t.holdOf (.die 0) 0x5000).data == 0x50000000000000000) ∧
    after (exec (.signal 0 3 1 0x10008 5 1) s) (fun t => said t == [] && t.subBusy 0 3 && (t.die 0).copies.any (fun c => c.sig == some (.add, 5))) ∧
    (let c : HostCopy := ⟨5, 0x300000, 0x400000, 16, 0, false, none, none, some 4, 9, 0, none⟩
     let x : Extent := ⟨4, true, true, 0x400000000000, 4096, []⟩
     let w := ev.modDie 0 (fun d => { d with extents := [x], copies := [c] })
     c ∈ (w.die 0).copies ∧ (2 : BitVec 32).toNat ≤ 3 ∧ x.id = (4 : BitVec 32).toNat ∧
     after (exec (.filegrant 0 1 4 2 0 0) w) (fun t => (t.die 0).extents == [{ x with revoking := [1] }] && said t == [])) ∧
    (ev.carved 0x300000 16 = false) ∧ (ev.extent 0 4) = none := by decide +kernel

theorem witness_ManagementEvents : ev.focused = false ∧ ev.mgmt.takes = true ∧ ev.recovery = false ∧ (7 : BitVec 8).toNat < 8 ∧ (ev.die 7).present = true ∧
    (63 : BitVec 8).toNat < 64 ∧ (3 : Word).toNat < 4 ∧ (0 : Word).toNat % 2 ^ 16 = 0 ∧ 0 < ev.mgmt.free ∧ ev.window * 100000 ≤ ev.time ∧
    ({ ev with window := 1 } : State).time < 100000 ∧ (ev.die 0).rate = 38 ∧ ev.fwBusy = none ∧ (0x400000000000 : Nat) / 2 ^ 44 = 4 ∧
    after (exec (.fwupdate .mgmt 1 0x400000000000 20) ev) (fun t => t.fwImage == none && t.fwBusy == some (1, 0x400000000000, 20)) ∧
    (let f : State := { ev with fwBusy := some (1, 0x400000000000, 20) }
     let come : State := (f.modHome (.agent 0) (fun h => { h with hostHeld := [(0x40000000000, false), (0x40000000001, false)] })).setMemSector 0x40000000001 0xFFFF 0x55000000
     f.absent 0x400000000000 20 = [0x40000000000, 0x40000000001] ∧ after (step { f with turns := [.fwWritten] }) (fun u => u.fwBusy == f.fwBusy && u.fwImage == f.fwImage && u.hostReads.length == 2) ∧
     come.absent 0x400000000000 20 = [] ∧ after (step { come with turns := [.fwWritten] }) (fun u => u.fwBusy == none && u.fwImage == some (20, [(19, 0x55)]) &&
       u.mgmt.responses.map (fun r => (r.tag, r.status)) == [(1, 0)])) ∧
    after (exec (.tdispStop (.die 0)) (ev.modDie 0 (fun d => { d with face := { d.face with tdisp := .run } }))) (fun t => (t.die 0).face.tdisp == .configUnlocked) := by
  decide +kernel
theorem test_management : after (exec (.fwupdate (.die 0) 1 0 0) ev) (fun t => said t == [(1, 1)]) ∧
    after (exec (.brkset .mgmt 1 7 3 4 16 0x10000) ev) (fun t => (t.die 7).ctl.brk[3] == ⟨0x10000, 16, 4⟩) ∧
    after (exec (.lockInterfaceRequest (.die 0)) ev) (fun t => (t.die 0).face.tdisp == .configLocked && !(t.die 0).face.takes) ∧
    after (exec (.machine 0 1 0x40) ev) (fun t => t.crews == [] && t.mgmt.events.length == 1) ∧
    after (exec (.clockStepDown 0) ev) (fun t => (t.die 0).rate == 37) := by decide +kernel
/-- A reset of die 0 waits for every home, and for each home's acknowledgement (R218, R338). -/
theorem test_reset : after (exec (.functionLevelReset 0) ev) (fun t => !(t.die 0).ready && (t.die 0).resetAcks.length == 16 && t.crews == [] && t.memWf) ∧
    (let s := ev.modDie 0 (fun d => { d with ready := false, resetAcks := [.agent 2] })
     (∀ f ∈ s.net, f.dst ≠ .home (.agent 2)) ∧ Home.agent 2 ∈ (s.die 0).resetAcks ∧ (∀ y ∈ (s.die 0).resetAcks, y = .agent 2)) ∧
    after (exec (.resetTokenAck 0 (.agent 2)) (ev.modDie 0 (fun d => { d with ready := false, resetAcks := [.agent 2, .agent 3] })))
      (fun t => !(t.die 0).ready && (t.die 0).resetAcks == [.agent 3]) := by decide +kernel
/-- A sector's home is free: what reaches it is performed at once. -/
def free (s : State) (sec : Nat) : Bool :=
  let h := s.homeOf (16 * sec)
  ((s.home h).hold sec).1 == 16 && !(s.home h).queued [sec] && !(s.home h).recovering (sec / 8) && s.homeReady h sec true && (s.home h).hasp.active.isNone
theorem free_spec {s : State} {sec : Nat} (h : free s sec = true) : s.HomeFree sec := by
  simp only [free, Bool.and_eq_true, beq_iff_eq, Bool.not_eq_true', Option.isNone_iff_eq_none] at h
  exact ⟨h.1.1.1.1, h.1.1.1.2, h.1.1.2, h.1.2, h.2⟩
/-- Writes of the device's own agents: their homes free, or without the tokens (R205). -/
theorem witness_DevWrote : let away := ev.modHome (ev.homeOf 0x300000) (fun q => q.setHold 0x30000 (3, false))
    free ev 0x30000 = true ∧ free ev 0x30001 = true ∧ ((away.home (away.homeOf (16 * (0x300004 / 16)))).hold 0x30000).1 ≠ 16 ∧
    (ev.devWrite 0 0x30000F [5, 6]).memByte 0x300010 = 6 ∧
    (let t := away.devWrite 0 0x300004 [5]
     t.memByte 0x300004 = 0 ∧ (t.home (away.homeOf 0x300000)).queue.any (fun x => x.1 == 0x30000 && match x.2 with | .hst m => m.mask == 16 | _ => false) = true) := by decide +kernel

theorem witness_ServiceWrites : ev.focused = false ∧ (0x200000 : Word).toNat % 65536 = 0 ∧ ev.paOk 0x200000 = true ∧ ev.paOk 0x3000000000 = false ∧
    (ev.modKctx 0 0 (fun k => { k with bound := some 2 }) |>.kctx 0 0).bound.isSome = true ∧ (ev.kctx 0 0).bound = none ∧
    (0x8000000200000001 : Word).toNat / 2 ^ 40 = 2 ^ 23 ∧ ev.ownRange 0 (4160 * 4 * 64) (4160 * 4) = true ∧ ev.ownRange 0 0x200000 postedArea = true ∧
    ev.ringOk 0x200000 (64 * 16) = true ∧ (16 : BitVec 8).toNat ≤ 16 ∧ (3 : BitVec 8).toNat < 4 ∧ (ev.die 0).ctl.flt.full = false ∧
    (ev.die 0).ctl.trap.full = false ∧ (ev.die 0).invals = [] ∧ (ev.die 0).face.held = [] ∧
    (let s := (foc (fun f => { f with state := .parked, park := some (.trap none), cur := .trap 5 }) st).putBack.modCtl 0 (fun c => { c with trapWait := [1], fltWait := [st.recordOf 1 4 0] })
     (s.die 0).ctl.trapWait = [1] ∧ (s.strandOf 1).isSome ∧ ((s.strandOf 1).bind (fun x => s.crewOf x.crew)).isSome ∧
     after (exec (.trapRingWrite 0) s) (fun t => (t.die 0).ctl.trapWait == [] && (t.die 0).ctl.trap.tail == 1) ∧
     after (exec (.faultRingWrite 0) s) (fun t => (t.die 0).ctl.fltWait == [] && t.memByte 0 == 1 && t.memByte 1 == 4)) := by decide +kernel
/-- The registers that tables select: what fits is written, the rest leaves the register (R242, R277, R278, R282, R334). -/
theorem witness_RegisterWrites : ev.paOk 0x310000 = true ∧ ev.ringOk 0x300000 (64 * 2 ^ 3) = true ∧
    after (exec (.registerWrite (.keytab 0 3 7)) ev) (fun t => lookD 0 3 (t.die 0).ctl.keytab == 7) ∧
    after (exec (.registerWrite (.mcgrp 0 1 2 0x8000000000100000)) ev) (fun t => lookD 0 66 (t.die 0).ctl.mcgrp == 0x8000000000100000) ∧
    after (exec (.registerWrite (.mcgrp 0 1 2 0x8000000000100001)) ev) (fun t => t == ev) ∧ after (exec (.registerWrite (.partition 0 5)) ev) (fun t => (t.die 0).ctl.partition == 5) ∧
    after (exec (.registerWrite (.dqcfg 0 3 0x300000 3 0x310000)) ev) (fun t => (t.die 0).ctl.dq[(3 : QueueId)] == ⟨0x300000, 3, 0x310000, 0, 0, []⟩) ∧
    after (exec (.registerWrite (.dqcfg 0 3 0x300000 3 0x310001)) ev) (fun t => t == ev) ∧ after (exec (.registerWrite (.dqcfg 0 3 0 0 0)) ev) (fun t => (t.die 0).ctl.dq[(3 : QueueId)].log == 0) ∧
    after (exec (.registerWrite (.portmemb 0 2 0x8000000000000007)) ev) (fun t => t.ports[(0 : PortId)].member 7) ∧ after (exec (.registerWrite (.portmemb 0 2 0x100000007)) ev) (fun t => t == ev) ∧
    after (exec (.registerWrite (.fabwin 9 0x8000000000100006)) ev) (fun t => lookD 0 9 t.fabwin == 0x8000000000100006) ∧ after (exec (.registerWrite (.fabwin 9 8)) ev) (fun t => t == ev) ∧
    after (exec (.registerWrite (.stkpool 0 3 0x10001 0x10000)) ev) (fun t => t == ev) := by decide +kernel
theorem test_service : after (exec (.clkmodeWrite 0 0x2600) ev) (fun t => (t.die 0).ctl.clkNext == 0x2600) ∧ after (exec (.clkmodeWrite 0 0x2700) ev) (fun t => t == ev) ∧
    after (exec (.cohmodeWrite 0 0x280A) ev) (fun t => (t.die 0).ctl.cohmode == 0x280A) ∧ after (exec (.cohmodeWrite 0 0x2809) ev) (fun t => t == ev) ∧
    after (exec (.rootWrite 0 0x10001) ev) (fun t => t == ev) ∧ after (exec (.pageTableStore 0x200008 5) ev) (fun t => t.memByte 0x200008 == 5) ∧
    (match exec (.pageTableStore 0x3000000000 5) ev with | .fault (.noSuchPhysicalAddress a) => a == 0x3000000000 | _ => false) = true ∧
    after (exec (.kctxWrite 0 0 0x8000000200000001 0x3C0000 0x200000) ev) (fun t => (t.kctx 0 0).configured == (0x3C0000 % 16640 == 0)) := by decide +kernel

/-! ### Events of a core and its engines -/

/-- The strand of `st` on its own, out of hand, changed. -/
def out (f : Strand → Strand) : State := (foc f st).putBack
/-- The crew of `st` with its strand out of hand, changed. -/
def outCrew (f : Crew → Crew) : State := (crw f st).putBack

theorem witness_SlotFill : let s : State := { out (fun f => { f with state := .ready }) with
      strands := [{ st.focus with state := .ready }, { st.focus with uid := 9, state := .ready, joinSeq := 7 }] }
    s.focused = false ∧ (∃ x ∈ s.strands, s.strandOf x.uid = some x ∧ s.onQuarter 0 0 0 x = true ∧ x.state = .ready ∧ s.stopped x = false ∧ x.cls ≤ 3 ∧
      ((s.strands.filter (s.onQuarter 0 0 0)).filter (fun y => y.state == .issuing)).length < 2 ∧
      (∀ y ∈ s.strands, s.onQuarter 0 0 0 y = true → y.state = .ready → s.stopped y = false → y ≠ x →
        y.uid ≠ x.uid ∧ (x.cls < y.cls ∨ (x.cls = y.cls ∧ x.joinSeq < y.joinSeq)))) ∧
    after (exec (.slotFill 0 0 0) s) (fun t => (t.strandOf 1).any (fun y => y.state == .issuing) && (t.strandOf 9).any (fun y => y.state == .ready && y.passes == 1)) ∧
    (let m : State := { s with strands := [{ st.focus with state := .ready, run := 5, began := 3 }] }
     (m.strandOf 1).any (fun x => x.run == 5 && m.onQuarter 0 0 0 x && !m.stopped x && decide (x.cls ≤ 3)) = true ∧
     after (exec (.slotFill 0 0 0) m) (fun t => (t.strandOf 1).any (fun y => y.state == .issuing && y.run == 5 && y.began == 3))) := by
  decide +kernel
theorem witness_WaitcEvents : let s := (foc (fun f => { f with state := .parked, cur := .waitc 4 5 6, park := some (.wait (.waitc 10000 (some 1) 0x10000 true 0)) })
      (regs [(5, 0x100000), (6, 7)] (owns 0x10000 8 st))).putBack
    let eq := s.modStrand 1 (fun x => { x with s := x.s.set 6 8 })
    s.focused = false ∧ (s.take 1).any (fun a => a.crew.preempted == false && match a.checkElems .load 8 [(0, ((a.rdS 5).toNat))] with
      | (b, [e], none) => ((b.setFocus { b.focus with state := .issuing, park := none }).waitcRead e).2 == some 8
      | _ => false) ∧
    after (exec (.waitcWake 1) s) (fun t => (t.strandOf 1).any (fun x => x.rdS 4 == 1 && x.pc == 0x100004)) ∧
    after (exec (.waitcReread 1) { s with time := 1 }) (fun t => (t.strandOf 1).any (fun x => x.rdS 4 == 1)) ∧
    after (exec (.waitcTimeout 1) { eq with time := 10000 }) (fun t => (t.strandOf 1).any (fun x => x.rdS 4 == 0 && x.pc == 0x100004)) ∧
    after (exec (.waitcTimeout 1) { eq with time := 9999 }) (fun t => (t.strandOf 1).any (fun x => x.state == .parked)) ∧
    (eq.strandOf 1).any (fun x => x.noLook) = true ∧ after (exec (.waitcWake 1) { eq with time := 500 }) (fun t => (t.strandOf 1).any (fun x =>
      match x.park with | some (.wait (.waitc 10000 _ 0x10000 false 500)) => x.pc == 0x100000 | _ => false)) := by decide +kernel

/-- A launch record of bytes: fields as R30 lays them out. -/
def record (h nx ny nz prio args counter extent : Nat) : List Byte :=
  leBytes 8 h ++ leBytes 4 nx ++ leBytes 4 ny ++ leBytes 4 nz ++ leBytes 4 prio ++ leBytes 8 args ++ leBytes 8 counter ++ leBytes 8 extent ++ leBytes 16 0
/-- An entry of a queue with that record. -/
def entry (raw : List Byte) (h : Option Header) : Entry := ⟨50, raw, [], 3, false, h, some 0, some 0, 0, none⟩
/-- A kernel header of one strand of 16 lanes. -/
def small : Header := { Header.blank with entry := 64, lanes := 16, vregs := 8, strands := 1, scratch := 256 }
/-- Die 0 with an entry at the head of queue 3. -/
def queued (e : Entry) : State := (word 0x220080 0x10003F (tables ev)).modPort 0 (fun p => { p with queues := p.queues.set 3 [e], budget := 900000 })

/-- A ready launch of 40 threads in queue 3. -/
def ready : Entry := entry (record 0x100000 40 1 1 2 0 0 40) (some small)

theorem witness_QueueEvents : let e := ready
    let s : State := { queued e with time := 250000 }
    let w := owns 0x10000 8 (queued { e with waits := [⟨0x100000, 8, false, false⟩] })
    s.queue 0 3 = [e] ∧ e.passedAt = some 0 ∧ 0 + 100000 ≤ s.time ∧ (s.die 0).port.reserved = none ∧
    (match w.dieCheck 0 .load 0x100000 with
      | (u, .ok l) => !pteFab l.pte && ptePlace l.pte == 0 && (u.farOf 0 (e.id, 0)).isNone && leafPa l 0x100000 == 0x100000 && (u.holdOf (.die 0) 0x10000).known &&
        (u.pendings 0).isEmpty
      | _ => false) = true ∧
    after (exec (.priorityAging 0 3) s) (fun t => (t.queue 0 3).any (fun e => e.aged == 2)) ∧
    after (exec (.passoverTimeout 0 3) s) (fun t => (t.die 0).port.reserved == some 3) ∧
    after (exec (.waitMet 0 3) w) (fun t => (t.queue 0 3).any (fun e => e.waits == [⟨0x100000, 8, true, true⟩])) := by decide +kernel
theorem witness_Admission : let s := queued ready
    let p := allOfQueues.foldl (fun s q => s.prepare 0 q) s
    p.undecided 0 = false ∧ (leastBy (p.headKey 0) (p.tryable 0)).any (fun x => x.h.coop == false && match p.admitHead 0 x with | .done _ => true | _ => false) = true := by decide +kernel
/-- The executable page's sectors that a host agent holds whole are asked for before the first crew of a launch is admitted (R47; log 93). -/
theorem witness_ImageAsk : let s := (queued ready).modCache (.agent 0) (fun c => c.setHold ⟨0x10005, 16, true, false, true, false, 6⟩)
    let p := allOfQueues.foldl (fun s q => s.prepare 0 q) s
    p.undecided 0 = false ∧ (p.tryable 0).any (fun x => x.e.grid.isNone) = true ∧ p.imageMissing 0 = [0x10005] ∧
    after (exec (.crewAdmission 0) s) (fun t => t.crews.length == s.crews.length && (t.cache (.die 0)).reqs.map (fun r => r.sec) == [0x10005]) := by decide +kernel
theorem test_admission : after (exec (.crewAdmission 0) (queued ready)) (fun t =>
    (t.crewOf ev.fresh).any (fun y => y.die == 0 && y.num == 0) && t.strands.any (fun x => x.crew == ev.fresh && x.live == 0xFFFF)) = true := by decide +kernel
/-- What the checks of R343 do with the head before: a record with `nx` 0 is rejected BADLAUNCH. -/
theorem test_badLaunch : after (exec (.crewAdmission 0) (queued { entry (record 0x100000 0 1 1 0 0 0 0) none with readyAt := none, passedAt := none }))
    (fun t => t.queue 0 3 == [] && (t.die 0).port.ends.any (fun e => e.status == 2)) := by decide +kernel
theorem witness_LaunchEvent : let e : Ending := ⟨4, 3, 9, 0, none, 0, 0, 0, 0, none⟩
    let s := ev.modPort 0 (fun p => { p with ends := [e] })
    (s.die 0).port.ends[0]? = some e ∧ (s.die 0).port.ends.find? (fun x => x.id == e.id) = some e ∧ s.launchPending 0 e.grid = false ∧ (s.die 0).face.free ≠ 0 ∧
    after (exec (.launchEvent 0 0) s) (fun t => (t.die 0).port.ends == [] && (t.die 0).face.events.any (fun b => field b 4 4 == 9 || field b 8 4 == 9)) := by decide +kernel
theorem witness_DeviceSlot : let g : DevQueue := ⟨0x300000, 2, 0x310000, 1, 2, [1]⟩
    let s := (ev.modDq 0 3 (fun _ => g)).devWrite 0 0x300040 (record 0x100000 40 1 1 2 0 0 40)
    (s.die 0).ctl.dq[(3 : QueueId)] = g ∧ g.log ≠ 0 ∧ g.head < g.tail ∧ g.head ∈ g.filled ∧
    after (exec (.deviceSlotConsume 0 3) s) (fun t => (t.queue 0 3).any (fun e => e.raw == record 0x100000 40 1 1 2 0 0 40 && e.device) &&
      t.readWord 0 0x310000 8 == 2) ∧
    (let w := s.modHome (s.homeOf 0x300040) (fun q => q.setHold 0x30004 (3, false))
     w.homeOpen 0x30004 = false ∧ after (exec (.deviceSlotConsume 0 3) w) (fun t => t.queue 0 3 == [] && (t.die 0).ctl.dq[(3 : QueueId)] == g)) := by decide +kernel
/-- The array's turn and its end; `mzero` of accumulator 0. -/
theorem witness_Array : let s := State.modGrid (outCrew (fun c => { c with seq := { c.seq with state := .running, pc := 0x100000, start := 0x100000 } })) 0 0 (fun g => ({ g with image := [(0x100003, 0x50)] } : Grid))
    let a : ArrayOp := ⟨2, [.spad 8 5, .tile 1 0 7], [], 0⟩
    let w := s.modCore 0 0 (fun k => { k with array := some a })
    (s.core 0 0).array = none ∧ ((s.tileOrder 0 0).findSome? (fun u => s.readyTile u)).any (fun r => r.2 == .mzero 0 && match tileEffect r.1.crew r.2 with
      | some (.ok _ _) => true
      | _ => false) ∧
    (w.core 0 0).array = some a ∧ ((w.crewOf 2).any (fun k => k.seq.state == .running)) ∧
    after (exec (.tileOpComplete 0 0) w) (fun t => (t.core 0 0).array == none && (t.crewOf 2).any (fun y => y.spByte 8 == 5 && y.tileWord 1 0 == 7 && y.seq.pc == 0x100004)) := by
  decide +kernel
theorem witness_CrewEnds : let r := st.recordOf 4 0 0x55
    let s := out (fun f => { f with state := .parked, park := some .fault, faulted := some (r, true) })
    let d := out (fun f => { f with state := .done })
    (s.crewOf 2).any (fun k => s.endingRecord k == some r && (s.die k.die).ctl.fltWait.contains r == false) ∧
    after (exec (.crewEnd 2) s) (fun t => (t.crewOf 2).any (fun y => y.ended == some r) && t.strands.all (fun x => x.state == .done)) ∧
    (d.crewOf 2).any (fun k => d.crewDone k) ∧ after (exec (.crewComplete 2) d) (fun t => t.crews == [] && t.strands == [] && (t.die 0).port.ends.any (fun e => e.status == 0)) := by
  decide +kernel
/-- A crew with little state, whose image is 2304 bytes. -/
def sparse : State := (crw (fun c => { c with hdr := { c.hdr with scratch := 64, vregs := 8 }, tiles := [] }) (foc (fun f => { f with state := .ready }) st)).putBack
/-- Memory for its image that is 64-byte aligned, physical and in no other use (R286). -/
theorem witness_ImageFits : (sparse.crewOf 2).any (fun k => sparse.imageFits k 0x500000) = true := by
  have h : (sparse.crewOf 2).any (fun k => (sparse.contextImage k).length == 2304) = true := by decide +kernel
  have g : (sparse.paOk 0x500000 && sparse.paOk (0x500000 + 2304 - 1) && !sparse.used 0x500000 2304) = true := by decide +kernel
  simp only [Option.any_eq_true, beq_iff_eq] at h
  obtain ⟨k, hk, hl⟩ := h
  rw [hk, Option.any_some]
  simp only [State.imageFits, hl]
  simpa [Bool.and_assoc] using g
theorem witness_Preempt : let r := out (fun f => { f with state := .ready })
    let p := outCrew (fun c => { c with preempted := true })
    let ask (s : State) : State := s.modCrew 2 (fun k => { k with stopping := some 0x500000 })
    let q := out (fun f => { f with state := .ready })
    let first := (p.modCrew 2 (fun k => { k with rec_ := { k.rec_ with prio := 3 } })).modPort 0 (fun x => { x with queues := x.queues.set 3 [entry (record 0x100000 1 1 1 0 0 0 0) none] })
    q.focused = false ∧ (first.crewOf 2).any (fun k => k.preempted && first.headFirst k.die k.rec_.prio) ∧
    after (exec (.crewResume 2 5) first) (fun t => t == first) ∧ (p.crewOf 2).any (fun k => !(p.headFirst k.die k.rec_.prio)) ∧ ((ask r).crewOf 2).any (fun k => (ask r).halting k && (ask r).canSave k && !k.preempted) ∧
    (let b := out (fun f => { f with run := 3 })
     ((ask b).crewOf 2).any (fun k => !(ask b).canSave k)) ∧
    (p.crewOf 2).any (fun k => k.preempted && !k.hdr.coop && (p.resumeCrew k 5).isSome) ∧
    after (exec (.crewResume 2 5) p) (fun t => (t.crewOf 2).any (fun y => !y.preempted && y.core == 5)) ∧
    (let k : Crew := { st.crew with hdr := { st.crew.hdr with coop := true }, preempted := true }
     let two (other : Bool) : State := { p with crews := [k, { k with uid := 7, num := 1, preempted := other }] }
     (∀ b : Bool, ((two b).crewOf 2).any (fun k => k.preempted && k.hdr.coop) = true) ∧
     (((two true).crewsOf 0 0).filter (fun x => x.uid != 2)).all (fun y => y.preempted) = true ∧
     ((two true).crewOf 2).any (fun k => (((two true).resumeCrew k 5).bind (fun u => u.resumeRest 0 (((two true).crewsOf 0 0).filter (fun x => x.uid != 2)))).isSome) = true ∧
     after (exec (.crewResume 2 5) (two true)) (fun t => t.crews.all (fun y => !y.preempted)) ∧ after (exec (.crewResume 2 5) (two false)) (fun t => t == two false)) := by
  decide +kernel
theorem witness_EngineEvents : let o : CopyOp := { cursor 5 0 with done := .token 77, begun := false }
    let r := st.engineRec 5 0 0 0x123
    let busy := foc (fun f => { f with busy := [(20, 77)] }) st
    let bad := (crw (fun c => { c with copies := [o] }) busy).putBack
    let stop := (crw (fun c => { c with copies := [{ o with stopped := some r, next := 3 }] }) busy).putBack
    let x : Stream := ⟨1, [], true, 1, 0⟩
    let q := out (fun f => { f with cur := .cpy false 20 6, state := .parked, park := some (.wait .copySlot) })
    ((outCrew (fun c => { c with bin := { c.bin with queue := [.init 4 7] } })).crewOf 2).any (fun k => k.bin.held == [] && k.bin.queue == [.init 4 7]) ∧
    sCount [] ≤ 1 ∧ after (exec (.streamLineRequest 2 1) (outCrew (fun c => { c with streams := [x] }))) (fun t => (t.crewOf 2).any (fun y => y.streams == [{ x with running := false }])) ∧
    after (exec (.binningComplete 2) (outCrew (fun c => { c with bin := { c.bin with queue := [.init 4 7] } }))) (fun t => (t.crewOf 2).any (fun y => y.bin.n == 7 && y.bin.queue == [])) ∧
    after (exec (.copyResume 2 5) stop) (fun t => (t.crewOf 2).any (fun y => y.copies.all (fun o => o.stopped == none))) ∧
    (q.oldestCopy 0 0).any (fun x => q.strandOf x.uid == some x && x.crew == 2 && (copyForm x.cur).isSome && (q.take x.uid).any (fun a => decide (a.coreCopies < 32))) ∧
    after (exec (.copyAccept 0 0) q) (fun t => (t.crewOf 2).any (fun y => y.copies.length == 1) && (t.strandOf 1).any (fun z => z.pc == 0x100004)) ∧
    (bad.crewOf 2).any (fun k => (dBad k .cpy []).isSome) ∧ after (exec (.copyComplete 2 5) bad) (fun t => (t.crewOf 2).any (fun y => y.copies == []) &&
      (t.strandOf 1).any (fun z => z.busy == [] && z.rdS 20 != 0)) ∧
    after (exec (.copyFaultDecline 2 5) stop) (fun t => (t.crewOf 2).any (fun y => y.copies == []) && (t.strandOf 1).any (fun z => z.rdS 20 == statusWord 3 0 5 1)) ∧
    (let f := { r with code := 0x04 }
     let l := (crw (fun c => { c with copies := [{ o with done := .latch 64, stopped := some f }] }) st).putBack
     f.code ≠ 0x05 ∧ ((l.faultRingBusy 0) = false) ∧ after (exec (.copyComplete 2 5) l) (fun t => (t.crewOf 2).any (fun y => y.ended == some f))) := by
  decide +kernel
/-- A stream's next element: its eight sectors are asked for; past a page that is not there it stops; with its run-ahead used it waits. -/
theorem witness_StreamLines : let d (base ahead : Nat) : Desc := desc [(0, 8, base), (8, 4, 4), (24, 4, 128), (40, 1, 4), (42, 2, ahead)]
    let x (base ahead next : Nat) : Stream := ⟨1, d base ahead, true, next, 0⟩
    let s (x : Stream) : State := outCrew (fun c => { c with streams := [x] })
    sCount (d 0x100000 2) = 4 ∧ (sLines (x 0x100000 2 0) 1).length = 1 ∧ (sLines (x 0x100000 2 2) 3).length = 3 ∧ elemLines (d 0x100000 2) 0 = [0x100000] ∧
    ((s (x 0x100000 2 0)).takeCrew 2).any (fun a => !a.crew.preempted && match a.translate 0 0 .load 0x100000 with
      | (u, .ok l) => !pteFab l.pte && decide (ptePlace l.pte < 2) && leafPa l 0x100000 == 0x100000 && (below 8).all (fun i => (u.holdOf (.die 0) (0x100000 / 16 + i)).count == 0)
      | _ => false) = true ∧
    after (exec (.streamLineRequest 2 1) (s (x 0x100000 2 0))) (fun t => (below 8).all (fun i => (t.cache (.die 0)).reqs.any (fun r => r.sec == 0x10000 + i)) &&
      (t.crewOf 2).any (fun y => y.streams == [x 0x100000 2 1])) ∧
    ((s (x (2 ^ 55) 2 0)).takeCrew 2).any (fun a => (a.warmLines true (elemLines (d (2 ^ 55) 2) 0)).2 == false) = true ∧
    after (exec (.streamLineRequest 2 1) (s (x (2 ^ 55) 2 0))) (fun t => (t.crewOf 2).any (fun y => y.streams == [{ x (2 ^ 55) 2 0 with running := false }])) ∧
    after (exec (.streamLineRequest 2 1) (s (x 0x100000 2 2))) (fun t => t == s (x 0x100000 2 2)) := by decide +kernel
/-- A copy of eight bytes out of memory, and its end. -/
theorem witness_CopyComplete : let d := desc [(0, 8, 0x100000), (8, 8, 256), (16, 4, 2), (32, 4, 4), (48, 1, 4)]
    let o : CopyOp := { cursor 5 0 with desc := d, done := .token 77 }
    let s := (crw (fun c => { c with copies := [o] }) (owns 0x10000 0x0807060504030201 st)).putBack
    (s.takeCrew 2).any (fun a => match a.copyRun o (dCount o.desc - o.next) with
      | ((_, _, .val 0), _) => true
      | _ => false) ∧
    after (exec (.copyComplete 2 5) s) (fun t => (t.crewOf 2).any (fun y => y.copies == [] && y.spBytes 256 8 == [1, 2, 3, 4, 5, 6, 7, 8])) := by decide +kernel

/-! ### Events of the token protocol -/

/-- Die 0's cache, `n` tokens of sector 0x10000 with or without the owner token. -/
def holds (n : Nat) (own : Bool) (s : State) : State := s.modCache (.die 0) (fun c => c.setHold ⟨0x10000, n, own, own, own, false, 5⟩)
/-- A message to a holder on its way. -/
def sent (to_ : Holder) (m : Msg) (s : State) : State := { s with net := [⟨to_, m, 0⟩] }
/-- The home of the sector. -/
def hm : Home := ev.homeOf 0x100000

theorem witness_Requests : let s := holds 3 true ev
    let q := oneReq (.die 1) 0x10000
    s.focused = false ∧ s.keeps (.die 0) 0x10000 = false ∧ (s.holdOf (.die 0) 0x10000).own = true ∧ (s.holdOf (.die 0) 0x10000).count ≠ 0 ∧
    after (exec (.gets (.die 0) q) (sent (.die 0) (.gets q) s)) (fun t => (t.holdOf (.die 0) 0x10000).count == 2 &&
      t.net.any (fun f => match f.msg with | .tok m _ => f.dst == .die 1 && m.count == 1 && !m.own && m.data == some 5 | _ => false)) ∧
    after (exec (.getx (.die 0) q) (sent (.die 0) (.getx q) s)) (fun t => (t.holdOf (.die 0) 0x10000).count == 0 &&
      t.net.any (fun f => match f.msg with | .tok m _ => f.dst == .die 1 && m.count == 3 && m.own | _ => false)) ∧
    after (exec (.recallTokens (.die 0) ⟨0x2000, 1⟩) (sent (.die 0) (.recallTokens ⟨0x2000, 1⟩) s)) (fun t =>
      t.net.any (fun f => match f.msg with | .tok m _ => f.dst == .home hm && m.count == 3 && m.own | _ => false)) := by decide +kernel
theorem witness_Tokens : let s := holds 3 false ev
    let m : TokMsg := ⟨.die 1, 0x10000, 13, true, true, 0, some 7⟩
    (s.die 0).cache.filter = [] ∧ (s.die 0).cache.acts = [] ∧ (s.die 0).cache.reqs = [] ∧ s.pendOf 0 0x10000 = none ∧
    (∀ y ∈ s.strands, y.near = none ∧ look 0x10000 y.wants = none) ∧ s.enginesWant 0 0x10000 = false ∧
    (s.die 0).cache.holds.any (fun y => y.sec / 8 == 0x10000 / 8) = true ∧ (∀ e : DieId, (s.die e).key.sends = [] ∧ (s.die e).key.recvs = []) ∧
    after (exec (.tok (.die 0) m) (sent (.die 0) (.tok m false) s)) (fun t => t.holdOf (.die 0) 0x10000 == ⟨0x10000, 16, true, true, true, false, 7⟩) := by
  decide +kernel
theorem witness_Timeouts : let r : CacheReq := ⟨0x10000, true, 0, 0, 400, 800⟩
    let s := ev.modCache (.die 0) (fun c => { c with reqs := [r] })
    let w : State := { ev.modCache (.die 0) (fun c => { c with reqs := [{ r with stage := 1 }] }) with time := 800 }
    (s.cache (.die 0)).reqs.find? (fun r => r.sec == 0x10000) = some r ∧ w.persists (.die 0) hm = false ∧ s.time < r.at_ + r.t1 ∧
    after (exec (.transientTimeout (.die 0) 0x10000) { s with time := 400 }) (fun t => t.net.length == 12) ∧
    after (exec (.persistentTimeout (.die 0) 0x10000) w) (fun t => t.net == [⟨.home hm, .preq (oneReq (.die 0) 0x10000), 800⟩]) ∧
    after (exec (.persistentTimeout (.die 0) 0x10000) (w.modCache (.die 0) (fun c => { c with reqs := c.reqs ++ [{ r with sec := 0x10003, stage := 1 }, { r with sec := 0x10004 }] })))
      (fun t => t.net == [⟨.home hm, .preq ⟨.die 0, 0x2000, 9⟩, 800⟩]) := by decide +kernel
theorem witness_Persistent : let m := oneReq (.die 0) 0x10000
    let a : ActMsg := ⟨hm, 0x2000, 1, .die 3, 4⟩
    let act (x : Bool) : ActSeen := ⟨hm, 4, 0x2000, 1, .die 3, x, false⟩
    let busy := ev.modHome hm (fun q => { q with hasp := { q.hasp with active := some (2, 0x2000, 1) } })
    (∃ b i, hm = .stack b i) ∧ ev.homeOfLine m.line = hm ∧ (ev.home hm).hasp.active = none ∧ (ev.home hm).hasp.set_ = [] ∧ (ev.home hm).queue = [] ∧
    after (exec (.preq m) (sent (.home hm) (.preq m) ev)) (fun t => (t.home hm).hasp.active == some (0, 0x2000, 1) && (t.home hm).hasp.epoch == 1) ∧
    after (exec (.preq m) (sent (.home hm) (.preq m) busy)) (fun t => (t.home hm).hasp.set_ == [(0, 0x2000, 1)]) ∧
    (ev.die 0).cache.actOf hm = none ∧ after (exec (.pact (.die 0) a) (sent (.die 0) (.pact a) (holds 3 true ev))) (fun t =>
      (t.die 0).cache.actOf hm == some (act true) && t.net.any (fun f => f.dst == .die 3)) ∧
    after (exec (.pdone hm 0) (sent (.home hm) (.pdone hm 0) busy)) (fun t => (t.home hm).hasp.active == none && t.net.length == 12) ∧
    after (exec (.pdeact (.die 0) hm 4) (sent (.die 0) (.pdeact hm 4) (ev.modCache (.die 0) (fun c => c.putAct (.die 0) (act true)))))
      (fun t => (t.die 0).cache.actOf hm == some (act false)) := by decide +kernel
theorem witness_Recovery : let s : State := { ev.modHome hm (fun q => { q with hasp := { q.hasp with active := some (2, 0x2000, 1) } }) with time := 20000 }
    let r : Recovery := ⟨0x2000, 1, 0, [], 0xFF, false, none⟩
    let w := ev.modHome hm (fun q => { q with recov := [r] })
    let l (b : BitVec 8) : State := { ev.modHome hm (fun q => { q with recov := [{ r with served := true, intact := b }] }) with time := 4000 }
    let a : RecAck := ⟨.die 5, 0x2000, 1, [], true⟩
    (s.home hm).recov = [] ∧ s.recoveryRoom = true ∧ (s.home hm).hasp.since + 20000 ≤ s.time ∧
    after (exec (.recoveryTimeout hm) s) (fun t => (t.home hm).serial 0x2000 == 1 && t.net.length == 12) ∧
    after (exec (.recreate (.die 0) 0x2000 1) (sent (.die 0) (.recreate 0x2000 1) (holds 3 true ev))) (fun t => (t.holdOf (.die 0) 0x10000).count == 0 &&
      t.net.any (fun f => match f.msg with | .recack b => b.owner == [(0, 5)] && b.held | _ => false)) ∧
    (let late := (holds 3 true ev).modCache (.die 0) (fun c => { c with filter := [(0x2000, 2, 40000)] })
     newer 2 1 = true ∧ newer 1 1 = false ∧ after (exec (.recreate (.die 0) 0x2000 1) (sent (.die 0) (.recreate 0x2000 1) late)) (fun t => (t.holdOf (.die 0) 0x10000).count == 3 &&
       (t.cache (.die 0)).filter == [(0x2000, 2, 40000), (0x2000, 1, 40000)] && t.net.any (fun f => match f.msg with | .recack b => b.owner == [] && !b.held | _ => false))) ∧
    after (exec (.recreateFilterExpiry (.die 0) 0x2000) (ev.modCache (.die 0) (fun c => { c with filter := [(0x2000, 1, 0), (7, 1, 0)] })))
      (fun t => (t.cache (.die 0)).filter == [(7, 1, 0)]) ∧
    (w.home hm).recov.find? (fun r => r.line == a.line && r.serial == a.serial) = some r ∧ w.sharers.all (fun y => [(a.src, a.held)].any (fun a => a.1 == y)) = false ∧
    after (exec (.recack a) (sent (.home hm) (.recack a) w)) (fun t => (t.home hm).recov.any (fun r => r.acks == [(.die 5, true)])) ∧
    after (exec (.lossCheck 0x2000) (l 0xFF)) (fun t => (t.home hm).recov == [] && t.mgmt.events == []) ∧
    after (exec (.lossCheck 0x2000) (l 0xFE)) (fun t => t.mgmt.events.length == 1) ∧ 0 < ev.mgmt.free := by decide +kernel
theorem witness_HomeAccesses : let at_ : AtomMsg := ⟨.die 0 9, 0x10000, 8, ⟨.add, true, 5, 0, true⟩⟩
    let ld : HldMsg := ⟨.die 0 9, 0x10000, 0xFF00⟩
    let sx : HstMsg := ⟨.die 0 9, 0x10000, 0x00FF, 0x77⟩
    let s := word 0x100008 3 ev
    let rc : State := { (ev.modHome hm (fun q => { q with recalls := [(0x10000, 0)], queue := [(0x10000, .hld ld)] })) with time := 900 }
    (s.home hm).hold 0x10000 = (16, true) ∧ (s.home hm).queue = [] ∧ (s.home hm).recovering 0x2000 = false ∧ (s.home hm).hasp.active = none ∧
    after (exec (.atom at_) (sent (.home hm) (.atom at_) s)) (fun t => t.memByte 0x100008 == 8 && t.net == [⟨.die 0, .rep 0 ⟨.die 0 9, 3, 0⟩, 0⟩]) ∧
    after (exec (.hld ld) (sent (.home hm) (.hld ld) s)) (fun t => t.net == [⟨.die 0, .rep 1 ⟨.die 0 9, 3, 0⟩, 0⟩]) ∧
    after (exec (.hst sx) (sent (.home hm) (.hst sx) s)) (fun t => t.memByte 0x100000 == 0x77 && t.memByte 0x100008 == 3) ∧
    look 0x10000 (rc.home hm).recalls = some 0 ∧ (rc.home hm).queued [0x10000] = true ∧
    after (exec (.recallTimeout 0x10000) rc) (fun t => (t.home hm).hasp.active == some (12, 0x2000, 1)) ∧
    after (exec (.flitGiveUp 0) { sent (.home hm) (.hst sx) s with time := 10000 }) (fun t => t.net == []) ∧
    after (exec (.flitGiveUp 0) (sent (.home hm) (.hst sx) s)) (fun t => t.net.length == 1) := by decide +kernel
theorem witness_Answers : let m : RepMsg := ⟨.die 0 9, 0x33, 0⟩
    let s := out (fun f => { f with state := .parked, park := some .remoteLoad, cur := .satom false .add true true 4 5 6, asked := [(0, 9)], hstOut := [(9, 4)] })
    (∀ p ∈ [(Instr.atomr m, (0 : Fin 3)), (.hldr m, 1), (.hstr m, 2)],
      after (exec p.1 (sent (.die 0) (.rep p.2 m) s)) (fun t => t.strands.any (fun z => z.hstOut == [] && look 0 z.got == some 0x33))) := by decide +kernel
/-- A link whose agent owns a line, reads and writes of it, a snoop of host memory, back-invalidation and the host's data. -/
theorem witness_Host : let up : State := { ev with cxl := 1 }
    let all (n : Nat) (s : State) : State := (hostSecs n).foldl (fun s y => s.modCache (.agent 0) (fun c => c.setHold ⟨y, 16, true, false, true, false, 6⟩)) s
    let hl := 4 * 2 ^ 44 / 64
    let x : Snoop := ⟨0, 0x4000, true, .die 3, false, none⟩
    let w : State := { all 0x1000 up with snoops := [x] }
    let rd : State := { up with hostReads := [(0, 4 * hl, true)] }
    up.inDevice (64 * 0x1000) = true ∧ up.inDevice (64 * hl) = false ∧ inHost (64 * hl) = true ∧ up.homeOf (64 * hl) = .agent 0 ∧
    (∀ y ∈ hostSecs 0x1000, (all 0x1000 up).hostHas 0 false y = true ∧ (all 0x1000 up).hostHas 0 true y = true) ∧
    (∀ y ∈ hostSecs hl, (all hl up).hostHas 0 true y = true) ∧
    after (exec (.cxlMemrd 0 0x1000) (all 0x1000 up)) (fun t => t.hostOut.length == 4) ∧
    after (exec (.cxlMemwr 0 0x1000 (some 9)) (all 0x1000 up)) (fun t => (t.holdOf (.agent 0) 0x4000).data == 9) ∧
    after (exec (.cxlSnoop 0 hl true) (all hl up)) (fun t => t.hostOut.length == 4) ∧
    (match exec (.cxlMemrd 0 hl) up with | .fault (.noSuchPhysicalAddress a) => a == 64 * hl | _ => false) = true ∧
    up.cxl.getLsbD 0 = true ∧ up.hostAccs = [] ∧ 64 * 0x1000 / 2 ^ 38 = (0 : LinkId).val ∧ up.carved (64 * 0x1000) 64 = false ∧ 64 * 0x1000 / 2 ^ 38 ≠ (1 : LinkId).val ∧
    after (exec (.cxlMemrd 1 0x1000) up) (fun t => t == up) ∧
    w.snoops.find? (fun y => y.link == 0 && y.sec == 0x4000) = some x ∧ x.recr = none ∧ x.inv = true ∧ w.snoops = [x] ∧ after (exec (.bisnpResponse 0 0x4000 none) w) (fun t => t.snoops == [] && (t.holdOf (.agent 0) 0x4000).count == 0) ∧
    (rd.home (.agent 0)).queue = [] ∧ after (exec (.cxlHostData 0 (4 * hl) true 0x99) rd) (fun t => t.memByte (64 * hl) == 0x99) := by decide +kernel

/-! ### Packets, the Keyway, and the step -/

/-- Port 0 is up and takes key 7; window page 0 of the package is page 0x10 of memory, readable and writable. -/
def linked (s : State) : State := { s with ports := s.ports.set 0 { s.ports[0] with width := 1, memb := [(0, 0x8000000000000007)] }, fabwin := [(0, 0x8000000000100006)] }
/-- A packet from die 2 of package 9. -/
def pkt (kind n : Nat) (a : Word) (b : List Byte) : Packet :=
  ⟨7, 0, 0, BitVec.ofNat 8 kind, 9, 2, 0, BitVec.ofNat 16 n, 33, a, 0, none, if kind = 4 then some ⟨.add, true, 1, 0, true⟩ else none, b⟩

theorem witness_PortRequests : let s := linked ev
    let up := s.ports[(0 : PortId)].width ≠ 0 ∧ s.ports[(0 : PortId)].member 7 = true
    let bad (k : Nat) (o : Host.Outcome State Fault Refusal) : Bool := after o (fun t => t.net == [] && t.outbox.any (fun x => x.2.kind == BitVec.ofNat 8 k && x.2.status == 1))
    up ∧ s.windowPa 8 8 true true = some 0x100008 ∧ 0 < 8 ∧ 0x100008 % 16 + 8 ≤ 16 ∧ s.windowPa 0x10000 8 true false = none ∧ s.windowPa 0x10000 8 false true = none ∧
    s.windowPa 0x10000 8 true true = none ∧ s.ports[(0 : PortId)].member 8 = false ∧
    after (exec (.fabRead 0 (pkt 0 8 8 [])) s) (fun t => t.net.any (fun f => f.dst == .home hm && match f.msg with | .hld m => m.mask == 0xFF00 | _ => false)) ∧
    after (exec (.fabWrite 0 (pkt 2 8 8 [1, 2, 3, 4, 5, 6, 7, 8])) s) (fun t => t.net.any (fun f => match f.msg with | .hst m => m.mask == 0xFF00 | _ => false)) ∧
    after (exec (.fabAtomic 0 (pkt 4 8 8 [])) s) (fun t => t.net.any (fun f => match f.msg with | .atom m => m.off == 8 | _ => false)) ∧
    bad 1 (exec (.fabRead 0 (pkt 0 8 0x10000 [])) s) ∧ bad 3 (exec (.multicastWrite 0 (pkt 6 8 0x10000 [1])) s) ∧ bad 5 (exec (.fabAtomic 0 (pkt 4 8 0x10000 [])) s) ∧
    after (exec (.fabRead 0 { pkt 0 8 8 [] with key := 8 }) s) (fun t => t.ports[(0 : PortId)].drop == 1 && t.net == []) ∧
    after (exec (.unknownPacketType 0 (pkt 11 8 8 [])) s) (fun t => t.ports[(0 : PortId)].drop == 1) := by decide +kernel
/-- A load of word s4 that waits for transaction 33, answered, refused and timed out; a store to a group that waits for member 5. -/
theorem witness_Replies : let q : RemotePart := ⟨0, 33, 0, 0x5000, none, false, 0⟩
    let m : Remote := ⟨true, false, true, false, 0, .sreg 4 8 false, 0x100000, [q]⟩
    let s := linked (out (fun f => { f with state := .parked, park := some .remoteLoad, cur := .nop false, remotes := [m] }))
    let w := linked (out (fun f => { f with mcast := some ⟨1, [(5, q)], 0⟩ }))
    s.strands.find? (fun y => s.strandOn 0 y && y.remotes.any (fun n => n.has 33)) = s.strandOf 1 ∧ (s.strandOf 1).any (fun x => x.uid == 1 && (s.crewOf x.crew).any (fun k => k.die == 0)) ∧
    ((below 8).map (Fin.ofNat 8)).find? (fun e => ({ s with time := 1000000 } : State).farDue e 1 33) = some 0 ∧
    after (exec (.fabReadReply 0 (pkt 1 8 0 [9, 0, 0, 0, 0, 0, 0, 0])) s) (fun t => (t.strandOf 1).any (fun z => z.rdS 4 == 9 && z.remotes == [])) ∧
    after (exec (.fabReadReply 0 { pkt 1 8 0 [] with status := 1 }) s) (fun t => (t.strandOf 1).any (fun z => z.remotes == [] && z.deferred.any (fun y => y.sub == 4))) ∧
    after (exec (.remoteTimeout 1 33) { s with time := 1000000 }) (fun t => (t.strandOf 1).any (fun z => z.remotes == [] && z.deferred.any (fun y => y.sub == 2))) ∧
    after (exec (.mcastAckTimeout 1 33) { w with time := 1000000 }) (fun t => (t.strandOf 1).any (fun z => z.mcast == some ⟨1, [], 32⟩)) := by decide +kernel

/-- A message header with a job key and a sequence number, to context 3 of die 0 of package 0. -/
def khdr (key seq : Nat) : KHdr := ⟨BitVec.ofNat 32 key, 0, 1, 0, 0, 3, false, 0x55, 8, BitVec.ofNat 32 seq⟩
/-- The message on its way. -/
def kmsg (key seq : Nat) : KMsg := ⟨0, none, khdr key seq, 4, [1, 2, 3, 4, 5, 6, 7, 8]⟩
/-- Context 3 of die 0 with job key 7 and a ring of one entry. -/
def kc (s : State) : State := s.modKctx 0 3 (fun k => { k with w0 := 0x8000000000000007, ring := 0x300000 })
/-- A send of die 0 to another package at a stage, of `n` bytes. -/
def ks (n stage : Nat) : KSend := ⟨⟨4, 2, desc [(40, 1, 4), (41, 1, 8)], .token 77, n, 0⟩, some { khdr 7 0 with dpkg := 5 }, [], stage, 0, 1000, cursor 4 0, none⟩
/-- With that send. -/
def sending (x : KSend) (s : State) : State := s.modKey 0 (fun y => { y with sends := [x] })

theorem witness_Keyway :
    let a (key seq : Nat) (s : State) (p : State → Bool) (n : Nat) : Bool :=
      after (exec (.keywayMessage (kmsg key seq)) (sent (.die 0) (.key (kmsg key seq)) s)) (fun t => p t && t.net.any (fun f => f.dst == .die 1 && f.msg == .keyRep 1 4 n))
    let full := (kc ev).modKctx 0 3 (fun k => { k with unexp := [⟨kmsg 7 9, 0⟩] })
    (ev.kctx 0 3).configured = false ∧ ((kc ev).kctx 0 3).configured = true ∧ ((kc ev).kctx 0 3).key = 7 ∧ (kc ev).matchRecv 0 3 (khdr 7 0) = none ∧
    (kc ev).ringFree 0 3 = some 0 ∧ full.ringFree 0 3 = none ∧ a 7 0 ev (fun _ => true) 2 ∧ a 8 0 (kc ev) (fun _ => true) 2 ∧ a 7 1 (kc ev) (fun _ => true) 1 ∧
    a 7 0 full (fun _ => true) 1 := by decide +kernel
theorem witness_KeywaySends : let s := linked ev
    (sending (ks 8 1) s).sendOf 0 4 = some (ks 8 1) ∧ ({ khdr 7 0 with dpkg := 5 } : KHdr).dpkg ≠ s.pkgId ∧
    after (exec (.keywayAck 0 ⟨4, some (0, 7)⟩) (sending (ks 8 1) s)) (fun t => (t.die 0).key.sends == []) ∧
    after (exec (.keywayAck 0 ⟨4, some (0, 7)⟩) (sending (ks 5000 1) s)) (fun t => t.sendOf 0 4 == some (ks 5000 3)) ∧
    after (exec (.keywayNack 0 ⟨4, some (0, 7)⟩) (sending (ks 8 1) s)) (fun t => (t.sendOf 0 4).any (fun y => y.stage == 2 && y.at_ == 1000 && y.delay == 2000)) ∧
    after (exec (.keywayReject 0 ⟨4, some (0, 7)⟩) (sending (ks 8 1) s)) (fun t => (t.kctx 0 0).broken.any (fun b => b.2 == 3) && (t.die 0).key.sends == []) ∧
    after (exec (.keywayAck 0 ⟨4, some (0, 8)⟩) (sending (ks 8 1) s)) (fun t => t.ports[(0 : PortId)].drop == 1 && (t.die 0).key.sends == [ks 8 1]) ∧
    after (exec (.keywayReject 0 ⟨9, some (0, 8)⟩) s) (fun t => t.ports[(0 : PortId)].drop == 1) ∧
    (let near : KSend := { ks 8 1 with hdr := some (khdr 7 0) }
     (khdr 7 0).dpkg = ev.pkgId ∧ after (exec (.keywayAck 0 ⟨4, none⟩) (sent (.die 0) (.keyRep 0 4 0) (sending near ev))) (fun t => (t.die 0).key.sends == []) ∧
     after (exec (.keywayAck 0 ⟨4, none⟩) (sending near ev)) (fun t => (t.die 0).key.sends == [near])) ∧
    after (exec (.keywayRetry 0 4) (sending (ks 8 2) s)) (fun t => t.sendOf 0 4 == some (ks 8 1)) ∧
    after (exec (.keywayAckTimeout 0 4) { sending (ks 8 1) s with time := 1000000 }) (fun t => (t.kctx 0 0).broken.any (fun b => b.2 == 2)) := by decide +kernel
theorem witness_Pulls : let r : PullReq := ⟨0, none, khdr 7 0, 4, 12, 8⟩
    let g := { kmsg 7 0 with hdr := { khdr 7 0 with length := 8, pull := true } }
    let x : Recv := ⟨6, 2, 3, 0, false, desc [(8, 4, 2), (40, 1, 4), (41, 1, 8)], 0, .token 77, 0, cursor 6 0, some g, [], [], some 12, none, none, false⟩
    let p : PullData := ⟨0, none, 7, 12, 0, [1, 2, 3, 4], none⟩
    let s := ev.modKey 0 (fun y => { y with recvs := [x] })
    kSpad (ks 8 3).send.desc = true ∧ 0 < kEb (ks 8 3).send.desc ∧
    after (exec (.pullRequest r) (sent (.die 0) (.pullReq r) (sending (ks 8 3) ev))) (fun t => (t.die 0).key.sends == []) ∧
    (s.die 0).key.recvs.find? (fun y => y.txn == some p.txn) = some x ∧ s.recvOf 0 6 = some x ∧ kSpad x.desc = true ∧ 0 < kEb x.desc ∧ p.off = x.payload.length ∧
    x.cur.next * kEb x.desc ≤ x.payload.length ∧ x.payload.length + p.bytes.length < x.due ∧
    after (exec (.pullData p) (sent (.die 0) (.pullData p) s)) (fun t => (t.recvOf 0 6).any (fun y => y.payload == [1, 2, 3, 4])) ∧
    after (exec (.pullData { p with via := some 0, key := 8 }) (linked s)) (fun t => t.ports[(0 : PortId)].drop == 1 && (t.recvOf 0 6) == some x) := by decide +kernel

/-- What a step gives, and the word it fetches: `addi s1, s0, 5`; a turn of a context, of an event, and time. -/
theorem witness_StepRuns : let s := State.reset.withFetchWord 32 0x0A080005
    let q := State.reset.withFetchWord 32 0x69A00000
    (decodeWord 0x0A080005).toOption = some (.addi false 1 0 5) ∧ s.turns = [.strand 1] ∧ q.turns = [.seq 2] ∧
    (({ s with turns := [] } : State).take 1).any (fun t => t.focus.state == .issuing && !t.crew.preempted && !t.laterRun && t.focus.stepDue == none && !(t.brkHit [1] t.focus.pc.toNat) &&
      decide (t.focus.run < 24) && match (t.setFocus { t.focus with unitPc := t.focus.pc, unitLane := t.guardLane, stepDue := none }).fetchWord t.focus.pc.toNat with
        | (_, .word w) => w == 0x0A080005 && !isPrefix w
        | _ => false) ∧
    after (step s) (fun t => t.focus.rdS 1 == 5 && t.focus.pc == 0x100004) ∧
    (({ q with turns := [] } : State).takeCrew 2).any (fun t => t.crew.seq.state == .running && t.crew.hasSeq && !t.crew.preempted && !t.halting t.crew && !t.inArray && match t.seqFetch with
      | (_, .instr i) => i == .mset 1 0xA00000
      | _ => false) ∧
    after (step q) (fun t => (t.qReg 1 == 0xFFFFFFFFFFA00000)) ∧
    after (step { ev with turns := [.event (.rootWrite 0 0x10000)] }) (fun t => (t.die 0).ctl.root == 0x10000) ∧
    (let z := State.modGrid (outCrew (fun c => { c with seq := { c.seq with state := .running, pc := 0x100000, start := 0x100000 } })) 0 0 (fun g => ({ g with image := [(0x100003, 0x50)] } : Grid))
     after (step { z with turns := [.seq 2] }) (fun t => t.crew.seq.pc == 0x100004) ∧
     (({ z with turns := [] } : State).takeCrew 2).any (fun t => (match t.seqFetch with
       | (_, .instr i) => i == .mzero 0
       | _ => false) && ({ z with turns := [] } : State).putBack.tileTurn t.crew && t.arrayFree) = true) ∧
    (let raw := leBytes 2 9 ++ leBytes 2 0 ++ leBytes 4 1 ++ leBytes 8 0 ++ leBytes 4 63 ++ leBytes 4 0
     (requestOf (.die 0) 0 raw).isSome = true ∧ (requestOf (.die 0) 1 raw).isSome = false ∧
     after (step { ev with turns := [.request (.die 0) 0 raw] }) (fun t => said t == [(1, 0)]) ∧
     after (step { ev with turns := [.request (.die 0) 1 raw] }) (fun t => said t == [(1, 1)])) ∧
    after (step { ev with turns := [.advance 7] }) (fun t => t.time == 7) := by decide +kernel
/-- A run with a QUAL prefix before its memory instruction (R50, R52). -/
theorem witness_StepPrefixes : let s := (State.reset.withFetchWord 32 0x51100000).modGrid 0 0 (fun g => ({ g with fetched := [(0x100004, 0x65851200)] } : Grid))
    let t := (({ s with turns := [] } : State).take 1).getD State.reset
    t.laterRun = false ∧ (match (t.setFocus { t.focus with unitPc := t.focus.pc, unitLane := t.guardLane, stepDue := none }).fetchWords 3 t.focus.pc.toNat t.focus.run [] with
    | (v, .ok ws) => ws == [0x51100000, 0x65851200] && prefixesOk [0x51100000] 0x65851200 && (v.runPrefixes [.qual 4 .acq 0]).focus.state == .issuing
    | _ => false) = true := by decide +kernel
theorem witness_Whole : State.reset.memWf = true ∧ encodeWord (.rootWrite 0 0) = none ∧ (Instr.sub true 63 0 63).wf = true ∧ (encodeWord (.sub true 63 0 63)).isSome = true ∧
    after (step (State.reset.withFetchWord 32 0)) (fun t => t.memWf) := by decide +kernel

end Sys2Proof.Tests
end

/-! SUPPORT. The scalar operations of R68 to R71: each is `State.alu2` of the value that the manual's table gives it. -/

namespace Sys2Proof.Machine

open Sys2Proof

/-! ### The model's arithmetic in the words of the tables (R68, R69) -/

theorem wdiv_eq (a b : Word) : wdiv a b = if b = 0 then BitVec.allOnes 64 else a.sdiv b := by
  unfold wdiv
  split
  · rfl
  · exact BitVec.eq_of_toInt_eq (by rw [BitVec.toInt_ofInt, BitVec.toInt_sdiv])

theorem wdivu_eq (a b : Word) :
    (if b = 0 then ~~~0 else BitVec.ofNat 64 (a.toNat / b.toNat)) = if b = 0 then BitVec.allOnes 64 else a / b := by
  rw [BitVec.udiv_def]
  rfl

theorem wremu_eq (a b : Word) : (if b = 0 then a else BitVec.ofNat 64 (a.toNat % b.toNat)) = if b = 0 then a else a % b := by
  rw [BitVec.umod_def]

theorem wrem_eq (a b : Word) : wrem a b = if b = 0 then a else a.srem b := by
  unfold wrem
  rw [← BitVec.toInt_srem, BitVec.ofInt_toInt]

/-- Which of two words of equal measure is taken for the larger does not matter, where the measure tells words apart. -/
theorem larger_comm {α : Type} [LinearOrder α] {f : Word → α} (hf : Function.Injective f) (a b : Word) :
    (if f b ≤ f a then a else b) = if f a ≤ f b then b else a := by
  rcases lt_trichotomy (f a) (f b) with h | h | h
  · rw [if_neg h.not_ge, if_pos h.le]
  · rw [if_pos h.ge, if_pos h.le, hf h]
  · rw [if_pos h.le, if_neg h.not_ge]

theorem flag_slt (a b : Word) : flag (a.toInt < b.toInt) = if a.slt b then 1 else 0 := by
  simp only [flag, BitVec.slt_iff_toInt_lt]

theorem flag_ult (a b : Word) : flag (a.toNat < b.toNat) = if a.ult b then 1 else 0 := by
  simp only [flag, BitVec.ult_iff_toNat_lt]

theorem flag_ne (a b : Word) : flag (a ≠ b) = if a = b then 0 else 1 := by
  simp only [flag, ne_eq, ite_not]

theorem bitField_eq (a b : Word) :
    bitField a b = BitVec.ofNat 64 ((a >>> (b.toNat % 64)).toNat % 2 ^ (min (b.toNat / 64 % 128) 64)) := by
  rw [BitVec.toNat_ushiftRight, Nat.shiftRight_eq_div_pow]
  rfl

/-! ### One shape for every scalar operation -/

/-- An operation of one register is one of two registers that has no use for the second. -/
theorem State.alu1_eq_alu2 {s : State} {rd ra rb : SReg} (h : s.waits [ra, rb] [rd] [] = none) (e : Bool) (f : Word → Word) :
    s.alu1 e rd ra f = s.alu2 e rd ra rb (fun a _ => f a) := by
  have h1 : s.waits [ra] [rd] [] = none := s.waits_mono h (by simp)
  simp only [State.alu1, State.alu2, State.gate_next h, State.gate_next h1]

/-- So is the writing of a constant. -/
theorem State.const_eq_alu2 {s : State} {rd ra rb : SReg} (h : s.waits [ra, rb] [rd] [] = none) (e : Bool) (k : Word) :
    s.gate [] [rd] [] (fun s => (s.wrS rd k).finish e) = s.alu2 e rd ra rb (fun _ _ => k) := by
  have h0 : s.waits [] [rd] [] = none := s.waits_mono h (by simp)
  simp only [State.alu2, State.gate_next h, State.gate_next h0]

/-- Equal values make equal operations. -/
theorem State.alu2_congr {s : State} {e : Bool} {rd ra rb : SReg} {f g : Word → Word → Word} (h : ∀ a b, f a b = g a b) :
    Host.Outcome.next (s.alu2 e rd ra rb f) = (.next (s.alu2 e rd ra rb g) : Out) := by
  rw [show f = g from funext₂ h]

/-- The first half of the table of R68: the model's value is the table's own, but for division. -/
theorem exec_aluTable (s : State) (e : Bool) (rd ra rb : SReg) :
    ∀ p ∈ aluTable e rd ra rb, exec p.1 s = .next (s.alu2 e rd ra rb p.2) := by
  have hdiv : exec (.div e rd ra rb) s = _ := State.alu2_congr wdiv_eq
  have hdivu : exec (.divu e rd ra rb) s = _ := State.alu2_congr wdivu_eq
  have hrem : exec (.rem e rd ra rb) s = _ := State.alu2_congr wrem_eq
  have hremu : exec (.remu e rd ra rb) s = _ := State.alu2_congr wremu_eq
  simp only [aluTable, List.forall_mem_cons]
  exact ⟨rfl, rfl, rfl, rfl, rfl, hdiv, hdivu, hrem, hremu, rfl, rfl, rfl, rfl, List.forall_mem_nil _⟩

/-- The second half of the table of R68: maxima, comparisons and the bit field are written another way, and four operations read one
register. -/
theorem exec_aluTable2 {s : State} {rd ra rb : SReg} (h : s.waits [ra, rb] [rd] [] = none) (e : Bool) :
    ∀ p ∈ aluTable2 e rd ra rb, exec p.1 s = .next (s.alu2 e rd ra rb p.2) := by
  have hmax : exec (.max e rd ra rb) s = _ := State.alu2_congr (larger_comm fun _ _ => BitVec.eq_of_toInt_eq)
  have hmaxu : exec (.maxu e rd ra rb) s = _ := State.alu2_congr (larger_comm fun _ _ => BitVec.eq_of_toNat_eq)
  have hslt : exec (.slt e rd ra rb) s = _ := State.alu2_congr flag_slt
  have hsltu : exec (.sltu e rd ra rb) s = _ := State.alu2_congr flag_ult
  have hsne : exec (.sne e rd ra rb) s = _ := State.alu2_congr flag_ne
  have hbfx : exec (.bfx e rd ra rb) s = _ := State.alu2_congr bitField_eq
  have unary (f : Word → Word) := congrArg (Host.Outcome.next : State → Out) (s.alu1_eq_alu2 h e f)
  simp only [aluTable2, List.forall_mem_cons]
  exact ⟨rfl, rfl, rfl, rfl, hmax, rfl, hmaxu, hslt, hsltu, rfl, hsne, hbfx, unary _, unary _, unary _, unary _, List.forall_mem_nil _⟩

/-- The operations with a constant (R70, R71) read one register or none. -/
theorem exec_immTable {s : State} {rd ra rb : SReg} (h : s.waits [ra, rb] [rd] [] = none) (e : Bool) (imm : BitVec 13) (big : BitVec 19) :
    ∀ p ∈ immTable e rd ra imm big, exec p.1 s = .next (s.alu2 e rd ra rb p.2) := by
  have unary (f : Word → Word) := congrArg (Host.Outcome.next : State → Out) (s.alu1_eq_alu2 h e f)
  have const (k : Word) := congrArg (Host.Outcome.next : State → Out) (s.const_eq_alu2 h e k)
  have hslti : exec (.slti e rd ra imm) s = _ := (unary _).trans (State.alu2_congr fun a _ => flag_slt a (imm.signExtend 64))
  have hsltiu : exec (.sltiu e rd ra imm) s = _ := (unary _).trans (State.alu2_congr fun a _ => flag_ult a (imm.signExtend 64))
  simp only [immTable, List.forall_mem_cons]
  exact ⟨unary _, unary _, unary _, unary _, hslti, hsltiu, const _, const _, List.forall_mem_nil _⟩

/-- Every scalar operation that waits for nothing is `State.alu2` of its table's value. -/
theorem exec_scalarTable {s : State} {rd ra rb : SReg} (h : s.waits [ra, rb] [rd] [] = none) (e : Bool) (imm : BitVec 13) (big : BitVec 19) :
    ∀ p ∈ scalarTable e rd ra rb imm big, exec p.1 s = .next (s.alu2 e rd ra rb p.2) := by
  simp only [scalarTable, List.forall_mem_append]
  exact ⟨⟨exec_aluTable s e rd ra rb, exec_aluTable2 h e⟩, exec_immTable h e imm big⟩

/-- Settles O1: every operation of the tables is one operation of two registers, whose result, frame and next word `alu2_spec` gives. -/
theorem scalarResults : Obligations.ScalarResults := by
  unfold Obligations.ScalarResults
  intro s e rd ra rb imm big h p hp
  exact ⟨_, exec_scalarTable h e imm big p hp, State.alu2_spec h⟩

end Sys2Proof.Machine

/-! SUPPORT. Direct control transfer (R72, R73): what a unit that ends its run leaves, and what the branches test. -/

namespace Sys2Proof.Machine

open Sys2Proof

/-! ### Ending a run -/

@[simp] theorem State.overwrite_mem (s : State) (ws : List SReg) : (s.overwrite ws).mem = s.mem := by
  obtain ⟨m, d, h⟩ := s.overwrite_eq ws; rw [h]; rfl
@[simp] theorem State.overwrite_watchedSteps (s : State) (ws : List SReg) : (s.overwrite ws).watchedSteps = s.watchedSteps := by
  simp only [State.watchedSteps, State.overwrite_crew]
@[simp] theorem State.wrS_watchedSteps (s : State) (r : SReg) (v : Word) : (s.wrS r v).watchedSteps = s.watchedSteps := rfl

/-- Ending a run leaves the strand READY at the start of the next one (R43). -/
theorem State.goto_true (s : State) (t : Word) : (s.goto true t).focus.run = 0 ∧ (s.goto true t).focus.state = .ready := ⟨rfl, rfl⟩

/-- The record of a step event rewinds no prefix words, for the run is already at its start. -/
theorem State.complete_run (s : State) (t : Word) : (s.complete true t).focus.run = 0 := by
  unfold State.complete
  dsimp only
  split
  · rw [State.takeFault_focus]; exact Nat.zero_sub _
  · exact (s.goto_true t).1

/-- A unit that completes with its run at an end opens a new run. -/
theorem State.complete_runEnds (s : State) (t : Word) : s.RunEnds (s.complete true t) :=
  ⟨s.complete_run t, fun h => by rw [State.complete_eq h]; exact (s.goto_true t).2⟩

/-- Completing a unit writes nothing to memory, but for the record of a step event. -/
theorem State.complete_mem {s : State} (h : s.watchedSteps = false) (e : Bool) (t : Word) : (s.complete e t).mem = s.mem := by
  rw [State.complete_eq h]
  unfold State.goto
  dsimp only
  split <;> rfl

/-- Whether a run ends is said of a state by its crew alone. -/
theorem State.RunEnds.of_watchedSteps {s u t : State} (h : u.RunEnds t) (hw : u.watchedSteps = s.watchedSteps) : s.RunEnds t := by
  unfold State.RunEnds at h ⊢
  rwa [hw] at h

/-! ### Branches -/

/-- Every branch of R72 is `State.branch` of a test that decides its condition. -/
theorem exec_branchTable (s : State) (ra : SReg) (disp : BitVec 16) :
    ∀ p ∈ branchTable ra disp, ∃ c : Int → Bool, exec p.1 s = .next (s.branch ra disp c) ∧ ∀ x, c x = true ↔ p.2 x := by
  have test (P : Int → Prop) [DecidablePred P] : ∃ c : Int → Bool,
      Host.Outcome.next (s.branch ra disp (fun x => decide (P x))) = (.next (s.branch ra disp c) : Out) ∧ ∀ x, c x = true ↔ P x :=
    ⟨_, rfl, fun _ => decide_eq_true_iff⟩
  simp only [branchTable, List.forall_mem_cons]
  exact ⟨test _, test _, test _, test _, test _, test _, List.forall_mem_nil _⟩

/-- A branch completes at its target or at the next word, as its test says. -/
theorem State.branch_eq {s : State} {ra : SReg} (h : s.waits [ra] [] [] = none) (disp : BitVec 16) (c : Int → Bool) :
    s.branch ra disp c = s.complete true (if c (s.rdS ra).toInt then s.focus.pc + disp.signExtend 64 * 4 else s.focus.pc + 4) := by
  simp only [State.branch, State.gate_next h, State.overwrite_nil]
  exact (apply_ite (s.complete true) _ _ _).symm

/-- A call completes at its target with the next word's address in s62. -/
theorem exec_call {s : State} (h : s.waits [] [62] [] = none) (far : BitVec 25) :
    exec (.call far) s =
      .next (((s.overwrite [62]).wrS 62 (s.focus.pc + 4)).complete true (s.focus.pc + far.signExtend 64 * 4)) := by
  change Host.Outcome.next (s.gate [] [62] [] _) = _
  rw [State.gate_next h, State.target, State.overwrite_pc]

/-- Settles O6: each of these units completes at its target with its run at an end. -/
theorem directTransferResults : Obligations.DirectTransferResults := by
  unfold Obligations.DirectTransferResults
  intro s ra disp far
  refine ⟨fun h p hp => ?branch, ?jmp, fun h => ?call⟩
  case branch =>
    obtain ⟨c, hexec, hc⟩ := exec_branchTable s ra disp p hp
    rw [hexec, State.branch_eq h]
    refine ⟨_, rfl, fun ht => ?_, fun hn => ?_, by simp, s.complete_runEnds _⟩
    · rw [State.complete_pc, if_pos ((hc _).2 ht)]
    · rw [State.complete_pc, if_neg (mt (hc _).1 hn)]
  case jmp =>
    exact ⟨_, rfl, s.complete_pc true _, s.complete_rdS true _, s.complete_runEnds _, fun hw => State.complete_mem hw true _⟩
  case call =>
    refine ⟨_, exec_call h far, by simp, by simp, fun r hr => ?_, ?_, fun hw => ?_⟩
    · rw [State.complete_rdS, State.rdS_wrS, if_neg hr, State.overwrite_rdS]
    · exact (State.complete_runEnds _ _).of_watchedSteps (by simp)
    · rw [State.complete_mem (by simpa using hw)]
      simp

end Sys2Proof.Machine
